-- ==== Sys2Proof/Word.lean ====
section
/-! DEFINITION. The word types of the D6 (00 R1, 05 R98, R101; 08 R183). -/

namespace Sys2Proof

/-- One byte of memory. -/
abbrev Byte := BitVec 8
/-- A 32-bit register: v, k, lc, a sum latch (05 R98, R102; 06 R150). -/
abbrev Word := BitVec 32
/-- A 64-bit value: a q register, an es register, a register pair, an address (05 R101; 08 R183). -/
abbrev DWord := BitVec 64
/-- A set of lanes of a crew, bit l for lane l (04 R85). -/
abbrev Lanes := BitVec 64

end Sys2Proof
end

