-- ==== Sys2Proof/Machine/Bits.lean ====
section
/-! DEFINITION. Bit fields, sign extension, little-endian bytes and lane sets (00 R1; 02 R18; 05 R106). -/

namespace Sys2Proof.Machine

/-- Bits [hi:lo] of a natural number (00 R1). -/
def natBits (x hi lo : Nat) : Nat := (x >>> lo) % 2 ^ (hi + 1 - lo)

/-- One bit of a natural number as a truth value. -/
def natBit (x i : Nat) : Bool := (x >>> i) % 2 == 1

/-- A truth value as a number. -/
def bit01 (b : Bool) : Nat := if b then 1 else 0

/-- A w-bit pattern read as a two's-complement integer (05 R106). -/
def toSigned (w x : Nat) : Int :=
  let y := x % 2 ^ w
  if 2 ^ (w - 1) ≤ y then (y : Int) - (2 ^ w : Nat) else y

/-- An integer kept modulo 2^w, as a w-bit pattern. -/
def wrapNat (w : Nat) (x : Int) : Nat := (x % ((2 ^ w : Nat) : Int)).toNat

/-- A sign-extended field as an integer. -/
def sextField {n : Nat} (x : BitVec n) : Int := x.toInt

/-- An integer held between two bounds. -/
def clampInt (x lo hi : Int) : Int := if x < lo then lo else if hi < x then hi else x

/-- The value of little-endian bytes (00 R1). -/
def ofBytesLE : List Byte → Nat
  | [] => 0
  | b :: bs => b.toNat + 256 * ofBytesLE bs

/-- A value as n little-endian bytes (00 R1). -/
def toBytesLE : Nat → Nat → List Byte
  | 0, _ => []
  | n + 1, x => BitVec.ofNat 8 x :: toBytesLE n (x / 256)

/-- Two registers of a pair joined, the lower-numbered one low (05 R101). -/
def joinPair (lo hi : Word) : DWord := hi ++ lo

/-- The low half of a 64-bit value. -/
def loWord (x : DWord) : Word := x.extractLsb' 0 32

/-- The high half of a 64-bit value. -/
def hiWord (x : DWord) : Word := x.extractLsb' 32 32

/-- The lanes of a set, in rising order. -/
def laneList (m : Lanes) : List Nat := (List.range 64).filter (fun l => m.getLsbD l)

/-- The set holding one lane. -/
def laneBit (l : Nat) : Lanes := BitVec.ofNat 64 (2 ^ l)

/-- The set of the lanes listed. -/
def lanesOf (ls : List Nat) : Lanes := ls.foldl (fun m l => m ||| laneBit l) 0

/-- The lowest-numbered lane of a set. -/
def lowLane (m : Lanes) : Option Nat := (laneList m).head?

/-- How many lanes a set holds. -/
def laneCount (m : Lanes) : Nat := (laneList m).length

/-- The lanes of a set that meet a test. -/
def lanesWhere (m : Lanes) (p : Nat → Bool) : Lanes :=
  lanesOf ((laneList m).filter p)

/-- Population count of the low w bits. -/
def popcount : Nat → Nat → Nat
  | 0, _ => 0
  | w + 1, x => x % 2 + popcount w (x / 2)

/-- The low w bits in reverse order. -/
def revBits : Nat → Nat → Nat
  | 0, _ => 0
  | w + 1, x => (x % 2) * 2 ^ w + revBits w (x / 2)

/-- Rounding up to a multiple. -/
def roundUp (x m : Nat) : Nat := ((x + m - 1) / m) * m

/-- The largest number of a list, 0 of none. -/
def listMax (l : List Nat) : Nat := l.foldl max 0

/-- The smallest number of a list, a given one of none. -/
def listMin (d : Nat) : List Nat → Nat
  | [] => d
  | x :: xs => xs.foldl min x

/-- The entries of a list without repeats, the first of each kept. -/
def dedup {α : Type} [DecidableEq α] (l : List α) : List α :=
  l.foldl (fun acc x => if x ∈ acc then acc else acc ++ [x]) []

/-- A list sorted by a strict order on a key, stably. -/
def insertBy {α : Type} (lt : α → α → Bool) (x : α) : List α → List α
  | [] => [x]
  | y :: ys => if lt x y then x :: y :: ys else y :: insertBy lt x ys

/-- Insertion sort, stable. -/
def sortBy {α : Type} (lt : α → α → Bool) (l : List α) : List α :=
  l.foldl (fun acc x => insertBy lt x acc) []

end Sys2Proof.Machine
end

