-- ==== Sys2Proof/Syntax.lean ====
section
/-! DEFINITION. The instructions of the D6: one constructor for each row of the opcode table.
A slot instruction carries every bit of its 64-bit slot word but E, U and OP (03 R44 to R51), so that an encoding is
read off a constructor and nothing of it is lost. Register operands stay the 8-bit codes of 03 R53 and R55, which
the manual treats as codes of a map that the kernel's allotment bounds. The rows that no slot word encodes (steps of
the memory system, the launch path, drivers, debugger, links) carry what the step is given. -/

namespace Sys2Proof

/-- The guard of a slot: the cc register GC and the condition GK (03 R44, R45). -/
structure Guard where
  gc : BitVec 2
  gk : BitVec 4
deriving DecidableEq, Repr

/-- Form R as unit A lays it out (03 R46, 05 R105). -/
structure ArgsA where
  g : Guard
  d : BitVec 8
  a : BitVec 8
  b : BitVec 8
  c : BitVec 8
  cw : Bool
  ci : BitVec 2
  w : BitVec 2
  s : Bool
  sat : Bool
  sub : BitVec 5
deriving DecidableEq, Repr

/-- Form R as unit B lays it out (03 R46, 06 R137). -/
structure ArgsB where
  g : Guard
  d : BitVec 8
  a : BitVec 8
  b : BitVec 8
  c : BitVec 8
  cw : Bool
  ci : BitVec 2
  rm : BitVec 3
  na : Bool
  nc : Bool
  aa : Bool
  cl : Bool
  bf : Bool
  fz : Bool
deriving DecidableEq, Repr

/-- Form R where the instruction itself lays out X[8:0] (03 R46). -/
structure ArgsR where
  g : Guard
  d : BitVec 8
  a : BitVec 8
  b : BitVec 8
  c : BitVec 8
  cw : Bool
  ci : BitVec 2
  x : BitVec 9
deriving DecidableEq, Repr

/-- Form I (03 R47). -/
structure ArgsI where
  g : Guard
  d : BitVec 8
  a : BitVec 8
  imm : BitVec 28
deriving DecidableEq, Repr

/-- Form M of loads and stores, WAITA, TAGR, TAGW and PREF (03 R48; 07 R175, R178, R180). -/
structure ArgsM where
  g : Guard
  d : BitVec 8
  a : BitVec 8
  b : BitVec 8
  sz : BitVec 4
  sc : BitVec 2
  ord : BitVec 2
  scope : BitVec 3
  off : BitVec 9
deriving DecidableEq, Repr

/-- Form M of atomics; b is the C operand of a compare-and-swap (03 R48). -/
structure ArgsAt where
  g : Guard
  d : BitVec 8
  a : BitVec 8
  b : BitVec 8
  aop : BitVec 4
  sc : BitVec 2
  ord : BitVec 2
  scope : BitVec 3
  aw : Bool
  off : BitVec 8
deriving DecidableEq, Repr

/-- Form J (03 R49): the offset in 8-byte units, X[0] the uniform hint, X[4:1] the join hint, X[11:5]. -/
structure ArgsJ where
  g : Guard
  d : BitVec 8
  off : BitVec 24
  rest : BitVec 7
  hint : BitVec 4
  u : Bool
deriving DecidableEq, Repr

/-- Form T (03 R50): FS in X[11:9]; X[8:0] is BEATS - 1, or as TMMA redefines it. -/
structure ArgsT where
  g : Guard
  d : BitVec 8
  a : BitVec 8
  b : BitVec 8
  c : BitVec 8
  fs : BitVec 3
  x : BitVec 9
deriving DecidableEq, Repr

/-- Form TG (03 R51). -/
structure ArgsG where
  g : Guard
  d : BitVec 8
  a : BitVec 8
  b : BitVec 8
  fs : BitVec 3
  beats : BitVec 17
deriving DecidableEq, Repr

/-- The registers that drivers write and read (REGISTER_WRITE and its kin). -/
inductive RegName where
  /-- S2ROOT: 13 R322 -/
  | s2root
  /-- PRQBASE: 13 R322 -/
  | prqbase
  /-- PRQTAIL: the request ring's tail (13 R316) -/
  | prqtail
  /-- WSBASE: 13 R322 -/
  | wsbase
  /-- WSLEN: 13 R322 -/
  | wslen
  /-- WSMAP: 13 R322 -/
  | wsmap
  /-- WSBACK: 13 R322 -/
  | wsback
  /-- QUOTA: 13 R322 -/
  | quota
  /-- HOLD: 13 R322 -/
  | hold
  /-- TRBASE: 16 R377 -/
  | trbase
  /-- TRHEAD: 16 R377 -/
  | trhead
  /-- TRTAIL: 16 R377 -/
  | trtail
  /-- TRDROP: 16 R377 -/
  | trdrop
  /-- ERRBASE: 16 R377 -/
  | errbase
  /-- ERRHEAD: 16 R377 -/
  | errhead
  /-- ERRTAIL: 16 R377 -/
  | errtail
  /-- ERRDROP: 16 R377 -/
  | errdrop
  /-- TRCBASE: 17 R424 -/
  | trcbase
  /-- TRCHEAD: 17 R424 -/
  | trchead
  /-- TRCTAIL: 17 R424 -/
  | trctail
  /-- TRCDROP: 17 R424 -/
  | trcdrop
  /-- TRCCFG: 17 R424 -/
  | trccfg
  /-- PREQ0: 16 R384 -/
  | preq0
  /-- PREQ1: 16 R384 -/
  | preq1
  /-- PRESTAT: 16 R384 -/
  | prestat
  /-- PRECFG: 16 R384 -/
  | precfg
  /-- PREDONE: 16 R384 -/
  | predone
  /-- CRBASE: 16 R390 -/
  | crbase
  /-- CRLEN: 16 R390 -/
  | crlen
  /-- CTRAREA: 17 R413 -/
  | ctrarea
  /-- SPLBASE: 15 R372 -/
  | splbase
  /-- SPLLEN: 15 R372 -/
  | spllen
  /-- LOADREQ: 15 R351 -/
  | loadreq
  /-- ICINV: 15 R361 -/
  | icinv
  /-- SCTR: 17 R419 -/
  | sctr
  /-- SCSEL: 17 R419 -/
  | scsel
  /-- DBGATT: 17 R430 -/
  | dbgatt
  /-- DBGCMD: 17 R430 -/
  | dbgcmd
  /-- QCFG: 14 R331 -/
  | qcfg
  /-- QVA: 14 R331 -/
  | qva
  /-- QDONE: 14 R331 -/
  | qdone
  /-- QSTAT: 14 R331 -/
  | qstat
  /-- SPLAST: 15 R372 -/
  | splast
  /-- DOORBELL: 14 R331 -/
  | doorbell
  /-- FRAMEGRP: 11 R460 -/
  | framegrp
  /-- WHEEL: 11 R275; index 64 * unit + slot, units numbered channels, slices, banks -/
  | wheel
  /-- ATTICRT: 18 R436 -/
  | atticrt
  /-- PEERWIN: 18 R437 -/
  | peerwin
  /-- DEVCTL: 18 R443 -/
  | devctl
  /-- PARTCFG: 17 R407 -/
  | partcfg
  /-- ICWAY: 15 R362; index 16 * core + way -/
  | icway
  /-- CTRSEL: 17 R412; index 64 * core + 16 * partition + n -/
  | ctrsel
  /-- CTRLO: 17 R414 -/
  | ctrlo
  /-- CTRHI: 17 R414 -/
  | ctrhi
  /-- POOLCMD: 13 R322 -/
  | poolcmd
  /-- FRAMECMD: 13 R305 -/
  | framecmd
  /-- PRQREPLY: 13 R317 -/
  | prqreply
  /-- CARVE: the PF driver's carve request: bit 0 carve, bits 51:16 the granule's address (11 R260, R261) -/
  | carve
  /-- DWSTAT: the Dumbwaiter's status bit (13 R324) -/
  | dwstat
  /-- TLBI: bit 0 reads 1 while a TLBI of the function is incomplete (13 R313) -/
  | tlbi
  /-- DEVSTAT: all ones while the package stays in reset (18 R439) -/
  | devstat
deriving DecidableEq, Repr

/-- A number for each register name. -/
def RegName.code : RegName → Nat
  | .s2root => 0
  | .prqbase => 1
  | .prqtail => 2
  | .wsbase => 3
  | .wslen => 4
  | .wsmap => 5
  | .wsback => 6
  | .quota => 7
  | .hold => 8
  | .trbase => 9
  | .trhead => 10
  | .trtail => 11
  | .trdrop => 12
  | .errbase => 13
  | .errhead => 14
  | .errtail => 15
  | .errdrop => 16
  | .trcbase => 17
  | .trchead => 18
  | .trctail => 19
  | .trcdrop => 20
  | .trccfg => 21
  | .preq0 => 22
  | .preq1 => 23
  | .prestat => 24
  | .precfg => 25
  | .predone => 26
  | .crbase => 27
  | .crlen => 28
  | .ctrarea => 29
  | .splbase => 30
  | .spllen => 31
  | .loadreq => 32
  | .icinv => 33
  | .sctr => 34
  | .scsel => 35
  | .dbgatt => 36
  | .dbgcmd => 37
  | .qcfg => 38
  | .qva => 39
  | .qdone => 40
  | .qstat => 41
  | .splast => 42
  | .doorbell => 43
  | .framegrp => 44
  | .wheel => 45
  | .atticrt => 46
  | .peerwin => 47
  | .devctl => 48
  | .partcfg => 49
  | .icway => 50
  | .ctrsel => 51
  | .ctrlo => 52
  | .ctrhi => 53
  | .poolcmd => 54
  | .framecmd => 55
  | .prqreply => 56
  | .carve => 57
  | .dwstat => 58
  | .tlbi => 59
  | .devstat => 60

/-- The defects of a bundle, in the order the decoder checks them (03 R62); each names its cause. -/
inductive Reject where
  | illegalOpcode | bundleLength | wrongSide | slotOrder | illegalOperand | illegalModifier | reservedNonzero
  | destConflict | readPorts | beatsShort
deriving DecidableEq, Repr

/-- The cause code of a rejected bundle (03 R62). -/
def Reject.cause : Reject → Nat
  | .illegalOpcode => 0x001
  | .bundleLength => 0x003
  | .wrongSide => 0x004
  | .slotOrder => 0x002
  | .illegalOperand => 0x007
  | .illegalModifier => 0x008
  | .reservedNonzero => 0x009
  | .destConflict => 0x005
  | .readPorts => 0x006
  | .beatsShort => 0x00B

/-- Every operation and event of the opcode table. -/
inductive Instr where
  /-- NOP, in any unit: its bits 49:0 are ignored (03 R56). -/
  | nop (u : BitVec 3) (low : BitVec 50)
  /-- IADD: Integer add per element, with optional saturation and flags. (unit A, OP 0x010; R110) -/
  | iadd (f : ArgsA)
  /-- ISUB: Integer subtract per element, with optional saturation and flags. (unit A, OP 0x011; R110) -/
  | isub (f : ArgsA)
  /-- IADC: Add with the carry taken from c[CI]. (unit A, OP 0x012; R111) -/
  | iadc (f : ArgsA)
  /-- ISBC: Subtract with the borrow taken from c[CI]. (unit A, OP 0x013; R111) -/
  | isbc (f : ArgsA)
  /-- IADDI: Adds a sign-extended 28-bit immediate. (unit A, OP 0x014; R112) -/
  | iaddi (f : ArgsI)
  /-- IMUL: Integer multiply per element, giving the low part. (unit A, OP 0x015; R110) -/
  | imul (f : ArgsA)
  /-- IMULH: High half of the exact product. (unit A, OP 0x016; R110) -/
  | imulh (f : ArgsA)
  /-- IMAD: Exact multiply-add, fitted once. (unit A, OP 0x017; R113) -/
  | imad (f : ArgsA)
  /-- IMADW: 32x32 multiply plus a 64-bit addend into a 64-bit pair. (unit A, OP 0x018; R113) -/
  | imadw (f : ArgsA)
  /-- IDIV: Truncating division or remainder; never faults. (unit A, OP 0x019; R114) -/
  | idiv (f : ArgsA)
  /-- IMIN: Integer minimum per element. (unit A, OP 0x01A; R110) -/
  | imin (f : ArgsA)
  /-- IMAX: Integer maximum per element. (unit A, OP 0x01B; R110) -/
  | imax (f : ArgsA)
  /-- IABS: Absolute value per element, with optional saturation. (unit A, OP 0x01C; R115) -/
  | iabs (f : ArgsA)
  /-- IDP4: Packed dot product into a 32-bit accumulator. (unit A, OP 0x01D; R116) -/
  | idp4 (f : ArgsA)
  /-- ISAD: Sum of absolute differences into a 32-bit accumulator. (unit A, OP 0x01E; R116) -/
  | isad (f : ArgsA)
  /-- AND: Bitwise AND. (unit A, OP 0x020; R117) -/
  | and (f : ArgsA)
  /-- OR: Bitwise OR. (unit A, OP 0x021; R117) -/
  | or (f : ArgsA)
  /-- XOR: Bitwise XOR. (unit A, OP 0x022; R117) -/
  | xor (f : ArgsA)
  /-- ANDN: A AND NOT B. (unit A, OP 0x023; R117) -/
  | andn (f : ArgsA)
  /-- LOP3: Three-input logic function given by a truth table. (unit A, OP 0x024; R117) -/
  | lop3 (f : ArgsR)
  /-- ANDI: AND with a sign-extended immediate. (unit A, OP 0x025; R117) -/
  | andi (f : ArgsI)
  /-- ORI: OR with a sign-extended immediate. (unit A, OP 0x026; R117) -/
  | ori (f : ArgsI)
  /-- XORI: XOR with a sign-extended immediate. (unit A, OP 0x027; R117) -/
  | xori (f : ArgsI)
  /-- SHL: Logical shift left per element. (unit A, OP 0x030; R118) -/
  | shl (f : ArgsA)
  /-- SHR: Logical shift right per element. (unit A, OP 0x031; R118) -/
  | shr (f : ArgsA)
  /-- SAR: Arithmetic shift right per element. (unit A, OP 0x032; R118) -/
  | sar (f : ArgsA)
  /-- ROT: Rotate left per element. (unit A, OP 0x033; R118) -/
  | rot (f : ArgsA)
  /-- SHF: Funnel shift of A concatenated with B, keeping 32 bits. (unit A, OP 0x034; R119) -/
  | shf (f : ArgsR)
  /-- BFX: Bit-field extract. (unit A, OP 0x036; R120) -/
  | bfx (f : ArgsA)
  /-- BFI: Bit-field insert. (unit A, OP 0x037; R120) -/
  | bfi (f : ArgsA)
  /-- POPC: Population count. (unit A, OP 0x038; R121) -/
  | popc (f : ArgsA)
  /-- CLZ: Count leading zeros. (unit A, OP 0x039; R121) -/
  | clz (f : ArgsA)
  /-- BREV: Bit reverse. (unit A, OP 0x03A; R121) -/
  | brev (f : ArgsA)
  /-- PRMT: Byte permute from A and B under selectors in C. (unit A, OP 0x03B; R121) -/
  | prmt (f : ArgsA)
  /-- ICMP: Writes the flags of A - B to a cc register. (unit A, OP 0x040; R122) -/
  | icmp (f : ArgsA)
  /-- ICMPI: Writes the flags of A minus an immediate to a cc register. (unit A, OP 0x041; R122) -/
  | icmpi (f : ArgsI)
  /-- ITST: Writes the flags of A AND B to a cc register. (unit A, OP 0x042; R122) -/
  | itst (f : ArgsA)
  /-- SEL: Selects A or B on a condition of a cc register. (unit A, OP 0x043; R123) -/
  | sel (f : ArgsR)
  /-- MOV: Register move. (unit A, OP 0x044; R124) -/
  | mov (f : ArgsA)
  /-- LI: Loads a sign-extended immediate. (unit A, OP 0x045; R124) -/
  | li (f : ArgsI)
  /-- LIH: Loads a 16-bit immediate into the high half. (unit A, OP 0x046; R124) -/
  | lih (f : ArgsI)
  /-- LEA: Base plus a shifted index. (unit A, OP 0x047; R125) -/
  | lea (f : ArgsA)
  /-- CCRD: Reads a cc register into a register. (unit A, OP 0x048; R126) -/
  | ccrd (f : ArgsA)
  /-- CCWR: Writes a register's low bits into a cc register. (unit A, OP 0x049; R126) -/
  | ccwr (f : ArgsA)
  /-- SHFL: Reads another lane's source within the executing set. (unit A, OP 0x050; R128) -/
  | shfl (f : ArgsA)
  /-- VOTE: Ballot, all, any or uniform vote over the executing set. (unit A, OP 0x051; R129) -/
  | vote (f : ArgsA)
  /-- MATCH: Set of lanes in the executing set that hold an equal value. (unit A, OP 0x052; R130) -/
  | matchL (f : ArgsA)
  /-- FADD: FP32 add, rounded once. (unit B, OP 0x010; R138) -/
  | fadd (f : ArgsB)
  /-- FSUB: FP32 subtract, rounded once. (unit B, OP 0x011; R138) -/
  | fsub (f : ArgsB)
  /-- FMUL: FP32 multiply, rounded once. (unit B, OP 0x012; R138) -/
  | fmul (f : ArgsB)
  /-- FFMA: FP32 fused multiply-add. (unit B, OP 0x013; R138) -/
  | ffma (f : ArgsB)
  /-- FMIN: FP32 minimumNumber. (unit B, OP 0x014; R140) -/
  | fmin (f : ArgsB)
  /-- FMAX: FP32 maximumNumber. (unit B, OP 0x015; R140) -/
  | fmax (f : ArgsB)
  /-- FCMP: FP32 compare into a cc register. (unit B, OP 0x016; R142) -/
  | fcmp (f : ArgsB)
  /-- FRND: Rounds FP32 to an integral value. (unit B, OP 0x017; R141) -/
  | frnd (f : ArgsB)
  /-- FDP2: Two-element 16-bit dot product plus FP32, rounded once. (unit B, OP 0x019; R139) -/
  | fdp2 (f : ArgsB)
  /-- DADD: FP64 add. (unit B, OP 0x020; R138) -/
  | dadd (f : ArgsB)
  /-- DMUL: FP64 multiply. (unit B, OP 0x021; R138) -/
  | dmul (f : ArgsB)
  /-- DFMA: FP64 fused multiply-add. (unit B, OP 0x022; R138) -/
  | dfma (f : ArgsB)
  /-- DCMP: FP64 compare into a cc register. (unit B, OP 0x023; R142) -/
  | dcmp (f : ArgsB)
  /-- HADD2: Packed 16-bit add. (unit B, OP 0x028; R138) -/
  | hadd2 (f : ArgsB)
  /-- HMUL2: Packed 16-bit multiply. (unit B, OP 0x029; R138) -/
  | hmul2 (f : ArgsB)
  /-- HFMA2: Packed 16-bit fused multiply-add. (unit B, OP 0x02A; R138) -/
  | hfma2 (f : ArgsB)
  /-- HMIN2: Packed 16-bit minimumNumber. (unit B, OP 0x02B; R140) -/
  | hmin2 (f : ArgsB)
  /-- HMAX2: Packed 16-bit maximumNumber. (unit B, OP 0x02C; R140) -/
  | hmax2 (f : ArgsB)
  /-- F2I: Float to integer, saturating. (unit B, OP 0x030; R145) -/
  | f2i (f : ArgsR)
  /-- I2F: Integer to float. (unit B, OP 0x031; R145) -/
  | i2f (f : ArgsR)
  /-- FCVT: Converts between FP32, FP64, FP16 and BF16. (unit B, OP 0x032; R145) -/
  | fcvt (f : ArgsR)
  /-- F2N: Narrows two FP32 values to a kind given by a format slot. (unit B, OP 0x033; R146) -/
  | f2n (f : ArgsR)
  /-- N2F: Widens one narrow element given by a format slot to FP32. (unit B, OP 0x034; R146) -/
  | n2f (f : ArgsR)
  /-- RCP: Reciprocal, correctly rounded. (unit B, OP 0x040; R149) -/
  | rcp (f : ArgsB)
  /-- RSQ: Reciprocal square root. (unit B, OP 0x041; R149) -/
  | rsq (f : ArgsB)
  /-- SQRT: Square root, correctly rounded. (unit B, OP 0x042; R149) -/
  | sqrt (f : ArgsB)
  /-- EX2: Base-2 exponential. (unit B, OP 0x043; R149) -/
  | ex2 (f : ArgsB)
  /-- LG2: Base-2 logarithm. (unit B, OP 0x044; R149) -/
  | lg2 (f : ArgsB)
  /-- SIN: Sine in radians. (unit B, OP 0x045; R149) -/
  | sin (f : ArgsB)
  /-- COS: Cosine in radians. (unit B, OP 0x046; R149) -/
  | cos (f : ArgsB)
  /-- TANH: Hyperbolic tangent. (unit B, OP 0x047; R149) -/
  | tanh (f : ArgsB)
  /-- RED_PUSH: Folds each executing lane's source into a sum latch. (unit B, OP 0x050; R152) -/
  | redPush (f : ArgsR)
  /-- RED_MOV: Reads a sum latch, optionally resetting it to the operation's identity. (unit B, OP 0x051; R153) -/
  | redMov (f : ArgsR)
  /-- RED_CLR: Writes the operation's identity into a sum latch. (unit B, OP 0x052; R153) -/
  | redClr (f : ArgsR)
  /-- CHK: Bitwise compares an original with its shadow and detects a mismatch. (unit B, OP 0x060; R157) -/
  | chk (f : ArgsR)
  /-- LD_G: Global load through the L1. (unit M, OP 0x010; R169) -/
  | ldG (f : ArgsM)
  /-- ST_G: Global store, written through. (unit M, OP 0x011; R169) -/
  | stG (f : ArgsM)
  /-- LD_S: Scratchpad load. (unit M, OP 0x012; R169) -/
  | ldS (f : ArgsM)
  /-- ST_S: Scratchpad store. (unit M, OP 0x013; R169) -/
  | stS (f : ArgsM)
  /-- LD_C: Cubby load. (unit M, OP 0x014; R169) -/
  | ldC (f : ArgsM)
  /-- ST_C: Cubby store. (unit M, OP 0x015; R169) -/
  | stC (f : ArgsM)
  /-- LD_L: Larder load at the bank. (unit M, OP 0x016; R169) -/
  | ldL (f : ArgsM)
  /-- ST_L: Larder store at the bank. (unit M, OP 0x017; R169) -/
  | stL (f : ArgsM)
  /-- LD_Q: Load through a quad window. (unit M, OP 0x018; R169) -/
  | ldQ (f : ArgsM)
  /-- ST_Q: Store through a quad window. (unit M, OP 0x019; R169) -/
  | stQ (f : ArgsM)
  /-- ATOM_S: Aggregated scratchpad atomic, performed at the word's bank. (unit M, OP 0x020; R173) -/
  | atomS (f : ArgsAt)
  /-- CAS_S: Scratchpad compare-and-swap. (unit M, OP 0x021; R172) -/
  | casS (f : ArgsAt)
  /-- WAITA: Sleeps until a scratchpad flag word meets a condition. (unit M, OP 0x028; R176) -/
  | waita (f : ArgsM)
  /-- TAGR: Reads the memory tag of a granule. (unit M, OP 0x030; R178) -/
  | tagr (f : ArgsM)
  /-- TAGW: Writes the memory tag of a granule. (unit M, OP 0x031; R178) -/
  | tagw (f : ArgsM)
  /-- PREF: Prefetches a line toward the core; changes no state. (unit M, OP 0x032; R180) -/
  | pref (f : ArgsM)
  /-- BRA: PC-relative branch per lane. (unit C, OP 0x010; R88) -/
  | bra (f : ArgsJ)
  /-- BRX: Indirect branch through a register pair. (unit C, OP 0x011; R88) -/
  | brx (f : ArgsR)
  /-- CALL: Writes the link pair and branches PC-relative. (unit C, OP 0x012; R88) -/
  | call (f : ArgsJ)
  /-- CALLX: Writes the link pair and branches indirect. (unit C, OP 0x013; R88) -/
  | callx (f : ArgsR)
  /-- RET: Return through a link pair. (unit C, OP 0x014; R88) -/
  | ret (f : ArgsR)
  /-- EXIT: Ends the thread; clears its mask bits and counts it as arrived at barriers. (unit C, OP 0x015; R90) -/
  | exit (f : ArgsR)
  /-- JOIN: Sets the lane's bit in a mask. (unit C, OP 0x018; R87) -/
  | join (f : ArgsR)
  /-- LEAVE: Clears the lane's bit in a mask. (unit C, OP 0x019; R87) -/
  | leave (f : ArgsR)
  /-- WAITM: Arrives at a mask and waits for its completion. (unit C, OP 0x01A; R87) -/
  | waitm (f : ArgsR)
  /-- MSET: Sets a whole mask from the lowest lane's register. (unit C, OP 0x01B; R87) -/
  | mset (f : ArgsR)
  /-- MOP: Logical operation between masks. (unit C, OP 0x01C; R87) -/
  | mop (f : ArgsR)
  /-- MRD: Reads a mask into a register. (unit C, OP 0x01D; R87) -/
  | mrd (f : ArgsR)
  /-- MWR: Writes the lane's mask bit from a register. (unit C, OP 0x01E; R87) -/
  | mwr (f : ArgsR)
  /-- BAR: Arrives at a block barrier, optionally waiting. (unit C, OP 0x020; R91) -/
  | bar (f : ArgsR)
  /-- SBAR: Arrives at a scope barrier among blocks. (unit C, OP 0x021; R92) -/
  | sbar (f : ArgsR)
  /-- FENCE: Orders the lane's accesses at a scope; speculates past itself while pending. (unit C, OP 0x022; R292) -/
  | fence (f : ArgsR)
  /-- ATOM_H: Home atomic, performed at the home slice or Larder bank. (unit C, OP 0x028; R265) -/
  | atomH (f : ArgsAt)
  /-- RED_H: Posted home reduction that returns nothing. (unit C, OP 0x029; R265) -/
  | redH (f : ArgsAt)
  /-- CAS_H: Home compare-and-swap. (unit C, OP 0x02A; R265) -/
  | casH (f : ArgsAt)
  /-- CP: Checks and queues a copy request with the copy engine. (unit C, OP 0x030; R270) -/
  | cp (f : ArgsR)
  /-- LOP: Range update of up to one granule at the Larder bank ALUs. (unit C, OP 0x032; R268) -/
  | lop (f : ArgsR)
  /-- HATCH: Enters the gate; the thread waits in GATE. (unit C, OP 0x038; R185) -/
  | hatch (f : ArgsR)
  /-- SAFEPT: Marks a safe point and checkpoint. (unit C, OP 0x039; R359) -/
  | safept (f : ArgsR)
  /-- SHELF: Declares the following slots as a loop body for the Shelf. (unit C, OP 0x03A; R209) -/
  | shelf (f : ArgsR)
  /-- LAUNCH: Copies a 128-byte record into a launch queue and advances its tail. (unit C, OP 0x03B; R341) -/
  | launch (f : ArgsR)
  /-- TRAP: Raises software cause 0x1E0+CODE, killing or, with .c, reporting. (unit C, OP 0x040; R382) -/
  | trap (f : ArgsR)
  /-- BKPT: Stops the thread for an attached debugger. (unit C, OP 0x041; R383) -/
  | bkpt (f : ArgsR)
  /-- YIELD: Takes the thread out of issue until the second regroup point. (unit C, OP 0x042; R95) -/
  | yield (f : ArgsR)
  /-- GTS: Reads the global timestamp. (unit C, OP 0x043; R417) -/
  | gts (f : ArgsR)
  /-- CNT: Reads a core counter or the partition information. (unit C, OP 0x044; R415) -/
  | cnt (f : ArgsR)
  /-- EVT: Writes a USER trace record and counts USER_EVT. (unit C, OP 0x045; R418) -/
  | evt (f : ArgsR)
  /-- NSLEEP: Puts the thread to sleep for a duration. (unit C, OP 0x046; R95) -/
  | nsleep (f : ArgsR)
  /-- QADD: 64-bit Loft add. (unit Q, OP 0x010; R197) -/
  | qadd (f : ArgsR)
  /-- QSUB: 64-bit Loft subtract. (unit Q, OP 0x011; R197) -/
  | qsub (f : ArgsR)
  /-- QMUL: 64-bit Loft multiply. (unit Q, OP 0x012; R197) -/
  | qmul (f : ArgsR)
  /-- QLI: Loads a sign-extended immediate into a q or lc register. (unit Q, OP 0x013; R197) -/
  | qli (f : ArgsI)
  /-- QSHL: 64-bit Loft shift. (unit Q, OP 0x014; R197) -/
  | qshl (f : ArgsR)
  /-- QAND: 64-bit Loft AND. (unit Q, OP 0x015; R197) -/
  | qand (f : ArgsR)
  /-- QCMP: Writes the flags of A - B to an lf register. (unit Q, OP 0x016; R197) -/
  | qcmp (f : ArgsR)
  /-- QMOV: Loft move from q, lc, lf, f, es or a k pair. (unit Q, OP 0x017; R197) -/
  | qmov (f : ArgsR)
  /-- QBRA: Loft PC-relative branch. (unit Q, OP 0x020; R198) -/
  | qbra (f : ArgsJ)
  /-- QLOOP: Hardware loop: decrements lc and branches, or falls through as a loop exit. (unit Q, OP 0x021; R198) -/
  | qloop (f : ArgsJ)
  /-- QWAIT: The Loft waits on a scratchpad flag word. (unit Q, OP 0x023; R199) -/
  | qwait (f : ArgsR)
  /-- QSIG: The Loft stores a flag word, optionally as a release. (unit Q, OP 0x024; R199) -/
  | qsig (f : ArgsR)
  /-- UNHATCH: Leaves the gate once every engine instruction has written its result. (unit Q, OP 0x025; R191) -/
  | unhatch (f : ArgsR)
  /-- TRESUME: Continues a stopped TGEMM nest from the engine state. (unit Q, OP 0x026; R228) -/
  | tresume (f : ArgsR)
  /-- QSAFE: Marks a safe point of tile code. (unit Q, OP 0x027; R200) -/
  | qsafe (f : ArgsR)
  /-- TFENCE: Holds the next bundle until the named engines have run out their beats. (unit Q, OP 0x028; R200) -/
  | tfence (f : ArgsR)
  /-- TLD: Loads a tile, optionally transposed and with its sidecar. (unit X, OP 0x010; R203) -/
  | tld (f : ArgsT)
  /-- TST: Stores a tile, optionally with its sidecar. (unit X, OP 0x011; R203) -/
  | tst (f : ArgsT)
  /-- TCP: Places a copy request from the Loft. (unit X, OP 0x012; R204) -/
  | tcp (f : ArgsT)
  /-- TXP: Transposes a tile. (unit X, OP 0x013; R205) -/
  | txp (f : ArgsT)
  /-- TGAT: Gathers indexed scratchpad rows into a latch. (unit X, OP 0x014; R206) -/
  | tgat (f : ArgsT)
  /-- TFILL: Gathers indexed scratchpad rows into a tile; maintenance mode only. (unit X, OP 0x015; R206) -/
  | tfill (f : ArgsT)
  /-- TZERO: Zeroes a tile and its sidecar. (unit X, OP 0x016; R205) -/
  | tzero (f : ArgsT)
  /-- TMMA: Multiplies two tiles into a 32x32 accumulator tile. (unit T, OP 0x010; R220) -/
  | tmma (f : ArgsT)
  /-- TGEMM: Runs a loop nest of tile products from scratchpad operands. (unit T, OP 0x012; R223) -/
  | tgemm (f : ArgsG)
  /-- TADD: Element-wise tile add or subtract. (unit V, OP 0x010; R246) -/
  | tadd (f : ArgsT)
  /-- TMUL: Element-wise tile multiply. (unit V, OP 0x011; R246) -/
  | tmul (f : ArgsT)
  /-- TFMA: Element-wise tile fused multiply-add. (unit V, OP 0x012; R246) -/
  | tfma (f : ArgsT)
  /-- TMAX: Element-wise tile maximum or minimum. (unit V, OP 0x013; R246) -/
  | tmax (f : ArgsT)
  /-- TACT: Applies an activation function to each element. (unit V, OP 0x014; R247) -/
  | tact (f : ArgsT)
  /-- TSCALE: Scales a tile by tensor, row or column. (unit V, OP 0x015; R246) -/
  | tscale (f : ArgsT)
  /-- TRED: Reduces along rows or columns. (unit V, OP 0x016; R248) -/
  | tred (f : ArgsT)
  /-- TAMAX: Writes per-row amax statistics. (unit V, OP 0x017; R249) -/
  | tamax (f : ArgsT)
  /-- TMINMAX: Writes per-row max and min statistics. (unit V, OP 0x018; R249) -/
  | tminmax (f : ArgsT)
  /-- TQNT: Quantises a tile to a scaled or narrow kind. (unit V, OP 0x019; R250) -/
  | tqnt (f : ArgsT)
  /-- TDQT: Dequantises a scaled tile. (unit V, OP 0x01A; R252) -/
  | tdqt (f : ArgsT)
  /-- TCVT: Converts between unscaled kinds. (unit V, OP 0x01B; R252) -/
  | tcvt (f : ArgsT)
  /-- TOPT: Updates a narrow optimiser moment. (unit V, OP 0x01C; R253) -/
  | topt (f : ArgsT)
  /-- FENCE_COMPLETE: A pending fence's conditions are met; its speculative loads become final and its held writes proceed. Operands: the block's handle, the crew, and which of the crew's pending fences. (R293) -/
  | fenceComplete (blk crew n : Nat)
  /-- CONFLICT_NOTICE: A notice reaches a core before a speculating fence completes, and the crew rolls back to the fence. Operands: the core that recorded the line, and the line (address / 64). (R293) -/
  | conflictNotice (core line : Nat)
  /-- HOME_REQUEST: A store, atomic group or line fill reaches its home slice or Larder bank and is performed there in the location's order. Operands: the core whose posted requests, and which of them reaches its home. (R257) -/
  | homeRequest (core k : Nat)
  /-- L1_INVALIDATION: The home slice's invalidation of a line of an SC page reaches an L1. Operands: the core and the line (address / 64). (R259) -/
  | l1Invalidation (core line : Nat)
  /-- COPY_RUN: The copy engine performs a queued request: acquire, payload words, release and completion word. Operands: the die of the copy engine and which of its queued requests. (R272) -/
  | copyRun (die k : Nat)
  /-- LOFT_GRANT: A queued block is granted its Loft and its Loft context is set. Operands: the core and the Loft (partition) whose queue's head is granted. (R186) -/
  | loftGrant (core loft : Nat)
  /-- TRAP_RECORD_WRITE: 2,000 ns after its GTS, a trap or error record is written to its ring and the interrupt signalled. Operand: which record not yet written. (R377) -/
  | trapRecordWrite (k : Nat)
  /-- SLEEP_END: The sleep duration of a thread runs out and it returns to RUN. (R95) -/
  | sleepEnd (blk crew lane : Nat)
  /-- REGROUP_POINT: At every fourth column cycle, or when paths empty or a thread ages, the crew's paths are chosen afresh. (R76) -/
  | regroupPoint (blk crew : Nat)
  /-- WAIT_WAKE: A write to a watched word, a 1,024 ns timeout or a 64 ns re-read wakes a WAITA or QWAIT sleeper to re-read. Crew 64 names the block's Loft context. (R176) -/
  | waitWake (blk crew lane : Nat)
  /-- WAIT_LIMIT: A thread stays in a wait longer than WL; 0x100 is raised and the block killed. (R94) -/
  | waitLimit (blk : Nat)
  /-- UNHATCH_COMPLETE: Engines drained, written hatch tiles scatter to registers, threads resume and the Loft is released. (R191) -/
  | unhatchComplete (blk : Nat)
  /-- ENGINE_RESULT_WRITE: An engine instruction finishes its work and writes its destination, which becomes ready. Operand k: which engine instruction in flight. (R194) -/
  | engineResultWrite (blk k : Nat)
  /-- TLBI_VA_RANGE: TLBI kind 0: invalidates a VA range in an ASID. Operands: the writing function, the VFS field, the ASID, the first byte address, the 4 KiB pages. (R313) -/
  | tlbiVaRange (fn vfs asid base count : Nat)
  /-- TLBI_ASID: TLBI kind 1: invalidates a whole ASID. Operands: the writing function, the VFS field, the ASID. (R313) -/
  | tlbiAsid (fn vfs asid : Nat)
  /-- TLBI_VF_STAGE1: TLBI kind 2: invalidates a whole VF's stage 1. Operands: the writing function, the VFS field. (R313) -/
  | tlbiVfStage1 (fn vfs : Nat)
  /-- TLBI_IPA_RANGE: TLBI kind 3: invalidates a stage-2 IPA range (PF only). Operands: the writing function, the VFS field, the first IPA, the 4 KiB pages. (R313) -/
  | tlbiIpaRange (fn vfs base count : Nat)
  /-- TLBI_VF_STAGE2: TLBI kind 4: invalidates a whole VF's stage 2 (PF only). Operands: the writing function, the VFS field. (R313) -/
  | tlbiVfStage2 (fn vfs : Nat)
  /-- TLBI_COMPLETE: Nothing covered remains cached, walked or in flight, and the TLBI completes. Operand: which outstanding TLBI. (R313) -/
  | tlbiComplete (k : Nat)
  /-- FRAMECMD: Zeroes a frame, invalidates its lines and TLB entries, and writes its owner byte. Operands: the writing function and the value. (R305) -/
  | framecmd (fn : Nat) (value : DWord)
  /-- FRAMEGRP_WRITE: Configures a frame group as interleaved or die-local, unless frames are in use. (R460) -/
  | framegrpWrite (index : Nat) (value : DWord)
  /-- RETRY: A page-request reply with RETRY; the waiting lanes may replay and swapped teams may re-enter. (R317) -/
  | retry (fn id : Nat)
  /-- REFUSE: A page-request reply with REFUSE; the waiting lanes will raise 0x086. (R317) -/
  | refuse (fn id : Nat)
  /-- SWAP_OUT: HOLD expires with a request unanswered and the team is swapped into a crate. Operand: a block of the team. (R319) -/
  | swapOut (blk : Nat)
  /-- POOL_ADD: POOLCMD adds a 2 MiB cellar run to the Dumbwaiter's pool. (R322) -/
  | poolAdd (fn run : Nat)
  /-- POOL_REMOVE: POOLCMD removes a 2 MiB run from the pool. (R322) -/
  | poolRemove (fn run : Nat)
  /-- DUMBWAITER_MOVE: The Dumbwaiter moves a 2 MiB region up or down between cellar and attic. (R324) -/
  | dumbwaiterMove (fn region : Nat) (up : Bool)
  /-- RESIDENCY_RELEASE: A gated launch starts when residency reaches TH or no region can move up. (R325) -/
  | residencyRelease (queue : Nat)
  /-- PAGE_MOVE: A move command marks, freezes, copies and switches a page to a new frame. Operands: the VF, an address in the page, the page size in bytes, and the new physical address. (R326) -/
  | pageMove (vf ipa size dest : Nat)
  /-- FROZEN_FRAME_RELEASE: The old frame is released once no request translated through it can still arrive. (R326) -/
  | frozenFrameRelease (k : Nat)
  /-- MOVED: A request reaching a frozen line returns MOVED and is replayed at the new home after MG clears. Operands: the core and which of its posted requests. (R327) -/
  | moved (core k : Nat)
  /-- PAGE_RETIRE: A failing cellar frame is replaced by a zeroed frame marked LOST. Operands: the failing frame, an IPA that maps it (any where none does), and the first of the spare frames that replace its page. (R328) -/
  | pageRetire (frame ipa dest : Nat)
  /-- DOORBELL: Accepts ring entries up to the new tail. Operands: the writing function, the queue, the new tail. (R332) -/
  | doorbell (fn queue : Nat) (tail : BitVec 16)
  /-- QSTAT_RESUME: Writing 1 to HALT resumes a halted queue. Operands: the writing function and the queue. (R336) -/
  | qstatResume (fn queue : Nat)
  /-- LAUNCH_HEAD: A launch becomes head of its queue and its record is checked. (R334) -/
  | launchHead (queue : Nat)
  /-- SPLICE_DECISION: The splicer splices the head with its successor or refuses with a reason. (R364) -/
  | spliceDecision (queue : Nat)
  /-- DISTRIBUTOR_DECISION: The distributor places the first fitting candidate or finds none. (R347) -/
  | distributorDecision
  /-- BLOCK_RETIRE: A block's last retirement condition holds and its resources are freed and zeroed. (R73) -/
  | blockRetire (blk : Nat)
  /-- LAUNCH_COMPLETE: A launch completes and QDONE is written as a release at .sys. Operands: the queue and the sequence number. (R335) -/
  | launchComplete (queue seq : Nat)
  /-- LOADREQ: Queues a load request with the loader. (R351) -/
  | loadreq (fn : Nat) (addr : DWord)
  /-- LOADER_RUN: The loader checks, translates and loads an image, writing its verdict and DONE. (R351) -/
  | loaderRun
  /-- ICINV: Invalidates the VF's I-cache lines and Shelf bodies in every core. (R361) -/
  | icinv (fn : Nat)
  /-- PREEMPT_ESTIMATOR: PREQ0 FORCE 0: the estimator chooses drain, discard or save per team. Operands: the writing function and the fields of PREQ0. (R386) -/
  | preemptEstimator (fn vf first count : Nat)
  /-- PREEMPT_SAVE: PREQ0 FORCE 1: teams are saved, or drained when the crate area lacks room. Operands: the writing function and the fields of PREQ0. (R386) -/
  | preemptSave (fn vf first count : Nat)
  /-- PREEMPT_DRAIN: PREQ0 FORCE 2: teams run to retirement. Operands: the writing function and the fields of PREQ0. (R387) -/
  | preemptDrain (fn vf first count : Nat)
  /-- PREEMPT_DISCARD: PREQ0 FORCE 3: restartable teams are discarded and re-queued. Operands: the writing function and the fields of PREQ0. (R388) -/
  | preemptDiscard (fn vf first count : Nat)
  /-- CRATE_WRITE: Once every thread and Loft context is at a stopping point, the team's crate is written and its resources freed. Operand: a block of the team. (R389) -/
  | crateWrite (blk : Nat)
  /-- ECC_DETECTED: An uncorrectable register-file ECC error is treated as a detected error. Operands: a block and one of its crews; instead of a crew 64 for the Loft's engines, 65 for an error that ECC has corrected, 66 to 69 for one in scratchpad, a cubby, a tile or memory at rest, 70 for one in an L1 line (log 74, DESIGN CHOICE of the numbers). (R401) -/
  | eccDetected (blk crew : Nat)
  /-- ERROR_CLASSIFY: A rerun ends; the error is classed transient, escaped or lasting. (R403) -/
  | errorClassify (blk crew : Nat)
  /-- PARTCFG_WRITE: Writes a new partition mode or ownership, pending until the partitions are empty. (R407) -/
  | partcfgWrite (core : Nat) (value : DWord)
  /-- WORLD_SWITCH: A partition's owner changes; counters are saved and loaded, and L1 ways invalidated. (R410) -/
  | worldSwitch (core part : Nat)
  /-- CTRLO_READ: Reads a counter's low half and latches its high half. (R414)
  Operands: the reading function, the core (512 for the shared counters of the function), the partition, the counter. -/
  | ctrloRead (fn core part n : Nat)
  /-- CTRHI_READ: Reads the latched or live high half and clears the latch. (R414)
  Operands: as CTRLO_READ. -/
  | ctrhiRead (fn core part n : Nat)
  /-- SCSNAP: Copies a function's eight shared counters to memory at one GTS. (R421) -/
  | scsnap (fn : Nat) (addr : DWord)
  /-- TRACE_SAMPLE: Every PERIOD x 1,024 clk a partition records a SAMPLE of the next crew. (R426) -/
  | traceSample (core part : Nat)
  /-- STOP_BROADCAST: A stop broadcast reaches a crew, which stops and writes a 0x181 skid record. (R429) -/
  | stopBroadcast (blk crew : Nat)
  /-- DBGATT_WRITE: Attaches a debugger to a launch, or with 0 detaches and resumes every stopped crew. (R430) -/
  | dbgattWrite (fn : Nat) (value : DWord)
  /-- RESUME_ALL: Debug command 1 resumes every stopped crew. (R430) -/
  | resumeAll (fn : Nat)
  /-- RESUME_ONE_CREW: Debug command 2 resumes one crew. (R430) -/
  | resumeOneCrew (fn crew : Nat)
  /-- STEP: Debug command 3 gives one crew one issue opportunity, or reports STEP_BLOCKED. (R431) -/
  | step (fn crew : Nat)
  /-- STOP_LAUNCH: Debug command 4 stops the launch as a pod-wide broadcast. (R430) -/
  | stopLaunch (fn : Nat)
  /-- RELOAD_WATCHPOINTS: Debug command 5 re-reads the launch's watchpoint table. (R427) -/
  | reloadWatchpoints (fn : Nat)
  /-- ATTNONCE: A nonce write starts an attestation report. (R442) -/
  | attnonce (k : Nat) (value : DWord)
  /-- ATTESTATION_REPORT: The signed attestation report is completed at ATTREP. (R442) -/
  | attestationReport
  /-- MAINT_ENTER: DEVCTL bit 0 set to 1 requests maintenance mode. (R443) -/
  | maintEnter
  /-- MAINT_EFFECT: Maintenance mode takes effect once no VF has a resident block. (R443) -/
  | maintEffect
  /-- MAINT_LEAVE: DEVCTL bit 0 set to 0 leaves maintenance mode. (R443) -/
  | maintLeave
  /-- REGISTER_WRITE: A write to a configuration register with no row of its own stores its fields, or is dropped where the manual says. Operands: the writing function, the register, the function or unit it belongs to, the value. (R2) -/
  | registerWrite (fn : Nat) (reg : RegName) (index : Nat) (value : DWord)
  /-- HOST_WRITE: A host or CXL write arrives over an attic link and is performed at its home slice or bank. (R297) -/
  | hostWrite (addr : Nat) (bytes : List Byte)
  /-- PEER_REQUEST: A memory request arrives over a Ladder link and is checked and performed at this package. Operands: the function named, the address, the operation (0 a read, 1 a write, 2 + AOP an atomic step) and its bytes. (R437) -/
  | peerRequest (rvf addr op : Nat) (bytes : List Byte)
  /-- LADDER_PORT_FAILURE: A Ladder port fails and traffic is rerouted over the remaining ports. (R437) -/
  | ladderPortFailure (port : Nat)
  /-- PACKAGE_UNREACHABLE: A package of a launch becomes unreachable and its .pod barriers are broken. (R438) -/
  | packageUnreachable (pkg : Nat)
  /-- RESET: Reset: registers take reset values and die 0 verifies its firmware and comes up in low gear. (R439) -/
  | reset
  /-- FULL_SERVICE: Dies 1 to 5 finish bring-up; the clock rises and the status word changes. (R439) -/
  | fullService
  /-- THERMAL_THROTTLE: Power or junction limit exceeded; the clock is lowered in 1/16 steps. (R444) -/
  | thermalThrottle (sixteenths : Nat)
  /-- THERMAL_SHUTDOWN: A junction reading of 115 °C cuts module power at once. (R444) -/
  | thermalShutdown
  /-- POD_BARRIER_TRAFFIC: A pod barrier flit arrives over a Ladder link and completes a .pod phase whose last participating block stands on another package. (R438) -/
  | podBarrierTraffic (launch : DWord) (pkg : Nat)
  /-- CXL_CACHE_SNOOP: A host write to an attic line of an SC page snoops the home slice over CXL.cache, which drops the line and invalidates the L1 copies. (R435) -/
  | cxlCacheSnoop (line : Nat)
  /-- ATTIC_LINK_DOWN: An attic port's link goes down, after which every address routed to that port raises 0x087 BACKING_ERROR. (R436) -/
  | atticLinkDown (port : Nat)
deriving DecidableEq, Repr

end Sys2Proof
end

