-- ==== Sys2Proof/Machine/Sig.lean ====
section
/-! DEFINITION. What the decoder checks of a slot: which register class each field takes (03 R53 to R55, and each
instruction's description), which modifier values are legal, which bits must be zero (03 R52), the destinations and
read ports a slot uses (03 R63, R64), and the beats it needs (09 R216; 08 R195; 10 R243). -/

namespace Sys2Proof

open Machine

/-- What of a launch and of the core a bundle is decoded against: the fetching side, the kernel's `.regs`, `.kregs`,
`.width` and `.shadow`, the tiles allotted, the hatch tiles of the current layout map, the beat multiple of the
partition mode (08 R195) and the launch's format slots (03 R54, R55, R62; 08 R182, R188). -/
structure DecodeEnv where
  loft : Bool
  regs : Nat
  kregs : Nat
  width : Nat
  shadow : Option (Nat × Nat)
  tiles : Nat
  hatch : BitVec 8
  beatMul : Nat
  fslots : List DWord
deriving DecidableEq, Repr

/-- What an instruction takes in a register field. -/
inductive Opnd where
  | unused                       -- encoded 0 (03 R52)
  | raw                          -- no register: modifiers judged elsewhere, or ignored
  | src (pair : Bool)            -- v, k or special, read
  | regSrc (pair : Bool)         -- v or k, read
  | dst (pair : Bool)            -- v or k, written
  | upd (pair : Bool)            -- v or k, read and written
  | vSrcQuad                     -- a v quad, read (07 R168)
  | vDstQuad                     -- a v quad, written
  | regQuad                      -- four v or k registers from a multiple of 4, read (11 R270)
  | vDst (pair : Bool)           -- v only, written
  | maskDst                      -- m1 to m11 (03 R54)
  | maskSrc                      -- m0 to m11
  | chkA (pair : Bool)           -- outside the shadow range (06 R157)
  | chkB (pair : Bool)           -- inside the shadow range
  | qSrc                         -- q, lc, k or crew-invariant special, read (08 R196)
  | qDst                         -- q or lc, written
  | qReg                         -- q only, read
  | qRegOrZero                   -- q or zero special (08 R202)
  | qPair                        -- even q, read as a pair (08 R204)
  | qMovA (p : Bool)             -- a source of QMOV (08 R197)
  | lcUpd                        -- lc0 to lc3, read and written (03 R49)
  | tSrc | tDst | tUpd           -- t or hatch tile, read, written, both
  | accDst                       -- t tile only, written
  | tLatch                       -- t, hatch tile or gather latch, read (09 R214)
  | latchDst                     -- g0 or g1, written
deriving DecidableEq, Repr

/-- A destination of a slot, for the shared-destination check (03 R63): a register code, a flag register, a mask or a sum latch. -/
inductive Dest where
  | reg (r : Nat) | cc (i : Nat) | mask (m : Nat) | latch (n : Nat)
deriving DecidableEq, Repr

/-- A read port of a slot: of the k file or of another counted file (03 R64). -/
inductive ReadPort where
  | kFile | other
deriving DecidableEq, Repr

/-- The v register of a code, in the allotment (03 R53, R54). -/
def DecodeEnv.vOk (env : DecodeEnv) (r : BitVec 8) (n : Nat) : Bool :=
  decide (r.toNat < 192) && decide (r.toNat + n ≤ env.regs) && decide (r.toNat % n = 0)

/-- The k registers of a code, in the declared count (03 R53, R54; 05 R102). -/
def DecodeEnv.kOk (env : DecodeEnv) (r : BitVec 8) (n : Nat) : Bool :=
  decide (192 ≤ r.toNat) && decide (r.toNat - 192 + n ≤ env.kregs) && decide (r.toNat < 240)
    && decide ((r.toNat - 192) % n = 0)

/-- One register or a pair. -/
def regCount (pair : Bool) : Nat := if pair then 2 else 1

/-- A source of the thread side: v, k, or a special, of which a pair takes only the zero one (03 R54). -/
def DecodeEnv.srcOk (env : DecodeEnv) (r : BitVec 8) (pair : Bool) : Bool :=
  env.vOk r (regCount pair) || env.kOk r (regCount pair) || (if pair then r == 240 else decide (240 ≤ r.toNat))

/-- A v or k register. -/
def DecodeEnv.regOk (env : DecodeEnv) (r : BitVec 8) (pair : Bool) : Bool :=
  env.vOk r (regCount pair) || env.kOk r (regCount pair)

/-- Whether a register range lies inside the shadow range (06 R157). -/
def DecodeEnv.inShadow (env : DecodeEnv) (r n : Nat) : Bool :=
  match env.shadow with
  | none => false
  | some (a, b) => decide (a ≤ r) && decide (r + n ≤ b + 1)

/-- Whether a register range meets the shadow range. -/
def DecodeEnv.meetsShadow (env : DecodeEnv) (r n : Nat) : Bool :=
  match env.shadow with
  | none => false
  | some (a, b) => decide (r ≤ b) && decide (a < r + n)

/-- A special that does not vary by lane (03 R55). -/
def crewInvariant (r : BitVec 8) : Bool :=
  decide (240 ≤ r.toNat) && r != 241 && r != 242 && r != 243 && r != 244 && r != 248

/-- A tile t0 to t(T-1) (08 R182). -/
def DecodeEnv.tileOk (env : DecodeEnv) (r : BitVec 8) : Bool :=
  decide (64 ≤ r.toNat) && decide (r.toNat < 64 + env.tiles) && decide (r.toNat < 128)

/-- A hatch tile that the current layout map defines (08 R188). -/
def DecodeEnv.hatchOk (env : DecodeEnv) (r : BitVec 8) : Bool :=
  decide (128 ≤ r.toNat) && decide (r.toNat < 136) && env.hatch.getLsbD (r.toNat - 128)

/-- A source of unit Q (08 R196). -/
def DecodeEnv.qSrcOk (env : DecodeEnv) (r : BitVec 8) : Bool :=
  decide (r.toNat < 36) || env.kOk r 1 || crewInvariant r

/-- Whether a code is legal where the operand stands (03 R54, R55; check 5 of 03 R62). -/
def Opnd.legal (env : DecodeEnv) (r : BitVec 8) : Opnd → Bool
  | .unused | .raw => true
  | .src p => env.srcOk r p
  | .regSrc p | .dst p | .upd p => env.regOk r p
  | .vSrcQuad | .vDstQuad => env.vOk r 4
  | .regQuad => env.vOk r 4 || env.kOk r 4
  | .vDst p => env.vOk r (regCount p)
  | .maskDst => decide (1 ≤ r.toNat) && decide (r.toNat ≤ 11)
  | .maskSrc => decide (r.toNat ≤ 11)
  | .chkA p => env.srcOk r p && !env.meetsShadow r.toNat (regCount p)
  | .chkB p => env.vOk r (regCount p) && env.inShadow r.toNat (regCount p)
  | .qSrc => env.qSrcOk r
  | .qDst => decide (r.toNat < 36)
  | .qReg => decide (r.toNat < 32)
  | .qRegOrZero => decide (r.toNat < 32) || r == 240
  | .qPair => decide (r.toNat < 32) && decide (r.toNat % 2 = 0)
  | .qMovA p =>
    if p then env.kOk r 2
    else env.qSrcOk r || (decide (36 ≤ r.toNat) && decide (r.toNat < 40)) || (decide (48 ≤ r.toNat) && decide (r.toNat < 64))
  | .lcUpd => decide (32 ≤ r.toNat) && decide (r.toNat < 36)
  | .tSrc | .tDst | .tUpd => env.tileOk r || env.hatchOk r
  | .accDst => env.tileOk r
  | .tLatch => env.tileOk r || env.hatchOk r || r == 40 || r == 41
  | .latchDst => r == 40 || r == 41

/-- The registers an operand writes (03 R63). -/
def Opnd.writes (r : BitVec 8) : Opnd → List Dest
  | .dst p | .upd p | .vDst p => (List.range (regCount p)).map (fun i => .reg (r.toNat + i))
  | .vDstQuad => (List.range 4).map (fun i => .reg (r.toNat + i))
  | .maskDst => [.mask r.toNat]
  | .qDst | .lcUpd | .tDst | .tUpd | .accDst | .latchDst => [.reg r.toNat]
  | _ => []

/-- The port a thread-side read of a register uses: none for a special (03 R64). -/
def threadPort (r : BitVec 8) : List ReadPort :=
  if r.toNat < 192 then [.other] else if r.toNat < 240 then [.kFile] else []

/-- The port a Loft read uses: q, lc and k count (03 R64). -/
def loftPort (r : BitVec 8) : List ReadPort :=
  if r.toNat < 36 then [.other] else if 192 ≤ r.toNat ∧ r.toNat < 240 then [.kFile] else []

/-- The ports an operand's read uses (03 R64). -/
def Opnd.ports (r : BitVec 8) : Opnd → List ReadPort
  | .src _ | .regSrc _ | .upd _ | .vSrcQuad | .regQuad | .chkA _ | .chkB _ => threadPort r
  | .qSrc | .qReg | .qRegOrZero | .qPair | .qMovA _ | .lcUpd => loftPort r
  | _ => []

/-- What the decoder checks of one slot. -/
structure Sig where
  d : Opnd × BitVec 8
  a : Opnd × BitVec 8
  b : Opnd × BitVec 8
  c : Opnd × BitVec 8
  /-- check 6 of 03 R62 passes -/
  mod : Bool
  /-- the bits the instruction leaves unused are zero, register fields apart (check 7) -/
  res : Bool
  /-- the flag register and the sum latch it writes -/
  flags : List Dest
deriving DecidableEq, Repr

/-- The four fields of a slot. -/
def Sig.fields (g : Sig) : List (Opnd × BitVec 8) := [g.d, g.a, g.b, g.c]
/-- Check 5 of 03 R62. -/
def Sig.operandsOk (env : DecodeEnv) (g : Sig) : Bool := g.fields.all (fun p => p.1.legal env p.2)
/-- Check 7 of 03 R62. -/
def Sig.zerosOk (g : Sig) : Bool := g.res && g.fields.all (fun p => p.1 != .unused || p.2 == 0)
/-- The destinations of 03 R63. -/
def Sig.dests (g : Sig) : List Dest := g.fields.flatMap (fun p => p.1.writes p.2) ++ g.flags
/-- The read ports of 03 R64. -/
def Sig.reads (g : Sig) : List ReadPort := g.fields.flatMap (fun p => p.1.ports p.2)

/-- How an instruction treats CW = 1 (05 R109, 06 R137). -/
inductive CwRule where
  | any        -- allowed
  | single     -- allowed at W 00 and 01, else 0x008
  | required   -- CW = 0 raises 0x008
  | illegal    -- CW = 1 raises 0x008
  | never      -- CW = 1 raises 0x009
  | readsCc    -- CW = 1 raises 0x009; CI names a cc that is read
  | anyReads   -- allowed; CI names a cc that is read too
deriving DecidableEq, Repr

/-- The part of check 6 that CW decides. -/
def CwRule.modOk (r : CwRule) (cw : Bool) (w : Nat) : Bool :=
  match r with
  | .single => !cw || decide (w ≤ 1)
  | .required => cw
  | .illegal => !cw
  | _ => true

/-- The part of check 7 that CW and CI decide (03 R52). -/
def CwRule.resOk (r : CwRule) (cw : Bool) (ci : BitVec 2) : Bool :=
  match r with
  | .never => !cw && ci == 0
  | .readsCc => !cw
  | .anyReads => true
  | _ => cw || ci == 0

/-- The flag register that CW = 1 writes. -/
def ccDest (cw : Bool) (ci : BitVec 2) : List Dest := if cw then [.cc ci.toNat] else []

/-- Unit A, form R: the operands, the W values accepted, whether S, SAT and SUB may be set, and CW (05 R105, R109). -/
def sigA (f : ArgsA) (d a b c : Opnd) (ws : List Nat) (s sat : Bool) (subOk : Bool) (cw : CwRule) : Sig :=
  ⟨(d, f.d), (a, f.a), (b, f.b), (c, f.c), decide (f.w.toNat ∈ ws) && cw.modOk f.cw f.w.toNat,
    (s || !f.s) && (sat || !f.sat) && subOk && cw.resOk f.cw f.ci, ccDest f.cw f.ci⟩

/-- Unit B, form R as 06 R137 tabulates it: the roundings accepted, and which of NA, NC, AA, CL, BF, FZ may be set. -/
def sigB (f : ArgsB) (d a b c : Opnd) (rms : List Nat) (nc cl bf : Bool) (cw : CwRule) : Sig :=
  ⟨(d, f.d), (a, f.a), (b, f.b), (c, f.c), decide (f.rm.toNat ∈ rms) && cw.modOk f.cw 0,
    (nc || !f.nc) && (cl || !f.cl) && (bf || !f.bf) && cw.resOk f.cw f.ci, ccDest f.cw f.ci⟩

/-- Form R with X[8:0] of its own. -/
def sigR (f : ArgsR) (d a b c : Opnd) (mod res : Bool) (cw : CwRule) : Sig :=
  ⟨(d, f.d), (a, f.a), (b, f.b), (c, f.c), mod && cw.modOk f.cw 0, res && cw.resOk f.cw f.ci, ccDest f.cw f.ci⟩

/-- Form I (03 R47). -/
def sigI (f : ArgsI) (d a : Opnd) (res : Bool) (flags : List Dest) : Sig :=
  ⟨(d, f.d), (a, f.a), (.raw, 0), (.raw, 0), true, res, flags⟩

/-- Form M: the sizes and orderings accepted, and the scope rule of 03 R48. -/
def sigM (f : ArgsM) (d a : Opnd) (szs ords : List Nat) (extra : Bool) : Sig :=
  ⟨(d, f.d), (a, f.a), (.src false, f.b), (.raw, 0),
    decide (f.sz.toNat ∈ szs) && decide (f.ord.toNat ∈ ords) && extra, f.ord != 0 || f.scope == 0, []⟩

/-- A load's data register (07 R168). -/
def loadData (sz : BitVec 4) : Opnd :=
  if sz = 6 then .vDstQuad else .dst (sz == 5)
/-- A store's data register (07 R168). -/
def storeData (sz : BitVec 4) : Opnd :=
  if sz = 6 then .vSrcQuad else .regSrc (sz == 5)

/-- A load of 07 R168. -/
def sigLoad (f : ArgsM) (wide : Bool) (ords : List Nat) : Sig :=
  sigM f (loadData f.sz) (.src wide) [0, 1, 2, 3, 4, 5, 6] ords (!(f.ord == 2 && f.sz == 6))
/-- A store of 07 R168. -/
def sigStore (f : ArgsM) (wide : Bool) (ords : List Nat) : Sig :=
  sigM f (storeData f.sz) (.src wide) [0, 2, 4, 5, 6] ords (!(f.ord == 2 && f.sz == 6))

/-- An atomic of 07 R172 or 11 R264; cas has a compare register in place of an index. -/
def sigAt (f : ArgsAt) (wide ret cas : Bool) : Sig :=
  ⟨(if ret then .upd f.aw else .src f.aw, f.d), (.src wide, f.a), (.src (cas && f.aw), f.b), (.raw, 0),
    decide (f.ord.toNat ≤ 1) &&
      (if cas then f.aop == 0 else decide (f.aop.toNat ≤ 14) && !(f.aw && decide (9 ≤ f.aop.toNat))),
    (f.ord != 0 || f.scope == 0) && (!cas || f.sc == 0), []⟩

/-- Form J (03 R49). -/
def sigJ (f : ArgsJ) (d : Opnd) (mod res : Bool) : Sig :=
  ⟨(d, f.d), (.raw, 0), (.raw, 0), (.raw, 0), mod, res, []⟩

/-- Form T (03 R50). -/
def sigT (f : ArgsT) (d a b c : Opnd) (mod res : Bool) : Sig :=
  ⟨(d, f.d), (a, f.a), (b, f.b), (c, f.c), mod, res, []⟩

/-- The low four W values. -/
def wAll : List Nat := [0, 1, 2, 3]
/-- The roundings of a column "any" of 06 R137. -/
def rmAny : List Nat := [0, 1, 2, 3, 4, 5]

/-- A RED instruction's sum latch as a destination (06 R151). -/
def withLatch (g : Sig) (x : BitVec 9) (writes : Bool) : Sig :=
  if writes then { g with flags := [.latch (x.toNat % 4)] } else g

/-- What the decoder checks of each slot instruction; an event is no slot and fails every check. -/
def Instr.sig (env : DecodeEnv) : Instr → Sig
  | .nop _ _ => ⟨(.raw, 0), (.raw, 0), (.raw, 0), (.raw, 0), true, true, []⟩
  | .iadd f => sigA f (.dst (f.w == 1)) (.src (f.w == 1)) (.src (f.w == 1)) .unused wAll true true (f.sub == 0) .single
  | .isub f => sigA f (.dst (f.w == 1)) (.src (f.w == 1)) (.src (f.w == 1)) .unused wAll true true (f.sub == 0) .single
  | .iadc f => sigA f (.dst (f.w == 1)) (.src (f.w == 1)) (.src (f.w == 1)) .unused [0, 1] false false (f.sub == 0) .anyReads
  | .isbc f => sigA f (.dst (f.w == 1)) (.src (f.w == 1)) (.src (f.w == 1)) .unused [0, 1] false false (f.sub == 0) .anyReads
  | .iaddi f => sigI f (.dst false) (.src false) true []
  | .imul f => sigA f (.dst (f.w == 1)) (.src (f.w == 1)) (.src (f.w == 1)) .unused wAll true true (f.sub == 0) .single
  | .imulh f => sigA f (.dst (f.w == 1)) (.src (f.w == 1)) (.src (f.w == 1)) .unused wAll true false (f.sub == 0) .single
  | .imad f => sigA f (.dst (f.w == 1)) (.src (f.w == 1)) (.src (f.w == 1)) (.src (f.w == 1)) [0, 1, 2] true true (f.sub == 0) .single
  | .imadw f => sigA f (.dst true) (.src false) (.src false) (.src true) [0] true true (f.sub == 0) .any
  | .idiv f => sigA f (.dst (f.w == 1)) (.src (f.w == 1)) (.src (f.w == 1)) .unused [0, 1] true true (decide (f.sub.toNat ≤ 1)) .any
  | .imin f => sigA f (.dst (f.w == 1)) (.src (f.w == 1)) (.src (f.w == 1)) .unused wAll true false (f.sub == 0) .single
  | .imax f => sigA f (.dst (f.w == 1)) (.src (f.w == 1)) (.src (f.w == 1)) .unused wAll true false (f.sub == 0) .single
  | .iabs f => sigA f (.dst (f.w == 1)) (.src (f.w == 1)) .unused .unused wAll false true (f.sub == 0) .single
  | .idp4 f => sigA f (.dst false) (.src false) (.src false) (.src false) [2, 3] false true (decide (f.sub.toNat ≤ 3)) .any
  | .isad f => sigA f (.dst false) (.src false) (.src false) (.src false) [0, 2, 3] true true (f.sub == 0) .any
  | .and f => sigA f (.dst (f.w == 1)) (.src (f.w == 1)) (.src (f.w == 1)) .unused [0, 1] false false (f.sub == 0) .any
  | .or f => sigA f (.dst (f.w == 1)) (.src (f.w == 1)) (.src (f.w == 1)) .unused [0, 1] false false (f.sub == 0) .any
  | .xor f => sigA f (.dst (f.w == 1)) (.src (f.w == 1)) (.src (f.w == 1)) .unused [0, 1] false false (f.sub == 0) .any
  | .andn f => sigA f (.dst (f.w == 1)) (.src (f.w == 1)) (.src (f.w == 1)) .unused [0, 1] false false (f.sub == 0) .any
  | .lop3 f => sigR f (.dst false) (.src false) (.src false) (.src false) true (natBits f.x.toNat 8 8 == 0) .any
  | .andi f => sigI f (.dst false) (.src false) true []
  | .ori f => sigI f (.dst false) (.src false) true []
  | .xori f => sigI f (.dst false) (.src false) true []
  | .shl f => sigA f (.dst (f.w == 1)) (.src (f.w == 1)) (.src false) .unused wAll false false true .single
  | .shr f => sigA f (.dst (f.w == 1)) (.src (f.w == 1)) (.src false) .unused wAll false false true .single
  | .sar f => sigA f (.dst (f.w == 1)) (.src (f.w == 1)) (.src false) .unused wAll false false true .single
  | .rot f => sigA f (.dst (f.w == 1)) (.src (f.w == 1)) (.src false) .unused wAll false false true .single
  | .shf f => sigR f (.dst false) (.src false) (.src false) (.src false) (natBits f.x.toNat 8 7 == 0) true .any
  | .bfx f => sigA f (.dst (f.w == 1)) (.src (f.w == 1)) (.src false) .unused [0, 1] true false (f.sub == 0) .any
  | .bfi f => sigA f (.dst (f.w == 1)) (.src (f.w == 1)) (.src false) (.src (f.w == 1)) [0, 1] false false (f.sub == 0) .any
  | .popc f => sigA f (.dst false) (.src (f.w == 1)) .unused .unused [0, 1] false false (f.sub == 0) .any
  | .clz f => sigA f (.dst false) (.src (f.w == 1)) .unused .unused [0, 1] false false (f.sub == 0) .any
  | .brev f => sigA f (.dst (f.w == 1)) (.src (f.w == 1)) .unused .unused [0, 1] false false (f.sub == 0) .any
  | .prmt f => sigA f (.dst false) (.src false) (.src false) (.src false) [0] false false (f.sub == 0) .any
  | .icmp f => sigA f .unused (.src (f.w == 1)) (.src (f.w == 1)) .unused [0, 1] false false (f.sub == 0) .required
  | .icmpi f => sigI f .raw (.src false) (decide (f.d.toNat ≤ 3)) [.cc f.d.toNat]
  | .itst f => sigA f .unused (.src (f.w == 1)) (.src (f.w == 1)) .unused [0, 1] false false (f.sub == 0) .required
  | .sel f => sigR f (.dst (natBits f.x.toNat 8 7 == 1)) (.src (natBits f.x.toNat 8 7 == 1)) (.src (natBits f.x.toNat 8 7 == 1)) .unused (decide (natBits f.x.toNat 8 7 ≤ 1)) (natBits f.x.toNat 6 4 == 0) .readsCc
  | .mov f => sigA f (.dst (f.w == 1)) (.src (f.w == 1)) .unused .unused [0, 1] false false (f.sub == 0) .any
  | .li f => sigI f (.dst false) .unused true []
  | .lih f => sigI f (.dst false) (.src false) (natBits f.imm.toNat 27 16 == 0) []
  | .lea f => sigA f (.dst (f.w == 1)) (.src (f.w == 1)) (.src false) .unused [0, 1] true false true .any
  | .ccrd f => sigA f (.dst false) .unused .unused .unused [0] false false (f.sub == 0) .readsCc
  | .ccwr f => sigA f .unused (.src false) .unused .unused [0] false false (f.sub == 0) .required
  | .shfl f => sigA f (.dst (f.w == 1)) (.src (f.w == 1)) (.src false) (.src false) [0, 1] false false (decide (f.sub.toNat ≤ 3)) .any
  | .vote f => sigA f (.dst (f.sub.toNat % 4 == 0 && env.width == 64)) (.src false) .unused .unused [0] false false (decide (f.sub.toNat ≤ 3)) .any
  | .matchL f => sigA f (.dst (env.width == 64)) (.src (f.w == 1)) .unused .unused [0, 1] false false (f.sub == 0) .any
  | .fadd f => sigB f (.dst false) (.src false) (.src false) .unused rmAny false true false .any
  | .fsub f => sigB f (.dst false) (.src false) (.src false) .unused rmAny false true false .any
  | .fmul f => sigB f (.dst false) (.src false) (.src false) .unused rmAny false true false .any
  | .ffma f => sigB f (.dst false) (.src false) (.src false) (.src false) rmAny true true false .any
  | .fmin f => sigB f (.dst false) (.src false) (.src false) .unused [0] false true false .any
  | .fmax f => sigB f (.dst false) (.src false) (.src false) .unused [0] false true false .any
  | .fcmp f => sigB f .unused (.src false) (.src false) .unused [0] false false false .required
  | .frnd f => sigB f (.dst false) (.src false) .unused .unused rmAny false true false .any
  | .fdp2 f => sigB f (.dst false) (.src false) (.src false) (.src false) rmAny true true true .any
  | .dadd f => sigB f (.dst true) (.src true) (.src true) .unused rmAny false true false .any
  | .dmul f => sigB f (.dst true) (.src true) (.src true) .unused rmAny false true false .any
  | .dfma f => sigB f (.dst true) (.src true) (.src true) (.src true) rmAny true true false .any
  | .dcmp f => sigB f .unused (.src true) (.src true) .unused [0] false false false .required
  | .hadd2 f => sigB f (.dst false) (.src false) (.src false) .unused rmAny false true true .illegal
  | .hmul2 f => sigB f (.dst false) (.src false) (.src false) .unused rmAny false true true .illegal
  | .hfma2 f => sigB f (.dst false) (.src false) (.src false) (.src false) rmAny true true true .illegal
  | .hmin2 f => sigB f (.dst false) (.src false) (.src false) .unused [0] false true true .illegal
  | .hmax2 f => sigB f (.dst false) (.src false) (.src false) .unused [0] false true true .illegal
  | .f2i f => sigR f (.dst false) (.src (f.x.getLsbD 4)) .unused .unused (decide (natBits f.x.toNat 8 6 ≤ 5)) (natBits f.x.toNat 2 1 == 0) .any
  | .i2f f => sigR f (.dst (f.x.getLsbD 4)) (.src false) .unused .unused (decide (natBits f.x.toNat 8 6 ≤ 5)) (natBits f.x.toNat 3 0 == 0) .any
  | .fcvt f => sigR f (.dst (natBits f.x.toNat 3 2 == 1)) (.src (natBits f.x.toNat 5 4 == 1)) .unused .unused ((decide (natBits f.x.toNat 8 6 ≤ 5)) && (!f.x.getLsbD 1 || decide (2 ≤ natBits f.x.toNat 5 4))) true .any
  | .f2n f => sigR f (.dst false) (.src false) (.src false) .unused true (natBits f.x.toNat 8 6 == 0 && natBits f.x.toNat 1 0 == 0) .any
  | .n2f f => sigR f (.dst false) (.src false) .unused .unused true (natBits f.x.toNat 1 0 == 0) .any
  | .rcp f => sigB f (.dst false) (.src false) .unused .unused [0, 1, 2, 3, 4] false true false .any
  | .rsq f => sigB f (.dst false) (.src false) .unused .unused [0] false true false .any
  | .sqrt f => sigB f (.dst false) (.src false) .unused .unused [0, 1, 2, 3, 4] false true false .any
  | .ex2 f => sigB f (.dst false) (.src false) .unused .unused [0] false true false .any
  | .lg2 f => sigB f (.dst false) (.src false) .unused .unused [0] false true false .any
  | .sin f => sigB f (.dst false) (.src false) .unused .unused [0] false true false .any
  | .cos f => sigB f (.dst false) (.src false) .unused .unused [0] false true false .any
  | .tanh f => sigB f (.dst false) (.src false) .unused .unused [0] false true false .any
  | .redPush f => withLatch (sigR f .unused (.src false) .unused .unused (decide (natBits f.x.toNat 4 2 ≤ 4)) (natBits f.x.toNat 8 5 == 0) .never) f.x true
  | .redMov f => withLatch (sigR f (.dst false) .unused .unused .unused (decide (natBits f.x.toNat 4 2 ≤ 4)) (natBits f.x.toNat 8 6 == 0 && (f.x.getLsbD 5 || natBits f.x.toNat 4 2 == 0)) .never) f.x (f.x.getLsbD 5)
  | .redClr f => withLatch (sigR f .unused .unused .unused .unused (decide (natBits f.x.toNat 4 2 ≤ 4)) (natBits f.x.toNat 8 5 == 0) .never) f.x true
  | .chk f => sigR f .unused (.chkA (f.x.getLsbD 0)) (.chkB (f.x.getLsbD 0)) .unused true (natBits f.x.toNat 8 1 == 0) .never
  | .ldG f => sigLoad f true [0, 1, 2]
  | .stG f => sigStore f true [0, 1, 2]
  | .ldS f => sigLoad f false [0, 1, 2]
  | .stS f => sigStore f false [0, 1, 2]
  | .ldC f => sigLoad f false [0]
  | .stC f => sigStore f false [0]
  | .ldL f => sigLoad f true [0, 1, 2]
  | .stL f => sigStore f true [0, 1, 2]
  | .ldQ f => sigLoad f false [0, 1, 2]
  | .stQ f => sigStore f false [0, 1, 2]
  | .atomS f => sigAt f false true false
  | .casS f => sigAt f false true true
  | .waita f => sigM f (.dst false) (.src false) [4] [0, 1] true
  | .tagr f => sigM f (.dst false) (.src true) [4] [0, 1] true
  | .tagw f => sigM f (.src false) (.src true) [4] [0, 1] true
  | .pref f => sigM f .unused (.src true) [0, 1] [0] true
  | .bra f => sigJ f .unused (decide (f.hint.toNat ≤ 11)) (f.rest == 0)
  | .brx f => sigR f .unused (.regSrc true) .unused .unused true (natBits f.x.toNat 8 1 == 0) .never
  | .call f => sigJ f (.vDst true) (decide (f.hint.toNat ≤ 11)) (f.rest == 0)
  | .callx f => sigR f (.vDst true) (.regSrc true) .unused .unused true (natBits f.x.toNat 8 1 == 0) .never
  | .ret f => sigR f .unused (.regSrc true) .unused .unused true (natBits f.x.toNat 8 0 == 0) .never
  | .exit f => sigR f .unused .unused .unused .unused true (natBits f.x.toNat 8 0 == 0) .never
  | .join f => sigR f .maskDst .unused .unused .unused true (natBits f.x.toNat 8 0 == 0) .never
  | .leave f => sigR f .maskDst .unused .unused .unused true (natBits f.x.toNat 8 0 == 0) .never
  | .waitm f => sigR f .unused .maskSrc .unused .unused true (natBits f.x.toNat 8 0 == 0) .never
  | .mset f => sigR f .maskDst (.src (env.width == 64)) .unused .unused true (natBits f.x.toNat 8 0 == 0) .never
  | .mop f => sigR f .maskDst .maskSrc (if natBits f.x.toNat 2 0 = 4 ∨ natBits f.x.toNat 2 0 = 5 then .unused else .maskSrc) .unused (decide (natBits f.x.toNat 2 0 ≤ 5)) (natBits f.x.toNat 8 3 == 0) .never
  | .mrd f => sigR f (.vDst (env.width == 64)) .maskSrc .unused .unused true (natBits f.x.toNat 8 0 == 0) .never
  | .mwr f => sigR f .maskDst (.src false) .unused .unused true (natBits f.x.toNat 8 0 == 0) .never
  | .bar f => sigR f .unused .unused .unused .unused true (natBits f.x.toNat 8 5 == 0) .never
  | .sbar f => sigR f .unused .unused .unused .unused (decide (3 ≤ natBits f.x.toNat 2 0) && decide (natBits f.x.toNat 2 0 ≤ 6)) (natBits f.x.toNat 8 4 == 0) .never
  | .fence f => sigR f .unused .unused .unused .unused true (natBits f.x.toNat 8 5 == 0) .never
  | .atomH f => sigAt f true true false
  | .redH f => sigAt f true false false
  | .casH f => sigAt f true true true
  | .cp f => sigR f .unused (.src true) (.src true) .regQuad true (!f.x.getLsbD 8 && (natBits f.x.toNat 1 0 != 0 || natBits f.x.toNat 4 2 == 0)) .never
  | .lop f => sigR f .unused (.src true) (.src false) (.src (f.x.getLsbD 4)) (decide (natBits f.x.toNat 3 0 ≤ 10) && (!f.x.getLsbD 4 || decide (natBits f.x.toNat 3 0 ≤ 6))) (f.x.getLsbD 5 || natBits f.x.toNat 8 6 == 0) .never
  | .hatch f => sigR f .unused .unused .unused .unused (f.g.gk == 0) (natBits f.x.toNat 8 6 == 0) .never
  | .safept f => sigR f .unused .unused .unused .unused (f.g.gk == 0) (natBits f.x.toNat 8 0 == 0) .never
  | .shelf f => sigR f .unused .unused .unused .unused true true .never
  | .launch f => sigR f .unused (.regSrc true) .unused .unused true (natBits f.x.toNat 8 8 == 0) .never
  | .trap f => sigR f .unused (if f.x.getLsbD 6 then .src (f.x.getLsbD 7) else .unused) .unused .unused (!f.x.getLsbD 7 || f.x.getLsbD 6) (natBits f.x.toNat 8 8 == 0) .never
  | .bkpt f => sigR f .unused .unused .unused .unused true (natBits f.x.toNat 8 8 == 0) .never
  | .yield f => sigR f .unused .unused .unused .unused true (natBits f.x.toNat 8 0 == 0) .never
  | .gts f => sigR f (.dst true) .unused .unused .unused true (natBits f.x.toNat 8 0 == 0) .never
  | .cnt f => sigR f (.dst true) .unused .unused .unused (decide (natBits f.x.toNat 4 0 ≤ 16)) (natBits f.x.toNat 8 5 == 0) .never
  | .evt f => sigR f .unused (.src false) .unused .unused true (natBits f.x.toNat 8 8 == 0) .never
  | .nsleep f => sigR f .unused (.src false) .unused .unused true (natBits f.x.toNat 8 0 == 0) .never
  | .qadd f => sigR f .qDst .qSrc .qSrc .unused true (natBits f.x.toNat 8 0 == 0) .any
  | .qsub f => sigR f .qDst .qSrc .qSrc .unused true (natBits f.x.toNat 8 0 == 0) .any
  | .qmul f => sigR f .qDst .qSrc .qSrc .unused true (natBits f.x.toNat 8 0 == 0) .any
  | .qli f => sigI f .qDst .unused true []
  | .qshl f => sigR f .qDst .qSrc .qSrc .unused (!f.x.getLsbD 1 || f.x.getLsbD 0) (natBits f.x.toNat 8 2 == 0) .any
  | .qand f => sigR f .qDst .qSrc .qSrc .unused true (natBits f.x.toNat 8 0 == 0) .any
  | .qcmp f => sigR f .unused .qSrc .qSrc .unused true (natBits f.x.toNat 8 0 == 0) .required
  | .qmov f => sigR f .qDst (.qMovA (f.x.getLsbD 0)) .unused .unused true (natBits f.x.toNat 8 1 == 0) .any
  | .qbra f => sigJ f .unused (decide (f.hint.toNat ≤ 11)) (f.rest == 0 && f.hint == 0 && !f.u)
  | .qloop f => sigJ f .lcUpd (decide (f.hint.toNat ≤ 11)) (f.rest == 0 && f.hint == 0 && !f.u)
  | .qwait f => sigR f .unused .qReg .qSrc .unused true (natBits f.x.toNat 8 6 == 0 && (f.x.getLsbD 2 || natBits f.x.toNat 5 3 == 0)) .never
  | .qsig f => sigR f .unused .qReg .qSrc .unused true (natBits f.x.toNat 8 6 == 0 && natBits f.x.toNat 1 0 == 0 && (f.x.getLsbD 2 || natBits f.x.toNat 5 3 == 0)) .never
  | .unhatch f => sigR f .unused .unused .unused .unused true (natBits f.x.toNat 8 0 == 0) .never
  | .tresume f => sigR f .accDst .unused .unused .unused true (natBits f.x.toNat 8 0 == 0) .never
  | .qsafe f => sigR f .unused .unused .unused .unused true (natBits f.x.toNat 8 0 == 0) .never
  | .tfence f => sigR f .unused .unused .unused .unused true (natBits f.x.toNat 8 3 == 0) .never
  | .tld f => sigT f .tDst .qReg .qRegOrZero .raw (natBits f.c.toNat 1 0 != 3) (f.fs == 0 && natBits f.c.toNat 7 4 == 0)
  | .tst f => sigT f .tSrc .qReg .qRegOrZero .raw (natBits f.c.toNat 1 0 == 0) (f.fs == 0 && natBits f.c.toNat 7 4 == 0)
  | .tcp f => sigT f .unused .qReg .qReg .qPair true (f.fs == 0)
  | .txp f => sigT f .tDst .tSrc .unused .raw (natBits f.c.toNat 1 0 != 3) (f.fs == 0 && natBits f.c.toNat 7 2 == 0)
  | .tgat f => sigT f .latchDst .qReg .qReg .unused true (f.fs == 0)
  | .tfill f => sigT f .tDst .qReg .qReg .unused true (f.fs == 0)
  | .tzero f => sigT f .tDst .unused .unused .unused true (f.fs == 0)
  | .tmma f => sigT f .accDst .tLatch .tSrc .raw true (natBits f.c.toNat 7 4 == 0)
  | .tgemm f => ⟨(.accDst, f.d), (.qReg, f.a), (.qReg, f.b), (.raw, 0), f.beats != 0, true, []⟩
  | .tadd f => sigT f .tDst .tSrc .tSrc .raw true (natBits f.c.toNat 7 1 == 0)
  | .tmul f => sigT f .tDst .tSrc .tSrc .unused true true
  | .tfma f => sigT f .tDst .tSrc .tSrc .tSrc true true
  | .tmax f => sigT f .tDst .tSrc .tSrc .raw true (natBits f.c.toNat 7 1 == 0)
  | .tact f => sigT f .tDst .tSrc .unused .raw (natBits f.c.toNat 2 0 != 7) (natBits f.c.toNat 7 3 == 0)
  | .tscale f => sigT f .tDst .tSrc .tSrc .raw (natBits f.c.toNat 1 0 != 3) (natBits f.c.toNat 7 2 == 0)
  | .tred f => sigT f .tUpd .tSrc .unused .raw true (natBits f.c.toNat 7 4 == 0)
  | .tamax f => sigT f .tUpd .tSrc .unused .raw true (natBits f.c.toNat 7 4 == 0 && natBits f.c.toNat 2 0 == 0)
  | .tminmax f => sigT f .tUpd .tSrc .unused .raw true (natBits f.c.toNat 7 4 == 0 && natBits f.c.toNat 2 0 == 0)
  | .tqnt f => sigT f .tUpd .tSrc (if f.c.getLsbD 3 then .tSrc else .unused) .raw true (natBits f.c.toNat 7 4 == 0)
  | .tdqt f => sigT f .tUpd .tSrc .unused .raw true (natBits f.c.toNat 7 3 == 0)
  | .tcvt f => sigT f .tUpd .tSrc .unused .raw true (natBits f.c.toNat 7 3 == 0)
  | .topt f => sigT f .tDst .tSrc .tSrc .qReg true true
  | .fenceComplete _ _ _ | .conflictNotice _ _ | .homeRequest _ _ | .l1Invalidation _ _
  | .copyRun _ _ | .loftGrant _ _ | .trapRecordWrite _ | .sleepEnd _ _ _
  | .regroupPoint _ _ | .waitWake _ _ _ | .waitLimit _ | .unhatchComplete _
  | .engineResultWrite _ _ | .tlbiVaRange _ _ _ _ _ | .tlbiAsid _ _ _ | .tlbiVfStage1 _ _
  | .tlbiIpaRange _ _ _ _ | .tlbiVfStage2 _ _ | .tlbiComplete _ | .framecmd _ _
  | .framegrpWrite _ _ | .retry _ _ | .refuse _ _ | .swapOut _
  | .poolAdd _ _ | .poolRemove _ _ | .dumbwaiterMove _ _ _ | .residencyRelease _
  | .pageMove _ _ _ _ | .frozenFrameRelease _ | .moved _ _ | .pageRetire _ _ _
  | .doorbell _ _ _ | .qstatResume _ _ | .launchHead _ | .spliceDecision _
  | .distributorDecision | .blockRetire _ | .launchComplete _ _ | .loadreq _ _
  | .loaderRun | .icinv _ | .preemptEstimator _ _ _ _ | .preemptSave _ _ _ _
  | .preemptDrain _ _ _ _ | .preemptDiscard _ _ _ _ | .crateWrite _ | .eccDetected _ _
  | .errorClassify _ _ | .partcfgWrite _ _ | .worldSwitch _ _ | .ctrloRead _ _ _ _
  | .ctrhiRead _ _ _ _ | .scsnap _ _ | .traceSample _ _ | .stopBroadcast _ _
  | .dbgattWrite _ _ | .resumeAll _ | .resumeOneCrew _ _ | .step _ _
  | .stopLaunch _ | .reloadWatchpoints _ | .attnonce _ _ | .attestationReport
  | .maintEnter | .maintEffect | .maintLeave | .registerWrite _ _ _ _
  | .hostWrite _ _ | .peerRequest _ _ _ _ | .ladderPortFailure _ | .packageUnreachable _
  | .reset | .fullService | .thermalThrottle _ | .thermalShutdown
  | .podBarrierTraffic _ _ | .cxlCacheSnoop _ | .atticLinkDown _ =>
    ⟨(.raw, 0), (.raw, 0), (.raw, 0), (.raw, 0), false, false, []⟩

/-- The element-kind width of 02 R21, 6-bit kinds counted as 8 (09 R213). -/
def kindBits (k : Nat) : Nat :=
  if k = 0 ∨ k = 13 then 32 else if k = 1 ∨ k = 2 then 16
  else if k = 7 ∨ k = 8 ∨ k = 11 ∨ k = 12 then 4 else if k = 14 then 64 else 8

/-- A kind of the integer class (02 R21). -/
def kindInteger (k : Nat) : Bool := k = 9 ∨ k = 11 ∨ k = 13

/-- A format slot is valid (10 R236). -/
def slotValid (f : DWord) : Bool :=
  let ak := natBits f.toNat 63 60
  let bk := natBits f.toNat 59 56
  let ok := natBits f.toNat 55 52
  decide (ak < 14) && decide (bk < 14) && decide (ok < 14) && decide (natBits f.toNat 51 48 ≤ 3)
    && decide (natBits f.toNat 47 44 ≤ 6) && decide (natBits f.toNat 42 40 ≤ 5) && natBits f.toNat 31 0 == 0
    && kindInteger ak == kindInteger bk

/-- The beats of one tile step in whole mode, 16 where the wider kind is FP32 and 4 otherwise (09 R216). -/
def stepBeats (f : DWord) : Nat :=
  if natBits f.toNat 63 60 = 0 ∨ natBits f.toNat 59 56 = 0 then 16 else 4

/-- A form-T instruction's stated beats (03 R50). -/
def ArgsT.beats (f : ArgsT) : Nat := f.x.toNat + 1

/-- TMMA's stated beats (09 R219). -/
def tmmaBeats (f : ArgsT) : Nat := natBits f.x.toNat 8 1 + 1

/-- The stated beat count is at least what the instruction needs in the partition mode (check 10 of 03 R62;
08 R195, 09 R216, 10 R243). -/
def Instr.beatsOk (env : DecodeEnv) : Instr → Bool
  | .tld f | .tst f => decide ((if f.c.getLsbD 2 then 36 else 32) * env.beatMul ≤ f.beats)
  | .tcp f => decide (env.beatMul ≤ f.beats)
  | .txp f | .tgat f | .tfill f => decide (32 * env.beatMul ≤ f.beats)
  | .tzero f => decide (8 * env.beatMul ≤ f.beats)
  | .tmma f =>
    let sl := env.fslots.getD f.fs.toNat 0
    !slotValid sl || decide (stepBeats sl * env.beatMul ≤ tmmaBeats f)
  | .tgemm f =>
    let sl := env.fslots.getD f.fs.toNat 0
    !slotValid sl || decide ((64 + stepBeats sl) * env.beatMul ≤ f.beats.toNat)
  | .tadd f | .tmul f | .tfma f | .tmax f | .tact f | .tscale f | .tred f | .tamax f | .tminmax f =>
    decide (8 * env.beatMul ≤ f.beats)
  | .tqnt f | .tdqt f | .tcvt f | .topt f => decide (16 * env.beatMul ≤ f.beats)
  | _ => true

end Sys2Proof
end

