-- ==== Sys2Proof/Decode.lean ====
section
/-! DEFINITION. The decoder: a slot word to the instruction it encodes or a named rejection (03 R44 to R61), a run of
words to a bundle or the first failing check with its slot mask (03 R62 to R64); and the encoder of slot words. -/

namespace Sys2Proof

/-- The guard fields of a slot word (03 R44). -/
def guardOf (w : BitVec 64) : Guard := ⟨w.extractLsb' 48 2, w.extractLsb' 44 4⟩

/-- The D field. -/
def fieldD (w : BitVec 64) : BitVec 8 := w.extractLsb' 36 8
/-- The A field. -/
def fieldA (w : BitVec 64) : BitVec 8 := w.extractLsb' 28 8
/-- The B field. -/
def fieldB (w : BitVec 64) : BitVec 8 := w.extractLsb' 20 8
/-- The C field. -/
def fieldC (w : BitVec 64) : BitVec 8 := w.extractLsb' 12 8
/-- One bit of a slot word. -/
def bitAt (w : BitVec 64) (i : Nat) : Bool := w.getLsbD i

/-- Form R of unit A (03 R46). -/
def argsA (w : BitVec 64) : ArgsA :=
  ⟨guardOf w, fieldD w, fieldA w, fieldB w, fieldC w, bitAt w 11, w.extractLsb' 9 2, w.extractLsb' 7 2, bitAt w 6,
    bitAt w 5, w.extractLsb' 0 5⟩

/-- Form R of unit B (03 R46). -/
def argsB (w : BitVec 64) : ArgsB :=
  ⟨guardOf w, fieldD w, fieldA w, fieldB w, fieldC w, bitAt w 11, w.extractLsb' 9 2, w.extractLsb' 6 3, bitAt w 5,
    bitAt w 4, bitAt w 3, bitAt w 2, bitAt w 1, bitAt w 0⟩

/-- Form R with X[8:0] left to the instruction (03 R46). -/
def argsR (w : BitVec 64) : ArgsR :=
  ⟨guardOf w, fieldD w, fieldA w, fieldB w, fieldC w, bitAt w 11, w.extractLsb' 9 2, w.extractLsb' 0 9⟩

/-- Form I (03 R47). -/
def argsI (w : BitVec 64) : ArgsI := ⟨guardOf w, fieldD w, fieldA w, w.extractLsb' 0 28⟩

/-- Form M of loads and stores (03 R48). -/
def argsM (w : BitVec 64) : ArgsM :=
  ⟨guardOf w, fieldD w, fieldA w, fieldB w, w.extractLsb' 16 4, w.extractLsb' 14 2, w.extractLsb' 12 2,
    w.extractLsb' 9 3, w.extractLsb' 0 9⟩

/-- Form M of atomics (03 R48). -/
def argsAt (w : BitVec 64) : ArgsAt :=
  ⟨guardOf w, fieldD w, fieldA w, fieldB w, w.extractLsb' 16 4, w.extractLsb' 14 2, w.extractLsb' 12 2,
    w.extractLsb' 9 3, bitAt w 8, w.extractLsb' 0 8⟩

/-- Form J (03 R49). -/
def argsJ (w : BitVec 64) : ArgsJ :=
  ⟨guardOf w, fieldD w, w.extractLsb' 12 24, w.extractLsb' 5 7, w.extractLsb' 1 4, bitAt w 0⟩

/-- Form T (03 R50). -/
def argsT (w : BitVec 64) : ArgsT :=
  ⟨guardOf w, fieldD w, fieldA w, fieldB w, fieldC w, w.extractLsb' 9 3, w.extractLsb' 0 9⟩

/-- Form TG (03 R51). -/
def argsG (w : BitVec 64) : ArgsG :=
  ⟨guardOf w, fieldD w, fieldA w, fieldB w, w.extractLsb' 17 3, w.extractLsb' 0 17⟩

/-- The opcodes of unit A: integer and crew instructions (03 R57); any other is unassigned. -/
def decodeA (op : Nat) (w : BitVec 64) : Except Reject Instr :=
  match op with
  | 0x010 => .ok (.iadd (argsA w))
  | 0x011 => .ok (.isub (argsA w))
  | 0x012 => .ok (.iadc (argsA w))
  | 0x013 => .ok (.isbc (argsA w))
  | 0x014 => .ok (.iaddi (argsI w))
  | 0x015 => .ok (.imul (argsA w))
  | 0x016 => .ok (.imulh (argsA w))
  | 0x017 => .ok (.imad (argsA w))
  | 0x018 => .ok (.imadw (argsA w))
  | 0x019 => .ok (.idiv (argsA w))
  | 0x01A => .ok (.imin (argsA w))
  | 0x01B => .ok (.imax (argsA w))
  | 0x01C => .ok (.iabs (argsA w))
  | 0x01D => .ok (.idp4 (argsA w))
  | 0x01E => .ok (.isad (argsA w))
  | 0x020 => .ok (.and (argsA w))
  | 0x021 => .ok (.or (argsA w))
  | 0x022 => .ok (.xor (argsA w))
  | 0x023 => .ok (.andn (argsA w))
  | 0x024 => .ok (.lop3 (argsR w))
  | 0x025 => .ok (.andi (argsI w))
  | 0x026 => .ok (.ori (argsI w))
  | 0x027 => .ok (.xori (argsI w))
  | 0x030 => .ok (.shl (argsA w))
  | 0x031 => .ok (.shr (argsA w))
  | 0x032 => .ok (.sar (argsA w))
  | 0x033 => .ok (.rot (argsA w))
  | 0x034 => .ok (.shf (argsR w))
  | 0x036 => .ok (.bfx (argsA w))
  | 0x037 => .ok (.bfi (argsA w))
  | 0x038 => .ok (.popc (argsA w))
  | 0x039 => .ok (.clz (argsA w))
  | 0x03A => .ok (.brev (argsA w))
  | 0x03B => .ok (.prmt (argsA w))
  | 0x040 => .ok (.icmp (argsA w))
  | 0x041 => .ok (.icmpi (argsI w))
  | 0x042 => .ok (.itst (argsA w))
  | 0x043 => .ok (.sel (argsR w))
  | 0x044 => .ok (.mov (argsA w))
  | 0x045 => .ok (.li (argsI w))
  | 0x046 => .ok (.lih (argsI w))
  | 0x047 => .ok (.lea (argsA w))
  | 0x048 => .ok (.ccrd (argsA w))
  | 0x049 => .ok (.ccwr (argsA w))
  | 0x050 => .ok (.shfl (argsA w))
  | 0x051 => .ok (.vote (argsA w))
  | 0x052 => .ok (.matchL (argsA w))
  | _ => .error .illegalOpcode

/-- The opcodes of unit B: floating point, conversion, reduction slot, CHK (03 R58); any other is unassigned. -/
def decodeB (op : Nat) (w : BitVec 64) : Except Reject Instr :=
  match op with
  | 0x010 => .ok (.fadd (argsB w))
  | 0x011 => .ok (.fsub (argsB w))
  | 0x012 => .ok (.fmul (argsB w))
  | 0x013 => .ok (.ffma (argsB w))
  | 0x014 => .ok (.fmin (argsB w))
  | 0x015 => .ok (.fmax (argsB w))
  | 0x016 => .ok (.fcmp (argsB w))
  | 0x017 => .ok (.frnd (argsB w))
  | 0x019 => .ok (.fdp2 (argsB w))
  | 0x020 => .ok (.dadd (argsB w))
  | 0x021 => .ok (.dmul (argsB w))
  | 0x022 => .ok (.dfma (argsB w))
  | 0x023 => .ok (.dcmp (argsB w))
  | 0x028 => .ok (.hadd2 (argsB w))
  | 0x029 => .ok (.hmul2 (argsB w))
  | 0x02A => .ok (.hfma2 (argsB w))
  | 0x02B => .ok (.hmin2 (argsB w))
  | 0x02C => .ok (.hmax2 (argsB w))
  | 0x030 => .ok (.f2i (argsR w))
  | 0x031 => .ok (.i2f (argsR w))
  | 0x032 => .ok (.fcvt (argsR w))
  | 0x033 => .ok (.f2n (argsR w))
  | 0x034 => .ok (.n2f (argsR w))
  | 0x040 => .ok (.rcp (argsB w))
  | 0x041 => .ok (.rsq (argsB w))
  | 0x042 => .ok (.sqrt (argsB w))
  | 0x043 => .ok (.ex2 (argsB w))
  | 0x044 => .ok (.lg2 (argsB w))
  | 0x045 => .ok (.sin (argsB w))
  | 0x046 => .ok (.cos (argsB w))
  | 0x047 => .ok (.tanh (argsB w))
  | 0x050 => .ok (.redPush (argsR w))
  | 0x051 => .ok (.redMov (argsR w))
  | 0x052 => .ok (.redClr (argsR w))
  | 0x060 => .ok (.chk (argsR w))
  | _ => .error .illegalOpcode

/-- The opcodes of unit M: local and synchronous memory access (03 R59); any other is unassigned. -/
def decodeM (op : Nat) (w : BitVec 64) : Except Reject Instr :=
  match op with
  | 0x010 => .ok (.ldG (argsM w))
  | 0x011 => .ok (.stG (argsM w))
  | 0x012 => .ok (.ldS (argsM w))
  | 0x013 => .ok (.stS (argsM w))
  | 0x014 => .ok (.ldC (argsM w))
  | 0x015 => .ok (.stC (argsM w))
  | 0x016 => .ok (.ldL (argsM w))
  | 0x017 => .ok (.stL (argsM w))
  | 0x018 => .ok (.ldQ (argsM w))
  | 0x019 => .ok (.stQ (argsM w))
  | 0x020 => .ok (.atomS (argsAt w))
  | 0x021 => .ok (.casS (argsAt w))
  | 0x028 => .ok (.waita (argsM w))
  | 0x030 => .ok (.tagr (argsM w))
  | 0x031 => .ok (.tagw (argsM w))
  | 0x032 => .ok (.pref (argsM w))
  | _ => .error .illegalOpcode

/-- The opcodes of unit C: control, synchronisation, home atomics, copies, system (03 R60); any other is unassigned. -/
def decodeC (op : Nat) (w : BitVec 64) : Except Reject Instr :=
  match op with
  | 0x010 => .ok (.bra (argsJ w))
  | 0x011 => .ok (.brx (argsR w))
  | 0x012 => .ok (.call (argsJ w))
  | 0x013 => .ok (.callx (argsR w))
  | 0x014 => .ok (.ret (argsR w))
  | 0x015 => .ok (.exit (argsR w))
  | 0x018 => .ok (.join (argsR w))
  | 0x019 => .ok (.leave (argsR w))
  | 0x01A => .ok (.waitm (argsR w))
  | 0x01B => .ok (.mset (argsR w))
  | 0x01C => .ok (.mop (argsR w))
  | 0x01D => .ok (.mrd (argsR w))
  | 0x01E => .ok (.mwr (argsR w))
  | 0x020 => .ok (.bar (argsR w))
  | 0x021 => .ok (.sbar (argsR w))
  | 0x022 => .ok (.fence (argsR w))
  | 0x028 => .ok (.atomH (argsAt w))
  | 0x029 => .ok (.redH (argsAt w))
  | 0x02A => .ok (.casH (argsAt w))
  | 0x030 => .ok (.cp (argsR w))
  | 0x032 => .ok (.lop (argsR w))
  | 0x038 => .ok (.hatch (argsR w))
  | 0x039 => .ok (.safept (argsR w))
  | 0x03A => .ok (.shelf (argsR w))
  | 0x03B => .ok (.launch (argsR w))
  | 0x040 => .ok (.trap (argsR w))
  | 0x041 => .ok (.bkpt (argsR w))
  | 0x042 => .ok (.yield (argsR w))
  | 0x043 => .ok (.gts (argsR w))
  | 0x044 => .ok (.cnt (argsR w))
  | 0x045 => .ok (.evt (argsR w))
  | 0x046 => .ok (.nsleep (argsR w))
  | _ => .error .illegalOpcode

/-- The opcodes of unit Q: Loft control (03 R61); any other is unassigned. -/
def decodeQ (op : Nat) (w : BitVec 64) : Except Reject Instr :=
  match op with
  | 0x010 => .ok (.qadd (argsR w))
  | 0x011 => .ok (.qsub (argsR w))
  | 0x012 => .ok (.qmul (argsR w))
  | 0x013 => .ok (.qli (argsI w))
  | 0x014 => .ok (.qshl (argsR w))
  | 0x015 => .ok (.qand (argsR w))
  | 0x016 => .ok (.qcmp (argsR w))
  | 0x017 => .ok (.qmov (argsR w))
  | 0x020 => .ok (.qbra (argsJ w))
  | 0x021 => .ok (.qloop (argsJ w))
  | 0x023 => .ok (.qwait (argsR w))
  | 0x024 => .ok (.qsig (argsR w))
  | 0x025 => .ok (.unhatch (argsR w))
  | 0x026 => .ok (.tresume (argsR w))
  | 0x027 => .ok (.qsafe (argsR w))
  | 0x028 => .ok (.tfence (argsR w))
  | _ => .error .illegalOpcode

/-- The opcodes of unit X: copies and transposes (03 R61); any other is unassigned. -/
def decodeX (op : Nat) (w : BitVec 64) : Except Reject Instr :=
  match op with
  | 0x010 => .ok (.tld (argsT w))
  | 0x011 => .ok (.tst (argsT w))
  | 0x012 => .ok (.tcp (argsT w))
  | 0x013 => .ok (.txp (argsT w))
  | 0x014 => .ok (.tgat (argsT w))
  | 0x015 => .ok (.tfill (argsT w))
  | 0x016 => .ok (.tzero (argsT w))
  | _ => .error .illegalOpcode

/-- The opcodes of unit T: the matrix engine (03 R61); any other is unassigned. -/
def decodeT (op : Nat) (w : BitVec 64) : Except Reject Instr :=
  match op with
  | 0x010 => .ok (.tmma (argsT w))
  | 0x012 => .ok (.tgemm (argsG w))
  | _ => .error .illegalOpcode

/-- The opcodes of unit V: the tile-vector engine (03 R61); any other is unassigned. -/
def decodeV (op : Nat) (w : BitVec 64) : Except Reject Instr :=
  match op with
  | 0x010 => .ok (.tadd (argsT w))
  | 0x011 => .ok (.tmul (argsT w))
  | 0x012 => .ok (.tfma (argsT w))
  | 0x013 => .ok (.tmax (argsT w))
  | 0x014 => .ok (.tact (argsT w))
  | 0x015 => .ok (.tscale (argsT w))
  | 0x016 => .ok (.tred (argsT w))
  | 0x017 => .ok (.tamax (argsT w))
  | 0x018 => .ok (.tminmax (argsT w))
  | 0x019 => .ok (.tqnt (argsT w))
  | 0x01A => .ok (.tdqt (argsT w))
  | 0x01B => .ok (.tcvt (argsT w))
  | 0x01C => .ok (.topt (argsT w))
  | _ => .error .illegalOpcode

/-- The instruction a slot word encodes (03 R44, R56 to R61); an unassigned opcode is rejected by name (03 R4). -/
def decodeSlot (w : BitVec 64) : Except Reject Instr :=
  let op := (w.extractLsb' 50 10).toNat
  if op = 1 then .ok (.nop (w.extractLsb' 60 3) (w.extractLsb' 0 50))
  else
    match (w.extractLsb' 60 3).toNat with
    | 0 => decodeA op w
    | 1 => decodeB op w
    | 2 => decodeM op w
    | 3 => decodeC op w
    | 4 => decodeQ op w
    | 5 => decodeX op w
    | 6 => decodeT op w
    | _ => decodeV op w

/-- The bit E of a slot word: the last slot of its bundle (03 R42). -/
def slotLast (w : BitVec 64) : Bool := w.getLsbD 63

/-- The unit a slot word names (03 R44). -/
def slotUnit (w : BitVec 64) : Nat := (w.extractLsb' 60 3).toNat

/-- The words of a bundle: up to and with the first whose E is 1, four at most (03 R42, R62). -/
def bundleWords : Nat → List (BitVec 64) → List (BitVec 64)
  | 0, _ => []
  | _, [] => []
  | n + 1, w :: ws => if slotLast w then [w] else w :: bundleWords n ws

/-- A slot mask from one truth value a slot, slot 0 first (03 R62). -/
def slotMask : List Bool → Nat
  | [] => 0
  | b :: bs => (if b then 1 else 0) + 2 * slotMask bs

/-- Which slots stand out of unit order: the unit is not above its predecessor's (03 R62, check 4). -/
def disordered : Option Nat → List Nat → List Bool
  | _, [] => []
  | none, u :: us => false :: disordered (some u) us
  | some p, u :: us => decide (u ≤ p) :: disordered (some u) us

/-- Which slots share a destination with another slot of the bundle (03 R63). -/
def sharing (dss : List (List Dest)) : List Bool :=
  (List.range dss.length).map (fun i =>
    (List.range dss.length).any (fun j => i != j && (dss.getD i []).any (fun d => d ∈ dss.getD j [])))

/-- The slot mask of every read-port excess of a bundle, 0 where the limits hold (03 R64). -/
def portMask (reads : List (List ReadPort)) : Nat :=
  let total : Nat := (reads.map List.length).sum
  let ks : Nat := (reads.map (fun r => (r.filter (· == .kFile)).length)).sum
  slotMask (reads.map (fun r =>
    decide (3 < r.length) || (decide (8 < total) && !r.isEmpty) || (decide (2 < ks) && r.any (· == .kFile))))

/-- The first failing check among a mask list in check order. -/
def firstDefect : List (Reject × Nat) → Option (Reject × Nat)
  | [] => none
  | (c, m) :: r => if m = 0 then firstDefect r else some (c, m)

/-- The ten checks of a bundle in order, each with its slot mask (03 R62 to R64). -/
def bundleDefect (env : DecodeEnv) (ws : List (BitVec 64)) : Option (Reject × Nat) :=
  let units := ws.map slotUnit
  let is := ws.map decodeSlot
  let bad := is.map (fun r => match r with | .ok _ => false | .error _ => true)
  let ok := is.map (fun r => match r with | .ok i => i | .error _ => .nop 0 0)
  let sigs := ok.map (Instr.sig env)
  firstDefect [
    (.illegalOpcode, slotMask bad),
    (.bundleLength, if ws.any slotLast then 0 else 0b1111),
    (.wrongSide, slotMask (units.map (fun u => decide (4 ≤ u) != env.loft))),
    (.slotOrder, slotMask (disordered none units)),
    (.illegalOperand, slotMask (sigs.map (fun g => !g.operandsOk env))),
    (.illegalModifier, slotMask (sigs.map (fun g => !g.mod))),
    (.reservedNonzero, slotMask (sigs.map (fun g => !g.zerosOk))),
    (.destConflict, slotMask (sharing (sigs.map (Sig.dests)))),
    (.readPorts, portMask (sigs.map (Sig.reads))),
    (.beatsShort, slotMask (ok.map (fun i => !i.beatsOk env)))]

/-- A bundle from its words: its slot instructions, or the first failing check and its slot mask (03 R62). -/
def decodeBundle (env : DecodeEnv) (ws : List (BitVec 64)) : Except (Reject × Nat) (List Instr) :=
  match bundleDefect env ws with
  | some d => .error d
  | none => .ok (ws.filterMap (fun w => (decodeSlot w).toOption))

/-- A slot word from eight bytes, lowest address first (00 R1). -/
def wordOfBytes : List Byte → Option (BitVec 64 × List Byte)
  | b0 :: b1 :: b2 :: b3 :: b4 :: b5 :: b6 :: b7 :: r => some (b7 ++ b6 ++ b5 ++ b4 ++ b3 ++ b2 ++ b1 ++ b0, r)
  | _ => none

/-- One slot decoded from a run of bytes, with the rest of the run; fewer than eight bytes decode to nothing. -/
def decodeBytes (bs : List Byte) : Option (Except Reject Instr × List Byte) :=
  (wordOfBytes bs).map (fun r => (decodeSlot r.1, r.2))

/-! ### The encoder -/

/-- E, U and OP of a slot word. -/
def wordHead (last : Bool) (u : BitVec 3) (op : BitVec 10) : BitVec 14 := BitVec.ofBool last ++ u ++ op
/-- GC and GK of a slot word. -/
def guardBits (g : Guard) : BitVec 6 := g.gc ++ g.gk

/-- A form-R word of unit A (03 R46). -/
def packA (h : BitVec 14) (f : ArgsA) : BitVec 64 :=
  h ++ guardBits f.g ++ f.d ++ f.a ++ f.b ++ f.c ++ BitVec.ofBool f.cw ++ f.ci ++ f.w ++ BitVec.ofBool f.s
    ++ BitVec.ofBool f.sat ++ f.sub
/-- A form-R word of unit B (03 R46). -/
def packB (h : BitVec 14) (f : ArgsB) : BitVec 64 :=
  h ++ guardBits f.g ++ f.d ++ f.a ++ f.b ++ f.c ++ BitVec.ofBool f.cw ++ f.ci ++ f.rm ++ BitVec.ofBool f.na
    ++ BitVec.ofBool f.nc ++ BitVec.ofBool f.aa ++ BitVec.ofBool f.cl ++ BitVec.ofBool f.bf ++ BitVec.ofBool f.fz
/-- A form-R word with X[8:0] of the instruction's own (03 R46). -/
def packR (h : BitVec 14) (f : ArgsR) : BitVec 64 :=
  h ++ guardBits f.g ++ f.d ++ f.a ++ f.b ++ f.c ++ BitVec.ofBool f.cw ++ f.ci ++ f.x
/-- A form-I word (03 R47). -/
def packI (h : BitVec 14) (f : ArgsI) : BitVec 64 := h ++ guardBits f.g ++ f.d ++ f.a ++ f.imm
/-- A form-M word of a load or store (03 R48). -/
def packM (h : BitVec 14) (f : ArgsM) : BitVec 64 :=
  h ++ guardBits f.g ++ f.d ++ f.a ++ f.b ++ f.sz ++ f.sc ++ f.ord ++ f.scope ++ f.off
/-- A form-M word of an atomic (03 R48). -/
def packAt (h : BitVec 14) (f : ArgsAt) : BitVec 64 :=
  h ++ guardBits f.g ++ f.d ++ f.a ++ f.b ++ f.aop ++ f.sc ++ f.ord ++ f.scope ++ BitVec.ofBool f.aw ++ f.off
/-- A form-J word (03 R49). -/
def packJ (h : BitVec 14) (f : ArgsJ) : BitVec 64 :=
  h ++ guardBits f.g ++ f.d ++ f.off ++ f.rest ++ f.hint ++ BitVec.ofBool f.u
/-- A form-T word (03 R50). -/
def packT (h : BitVec 14) (f : ArgsT) : BitVec 64 :=
  h ++ guardBits f.g ++ f.d ++ f.a ++ f.b ++ f.c ++ f.fs ++ f.x
/-- A form-TG word (03 R51). -/
def packG (h : BitVec 14) (f : ArgsG) : BitVec 64 :=
  h ++ guardBits f.g ++ f.d ++ f.a ++ f.b ++ f.fs ++ f.beats

/-- The word of a slot instruction, with its E bit; an event has no word (03 R44 to R61). -/
def encodeSlot (last : Bool) : Instr → Option (BitVec 64)
  | .nop u low => some (wordHead last u 0x001 ++ low)
  | .iadd f => some (packA (wordHead last 0 0x010) f)
  | .isub f => some (packA (wordHead last 0 0x011) f)
  | .iadc f => some (packA (wordHead last 0 0x012) f)
  | .isbc f => some (packA (wordHead last 0 0x013) f)
  | .iaddi f => some (packI (wordHead last 0 0x014) f)
  | .imul f => some (packA (wordHead last 0 0x015) f)
  | .imulh f => some (packA (wordHead last 0 0x016) f)
  | .imad f => some (packA (wordHead last 0 0x017) f)
  | .imadw f => some (packA (wordHead last 0 0x018) f)
  | .idiv f => some (packA (wordHead last 0 0x019) f)
  | .imin f => some (packA (wordHead last 0 0x01A) f)
  | .imax f => some (packA (wordHead last 0 0x01B) f)
  | .iabs f => some (packA (wordHead last 0 0x01C) f)
  | .idp4 f => some (packA (wordHead last 0 0x01D) f)
  | .isad f => some (packA (wordHead last 0 0x01E) f)
  | .and f => some (packA (wordHead last 0 0x020) f)
  | .or f => some (packA (wordHead last 0 0x021) f)
  | .xor f => some (packA (wordHead last 0 0x022) f)
  | .andn f => some (packA (wordHead last 0 0x023) f)
  | .lop3 f => some (packR (wordHead last 0 0x024) f)
  | .andi f => some (packI (wordHead last 0 0x025) f)
  | .ori f => some (packI (wordHead last 0 0x026) f)
  | .xori f => some (packI (wordHead last 0 0x027) f)
  | .shl f => some (packA (wordHead last 0 0x030) f)
  | .shr f => some (packA (wordHead last 0 0x031) f)
  | .sar f => some (packA (wordHead last 0 0x032) f)
  | .rot f => some (packA (wordHead last 0 0x033) f)
  | .shf f => some (packR (wordHead last 0 0x034) f)
  | .bfx f => some (packA (wordHead last 0 0x036) f)
  | .bfi f => some (packA (wordHead last 0 0x037) f)
  | .popc f => some (packA (wordHead last 0 0x038) f)
  | .clz f => some (packA (wordHead last 0 0x039) f)
  | .brev f => some (packA (wordHead last 0 0x03A) f)
  | .prmt f => some (packA (wordHead last 0 0x03B) f)
  | .icmp f => some (packA (wordHead last 0 0x040) f)
  | .icmpi f => some (packI (wordHead last 0 0x041) f)
  | .itst f => some (packA (wordHead last 0 0x042) f)
  | .sel f => some (packR (wordHead last 0 0x043) f)
  | .mov f => some (packA (wordHead last 0 0x044) f)
  | .li f => some (packI (wordHead last 0 0x045) f)
  | .lih f => some (packI (wordHead last 0 0x046) f)
  | .lea f => some (packA (wordHead last 0 0x047) f)
  | .ccrd f => some (packA (wordHead last 0 0x048) f)
  | .ccwr f => some (packA (wordHead last 0 0x049) f)
  | .shfl f => some (packA (wordHead last 0 0x050) f)
  | .vote f => some (packA (wordHead last 0 0x051) f)
  | .matchL f => some (packA (wordHead last 0 0x052) f)
  | .fadd f => some (packB (wordHead last 1 0x010) f)
  | .fsub f => some (packB (wordHead last 1 0x011) f)
  | .fmul f => some (packB (wordHead last 1 0x012) f)
  | .ffma f => some (packB (wordHead last 1 0x013) f)
  | .fmin f => some (packB (wordHead last 1 0x014) f)
  | .fmax f => some (packB (wordHead last 1 0x015) f)
  | .fcmp f => some (packB (wordHead last 1 0x016) f)
  | .frnd f => some (packB (wordHead last 1 0x017) f)
  | .fdp2 f => some (packB (wordHead last 1 0x019) f)
  | .dadd f => some (packB (wordHead last 1 0x020) f)
  | .dmul f => some (packB (wordHead last 1 0x021) f)
  | .dfma f => some (packB (wordHead last 1 0x022) f)
  | .dcmp f => some (packB (wordHead last 1 0x023) f)
  | .hadd2 f => some (packB (wordHead last 1 0x028) f)
  | .hmul2 f => some (packB (wordHead last 1 0x029) f)
  | .hfma2 f => some (packB (wordHead last 1 0x02A) f)
  | .hmin2 f => some (packB (wordHead last 1 0x02B) f)
  | .hmax2 f => some (packB (wordHead last 1 0x02C) f)
  | .f2i f => some (packR (wordHead last 1 0x030) f)
  | .i2f f => some (packR (wordHead last 1 0x031) f)
  | .fcvt f => some (packR (wordHead last 1 0x032) f)
  | .f2n f => some (packR (wordHead last 1 0x033) f)
  | .n2f f => some (packR (wordHead last 1 0x034) f)
  | .rcp f => some (packB (wordHead last 1 0x040) f)
  | .rsq f => some (packB (wordHead last 1 0x041) f)
  | .sqrt f => some (packB (wordHead last 1 0x042) f)
  | .ex2 f => some (packB (wordHead last 1 0x043) f)
  | .lg2 f => some (packB (wordHead last 1 0x044) f)
  | .sin f => some (packB (wordHead last 1 0x045) f)
  | .cos f => some (packB (wordHead last 1 0x046) f)
  | .tanh f => some (packB (wordHead last 1 0x047) f)
  | .redPush f => some (packR (wordHead last 1 0x050) f)
  | .redMov f => some (packR (wordHead last 1 0x051) f)
  | .redClr f => some (packR (wordHead last 1 0x052) f)
  | .chk f => some (packR (wordHead last 1 0x060) f)
  | .ldG f => some (packM (wordHead last 2 0x010) f)
  | .stG f => some (packM (wordHead last 2 0x011) f)
  | .ldS f => some (packM (wordHead last 2 0x012) f)
  | .stS f => some (packM (wordHead last 2 0x013) f)
  | .ldC f => some (packM (wordHead last 2 0x014) f)
  | .stC f => some (packM (wordHead last 2 0x015) f)
  | .ldL f => some (packM (wordHead last 2 0x016) f)
  | .stL f => some (packM (wordHead last 2 0x017) f)
  | .ldQ f => some (packM (wordHead last 2 0x018) f)
  | .stQ f => some (packM (wordHead last 2 0x019) f)
  | .atomS f => some (packAt (wordHead last 2 0x020) f)
  | .casS f => some (packAt (wordHead last 2 0x021) f)
  | .waita f => some (packM (wordHead last 2 0x028) f)
  | .tagr f => some (packM (wordHead last 2 0x030) f)
  | .tagw f => some (packM (wordHead last 2 0x031) f)
  | .pref f => some (packM (wordHead last 2 0x032) f)
  | .bra f => some (packJ (wordHead last 3 0x010) f)
  | .brx f => some (packR (wordHead last 3 0x011) f)
  | .call f => some (packJ (wordHead last 3 0x012) f)
  | .callx f => some (packR (wordHead last 3 0x013) f)
  | .ret f => some (packR (wordHead last 3 0x014) f)
  | .exit f => some (packR (wordHead last 3 0x015) f)
  | .join f => some (packR (wordHead last 3 0x018) f)
  | .leave f => some (packR (wordHead last 3 0x019) f)
  | .waitm f => some (packR (wordHead last 3 0x01A) f)
  | .mset f => some (packR (wordHead last 3 0x01B) f)
  | .mop f => some (packR (wordHead last 3 0x01C) f)
  | .mrd f => some (packR (wordHead last 3 0x01D) f)
  | .mwr f => some (packR (wordHead last 3 0x01E) f)
  | .bar f => some (packR (wordHead last 3 0x020) f)
  | .sbar f => some (packR (wordHead last 3 0x021) f)
  | .fence f => some (packR (wordHead last 3 0x022) f)
  | .atomH f => some (packAt (wordHead last 3 0x028) f)
  | .redH f => some (packAt (wordHead last 3 0x029) f)
  | .casH f => some (packAt (wordHead last 3 0x02A) f)
  | .cp f => some (packR (wordHead last 3 0x030) f)
  | .lop f => some (packR (wordHead last 3 0x032) f)
  | .hatch f => some (packR (wordHead last 3 0x038) f)
  | .safept f => some (packR (wordHead last 3 0x039) f)
  | .shelf f => some (packR (wordHead last 3 0x03A) f)
  | .launch f => some (packR (wordHead last 3 0x03B) f)
  | .trap f => some (packR (wordHead last 3 0x040) f)
  | .bkpt f => some (packR (wordHead last 3 0x041) f)
  | .yield f => some (packR (wordHead last 3 0x042) f)
  | .gts f => some (packR (wordHead last 3 0x043) f)
  | .cnt f => some (packR (wordHead last 3 0x044) f)
  | .evt f => some (packR (wordHead last 3 0x045) f)
  | .nsleep f => some (packR (wordHead last 3 0x046) f)
  | .qadd f => some (packR (wordHead last 4 0x010) f)
  | .qsub f => some (packR (wordHead last 4 0x011) f)
  | .qmul f => some (packR (wordHead last 4 0x012) f)
  | .qli f => some (packI (wordHead last 4 0x013) f)
  | .qshl f => some (packR (wordHead last 4 0x014) f)
  | .qand f => some (packR (wordHead last 4 0x015) f)
  | .qcmp f => some (packR (wordHead last 4 0x016) f)
  | .qmov f => some (packR (wordHead last 4 0x017) f)
  | .qbra f => some (packJ (wordHead last 4 0x020) f)
  | .qloop f => some (packJ (wordHead last 4 0x021) f)
  | .qwait f => some (packR (wordHead last 4 0x023) f)
  | .qsig f => some (packR (wordHead last 4 0x024) f)
  | .unhatch f => some (packR (wordHead last 4 0x025) f)
  | .tresume f => some (packR (wordHead last 4 0x026) f)
  | .qsafe f => some (packR (wordHead last 4 0x027) f)
  | .tfence f => some (packR (wordHead last 4 0x028) f)
  | .tld f => some (packT (wordHead last 5 0x010) f)
  | .tst f => some (packT (wordHead last 5 0x011) f)
  | .tcp f => some (packT (wordHead last 5 0x012) f)
  | .txp f => some (packT (wordHead last 5 0x013) f)
  | .tgat f => some (packT (wordHead last 5 0x014) f)
  | .tfill f => some (packT (wordHead last 5 0x015) f)
  | .tzero f => some (packT (wordHead last 5 0x016) f)
  | .tmma f => some (packT (wordHead last 6 0x010) f)
  | .tgemm f => some (packG (wordHead last 6 0x012) f)
  | .tadd f => some (packT (wordHead last 7 0x010) f)
  | .tmul f => some (packT (wordHead last 7 0x011) f)
  | .tfma f => some (packT (wordHead last 7 0x012) f)
  | .tmax f => some (packT (wordHead last 7 0x013) f)
  | .tact f => some (packT (wordHead last 7 0x014) f)
  | .tscale f => some (packT (wordHead last 7 0x015) f)
  | .tred f => some (packT (wordHead last 7 0x016) f)
  | .tamax f => some (packT (wordHead last 7 0x017) f)
  | .tminmax f => some (packT (wordHead last 7 0x018) f)
  | .tqnt f => some (packT (wordHead last 7 0x019) f)
  | .tdqt f => some (packT (wordHead last 7 0x01A) f)
  | .tcvt f => some (packT (wordHead last 7 0x01B) f)
  | .topt f => some (packT (wordHead last 7 0x01C) f)
  | .fenceComplete _ _ _ => none
  | .conflictNotice _ _ => none
  | .homeRequest _ _ => none
  | .l1Invalidation _ _ => none
  | .copyRun _ _ => none
  | .loftGrant _ _ => none
  | .trapRecordWrite _ => none
  | .sleepEnd _ _ _ => none
  | .regroupPoint _ _ => none
  | .waitWake _ _ _ => none
  | .waitLimit _ => none
  | .unhatchComplete _ => none
  | .engineResultWrite _ _ => none
  | .tlbiVaRange _ _ _ _ _ => none
  | .tlbiAsid _ _ _ => none
  | .tlbiVfStage1 _ _ => none
  | .tlbiIpaRange _ _ _ _ => none
  | .tlbiVfStage2 _ _ => none
  | .tlbiComplete _ => none
  | .framecmd _ _ => none
  | .framegrpWrite _ _ => none
  | .retry _ _ => none
  | .refuse _ _ => none
  | .swapOut _ => none
  | .poolAdd _ _ => none
  | .poolRemove _ _ => none
  | .dumbwaiterMove _ _ _ => none
  | .residencyRelease _ => none
  | .pageMove _ _ _ _ => none
  | .frozenFrameRelease _ => none
  | .moved _ _ => none
  | .pageRetire _ _ _ => none
  | .doorbell _ _ _ => none
  | .qstatResume _ _ => none
  | .launchHead _ => none
  | .spliceDecision _ => none
  | .distributorDecision => none
  | .blockRetire _ => none
  | .launchComplete _ _ => none
  | .loadreq _ _ => none
  | .loaderRun => none
  | .icinv _ => none
  | .preemptEstimator _ _ _ _ => none
  | .preemptSave _ _ _ _ => none
  | .preemptDrain _ _ _ _ => none
  | .preemptDiscard _ _ _ _ => none
  | .crateWrite _ => none
  | .eccDetected _ _ => none
  | .errorClassify _ _ => none
  | .partcfgWrite _ _ => none
  | .worldSwitch _ _ => none
  | .ctrloRead _ _ _ _ => none
  | .ctrhiRead _ _ _ _ => none
  | .scsnap _ _ => none
  | .traceSample _ _ => none
  | .stopBroadcast _ _ => none
  | .dbgattWrite _ _ => none
  | .resumeAll _ => none
  | .resumeOneCrew _ _ => none
  | .step _ _ => none
  | .stopLaunch _ => none
  | .reloadWatchpoints _ => none
  | .attnonce _ _ => none
  | .attestationReport => none
  | .maintEnter => none
  | .maintEffect => none
  | .maintLeave => none
  | .registerWrite _ _ _ _ => none
  | .hostWrite _ _ => none
  | .peerRequest _ _ _ _ => none
  | .ladderPortFailure _ => none
  | .packageUnreachable _ => none
  | .reset => none
  | .fullService => none
  | .thermalThrottle _ => none
  | .thermalShutdown => none
  | .podBarrierTraffic _ _ => none
  | .cxlCacheSnoop _ => none
  | .atticLinkDown _ => none

/-- The instruction that the decoder reads from a word of the opcode table's numbering: a slot word is its bits 63:0,
stored little-endian, E included or not (03 R44); no other width is a slot word's. -/
def decodeTableWord (nbits w : Nat) : Option Instr :=
  if nbits ≤ 64 then (decodeSlot (BitVec.ofNat 64 w)).toOption else none

end Sys2Proof
end

