-- ==== Sys2Proof/Machine/Fp.lean ====
section
/-! DEFINITION. Exact values, the floating formats, and the one rounding of a result (02 R22 to R33; 06 R132 to R134).
A finite value is an exact quotient of natural numbers with a sign, so that every sum and product is exact and only
`roundMag` rounds. -/

namespace Sys2Proof.Machine

/-- An exact value of an element: a NaN, an infinity, or sign and quotient n/d with d not 0 (06 R132). -/
inductive Val where
  | nan
  | inf (neg : Bool)
  | fin (neg : Bool) (n d : Nat)
deriving DecidableEq, Repr

/-- What the largest exponent codes of a format mean (02 R22, R26). -/
inductive FmtTop where
  | ieee      -- infinities and NaNs (FP64, FP32, FP16, BF16, E5M2)
  | nanOnly   -- only the all-ones code is a NaN (E4M3)
  | finite    -- every code is a number (E3M2, E2M3, E2M1)
deriving DecidableEq, Repr

/-- A sign-exponent-mantissa format (02 R22, R26). -/
structure Fmt where
  ebits : Nat
  mbits : Nat
  bias : Nat
  top : FmtTop
deriving DecidableEq, Repr

/-- FP64 (02 R22). -/
def fp64 : Fmt := ⟨11, 52, 1023, .ieee⟩
/-- FP32. -/
def fp32 : Fmt := ⟨8, 23, 127, .ieee⟩
/-- FP16. -/
def fp16 : Fmt := ⟨5, 10, 15, .ieee⟩
/-- BF16. -/
def bf16 : Fmt := ⟨8, 7, 127, .ieee⟩
/-- E4M3 (02 R26). -/
def e4m3 : Fmt := ⟨4, 3, 7, .nanOnly⟩
/-- E5M2. -/
def e5m2 : Fmt := ⟨5, 2, 15, .ieee⟩
/-- E3M2. -/
def e3m2 : Fmt := ⟨3, 2, 3, .finite⟩
/-- E2M3. -/
def e2m3 : Fmt := ⟨2, 3, 1, .finite⟩
/-- E2M1 (02 R27). -/
def e2m1 : Fmt := ⟨2, 1, 1, .finite⟩

/-- The sign bit's place. -/
def Fmt.signBit (f : Fmt) : Nat := f.ebits + f.mbits

/-- The code of infinity, where the format has one. -/
def Fmt.infCode (f : Fmt) : Nat := (2 ^ f.ebits - 1) * 2 ^ f.mbits

/-- The magnitude code of the largest finite value (02 R22, R26). -/
def Fmt.maxCode (f : Fmt) : Nat :=
  match f.top with
  | .ieee => f.infCode - 1
  | .nanOnly => 2 ^ f.signBit - 2
  | .finite => 2 ^ f.signBit - 1

/-- The canonical NaN, 0 in a format without one (02 R23, R30). -/
def Fmt.nanCode (f : Fmt) : Nat :=
  match f.top with
  | .ieee => if f.mbits = 2 then 0x7E else f.infCode + 2 ^ (f.mbits - 1)
  | .nanOnly => 2 ^ f.signBit - 1
  | .finite => 0

/-- A code with a sign put on it. -/
def Fmt.signed (f : Fmt) (neg : Bool) (mag : Nat) : Nat := if neg then mag + 2 ^ f.signBit else mag

/-- The value m * 2^e. -/
def Val.ofScaled (neg : Bool) (m : Nat) (e : Int) : Val :=
  if 0 ≤ e then .fin neg (m * 2 ^ e.toNat) 1 else .fin neg m (2 ^ (-e).toNat)

/-- An integer as a value; zero is positive. -/
def Val.ofInt (x : Int) : Val := .fin (decide (x < 0)) x.natAbs 1

/-- The value a code stands for (02 R22, R26). -/
def Fmt.decode (f : Fmt) (code : Nat) : Val :=
  let neg := natBit code f.signBit
  let mag := code % 2 ^ f.signBit
  let e := mag / 2 ^ f.mbits
  let m := mag % 2 ^ f.mbits
  if f.top = .ieee ∧ e = 2 ^ f.ebits - 1 then (if m = 0 then .inf neg else .nan)
  else if f.top = .nanOnly ∧ mag = 2 ^ f.signBit - 1 then .nan
  else if e = 0 then Val.ofScaled neg m (1 - (f.bias : Int) - f.mbits)
  else Val.ofScaled neg (2 ^ f.mbits + m) ((e : Int) - f.bias - f.mbits)

/-- A code that is subnormal. -/
def Fmt.subnormal (f : Fmt) (code : Nat) : Bool :=
  let mag := code % 2 ^ f.signBit
  decide (mag ≠ 0) && decide (mag < 2 ^ f.mbits)

/-- A code with its magnitude made zero, where it is subnormal and flushing is on (02 R24). -/
def Fmt.flush (f : Fmt) (fz : Bool) (code : Nat) : Nat :=
  if fz && f.subnormal code then (code / 2 ^ f.signBit % 2) * 2 ^ f.signBit else code

/-- The value with its sign changed. -/
def Val.neg : Val → Val
  | .nan => .nan
  | .inf s => .inf (!s)
  | .fin s n d => .fin (!s) n d

/-- The magnitude. -/
def Val.abs : Val → Val
  | .nan => .nan
  | .inf _ => .inf false
  | .fin _ n d => .fin false n d

/-- A NaN. -/
def Val.isNan : Val → Bool
  | .nan => true
  | _ => false

/-- An infinity. -/
def Val.isInf : Val → Bool
  | .inf _ => true
  | _ => false

/-- The sign. -/
def Val.isNeg : Val → Bool
  | .nan => false
  | .inf s => s
  | .fin s _ _ => s

/-- A zero of either sign. -/
def Val.isZero : Val → Bool
  | .fin _ n _ => n = 0
  | _ => false

/-- The exact product; 0 times infinity is a NaN (06 R134). -/
def Val.mul : Val → Val → Val
  | .nan, _ => .nan
  | _, .nan => .nan
  | .inf s, .inf t => .inf (s != t)
  | .inf s, .fin t n _ => if n = 0 then .nan else .inf (s != t)
  | .fin s n _, .inf t => if n = 0 then .nan else .inf (s != t)
  | .fin s n d, .fin t m e => .fin (s != t) (n * m) (d * e)

/-- The signed numerators of two quotients over a common denominator. -/
def commonDen (n d m e : Nat) : Nat × Nat × Nat :=
  if d = e then (n, m, d)
  else if d % e = 0 then (n, m * (d / e), d)
  else if e % d = 0 then (n * (e / d), m, e)
  else (n * e, m * d, d * e)

/-- The exact sum of two finite quantities kept as integer numerator and denominator. -/
def addFrac (a : Int × Nat) (b : Int × Nat) : Int × Nat :=
  let (n, m, d) := commonDen 1 a.2 1 b.2
  (a.1 * n + b.1 * m, d)

/-- The exact sum of finite terms. -/
def sumFrac (ts : List Val) : Int × Nat :=
  ts.foldl (fun acc t =>
    match t with
    | .fin s n d => addFrac acc (if s then -(n : Int) else n, d)
    | _ => acc) (0, 1)

/-- The exact sum of terms, the sign of an exact zero as 06 R134 gives it for the rounding mode (RDN is 3). -/
def Val.sum (rm : Nat) (ts : List Val) : Val :=
  if ts.any Val.isNan then .nan
  else
    let pos := ts.any (fun t => t == .inf false)
    let neg := ts.any (fun t => t == .inf true)
    if pos && neg then .nan
    else if pos then .inf false
    else if neg then .inf true
    else
      let (n, d) := sumFrac ts
      if n = 0 then
        if ts.all Val.isZero && ts.all Val.isNeg then .fin true 0 1
        else if ts.all Val.isZero && ts.all (fun t => !t.isNeg) then .fin false 0 1
        else .fin (rm = 3) 0 1
      else .fin (decide (n < 0)) n.natAbs d

/-- The order of two numbers, -0 below +0; false where either is a NaN (06 R140). -/
def Val.lt : Val → Val → Bool
  | .nan, _ => false
  | _, .nan => false
  | .inf s, .inf t => s && !t
  | .inf s, .fin _ _ _ => s
  | .fin _ _ _, .inf t => !t
  | .fin s n d, .fin t m e =>
    if n = 0 ∧ m = 0 then s && !t
    else
      let a : Int := if s then -((n * e : Nat) : Int) else ((n * e : Nat) : Int)
      let b : Int := if t then -((m * d : Nat) : Int) else ((m * d : Nat) : Int)
      a < b

/-- Numeric equality: both zeros are equal, a NaN equals nothing (06 R142). -/
def Val.eqv (a b : Val) : Bool :=
  !a.isNan && !b.isNan && (a.isZero && b.isZero || (!a.lt b && !b.lt a))

/-- The larger of two by maximumNumber: a NaN gives way to a number (06 R140). -/
def Val.maxNum (a b : Val) : Val := if a.isNan then b else if b.isNan then a else if a.lt b then b else a
/-- The smaller of two by minimumNumber (06 R140). -/
def Val.minNum (a b : Val) : Val := if a.isNan then b else if b.isNan then a else if b.lt a then b else a

/-- The quotient of two finite values; the divisor is not zero. -/
def Val.divFin : Val → Val → Val
  | .fin s n d, .fin t m e => if m = 0 then .nan else .fin (s != t) (n * e) (d * m)
  | _, _ => .nan

/-- ⌊log2 (n/d)⌋ of a positive quotient. -/
def floorLog2 (n d : Nat) : Int :=
  let e : Int := (Nat.log2 n : Int) - Nat.log2 d
  let below := if 0 ≤ e then decide (n < d * 2 ^ e.toNat) else decide (n * 2 ^ (-e).toNat < d)
  if below then e - 1 else e

/-- Whether whole units k with remainder r of den round up in a mode (02 R31, R32); r32 is the random value of SR. -/
def roundsUp (rm : Nat) (neg : Bool) (r32 : Nat) (k r den : Nat) : Bool :=
  match rm with
  | 0 => decide (den < 2 * r) || (decide (2 * r = den) && k % 2 == 1)
  | 1 => false
  | 2 => !neg && decide (r ≠ 0)
  | 3 => neg && decide (r ≠ 0)
  | 4 => decide (den ≤ 2 * r) && decide (r ≠ 0)
  | _ => decide (2 ^ 32 ≤ r * 2 ^ 32 / den + r32)

/-- The magnitude n/d rounded to a whole number (02 R31). -/
def roundWhole (rm : Nat) (neg : Bool) (r32 n d : Nat) : Nat :=
  let k := n / d
  if roundsUp rm neg r32 k (n % d) d then k + 1 else k

/-- The magnitude n/d rounded to a format, as the magnitude code it has if the exponent is unbounded (02 R31, R32). -/
def roundMag (f : Fmt) (rm : Nat) (neg : Bool) (r32 n d : Nat) : Nat :=
  if n = 0 then 0
  else
    let emin : Int := 1 - (f.bias : Int)
    let e := max (floorLog2 n d) emin
    let q := e - f.mbits
    let (n', d') := if 0 ≤ q then (n, d * 2 ^ q.toNat) else (n * 2 ^ (-q).toNat, d)
    let k := roundWhole rm neg r32 n' d'
    (e - emin).toNat * 2 ^ f.mbits + k

/-- A result of an arithmetic instruction: overflow by 02 R25. -/
def fitArith (f : Fmt) (rm r32 : Nat) : Val → Nat
  | .nan => f.nanCode
  | .inf s => f.signed s f.infCode
  | .fin s n d =>
    let c := roundMag f rm s r32 n d
    if c ≤ f.maxCode then f.signed s c
    else if rm = 1 ∨ (rm = 2 ∧ s = true) ∨ (rm = 3 ∧ s = false) then f.signed s f.maxCode
    else f.signed s f.infCode

/-- A conversion's result and whether step 3 of 02 R30 changed it: it saturates. -/
def fitConvert (f : Fmt) (rm r32 : Nat) : Val → Nat × Bool
  | .nan => (f.nanCode, f.top == .finite)
  | .inf s => if f.top = .ieee then (f.signed s f.infCode, false) else (f.signed s f.maxCode, true)
  | .fin s n d =>
    let c := roundMag f rm s r32 n d
    if c ≤ f.maxCode then (f.signed s c, false) else (f.signed s f.maxCode, true)

/-- A conversion to an integer range lo to hi, with its saturation mark; a NaN gives 0 (02 R30; 06 R145). -/
def fitInt (rm r32 : Nat) (lo hi : Int) : Val → Int × Bool
  | .nan => (0, true)
  | .inf s => (if s then lo else hi, true)
  | .fin s n d =>
    let k := roundWhole rm s r32 n d
    let q : Int := if s then -(k : Int) else k
    if q < lo then (lo, true) else if hi < q then (hi, true) else (q, false)

/-- A result clamped to [0, 1]: a NaN, -0 and negatives give +0 (06 R133). -/
def clamp01 (f : Fmt) (code : Nat) : Nat :=
  match f.decode code with
  | .nan => 0
  | v => if v.isNeg then 0 else if (Val.fin false 1 1).lt v then f.bias * 2 ^ f.mbits else code

/-- The 32-bit hash of stochastic rounding (02 R32). -/
def hash32 (x : Word) : Word :=
  let a := x ^^^ (x >>> 16)
  let b := a * 0x7FEB352D
  let c := b ^^^ (b >>> 15)
  let d := c * 0x846CA68B
  d ^^^ (d >>> 16)

/-- The random value of an element: the base, the sequence number and the element index (02 R33). -/
def srRandom (base seq idx : Word) : Nat :=
  (hash32 ((base ^^^ (seq * 0x85EBCA6B)) ^^^ (idx * 0x9E3779B9))).toNat

/-- The integer square root of a number below 4^k, digit by digit. -/
def isqrtAux (x : Nat) : Nat → Nat → Nat
  | 0, r => r
  | k + 1, r => if (r + 2 ^ k) * (r + 2 ^ k) ≤ x then isqrtAux x k (r + 2 ^ k) else isqrtAux x k r

/-- The integer square root. -/
def isqrt (x : Nat) : Nat := isqrtAux x (Nat.log2 x / 2 + 1) 0

/-- The square root of a positive quotient, exact where it is rational, else between its neighbours at 2^-p of its
size: enough for a correct rounding of a shorter format. -/
def sqrtVal (n d : Nat) : Val :=
  let e := floorLog2 n d
  let sh : Int := 160 - (e - e % 2)
  let x := if 0 ≤ sh then n * 2 ^ sh.toNat / d else n / (d * 2 ^ (-sh).toNat)
  let exact := if 0 ≤ sh then n * 2 ^ sh.toNat % d == 0 else n % (d * 2 ^ (-sh).toNat) == 0
  let r := isqrt x
  let r2 := if exact && r * r == x then 2 * r else 2 * r + 1
  Val.ofScaled false r2 (-(sh / 2) - 1)

/-- The FP32 format's value of a register (06 R132). -/
def valOf (f : Fmt) (code : Nat) : Val := f.decode code

/-- Round to nearest even in FP32, overflowing to infinity (02 R38; 07 R173). -/
def fp32Rne (v : Val) : Nat := fitArith fp32 0 0 v

end Sys2Proof.Machine
end

