-- ==== Sys2Proof/Machine/Flags.lean ====
section
/-! DEFINITION. Flags: the packing NZCV of a cc or lf register (05 R103), the guard conditions (03 R45), and every flag
rule of unit A and Q (05 R107; 08 R196), of floating point (06 R135) and of the conversions (06 R147). -/

namespace Sys2Proof.Machine

/-- A cc or lf register: N, Z, C, V from bit 3 down (05 R103). -/
abbrev Flags := BitVec 4

/-- Flags put together (05 R103). -/
def mkFlags (n z c v : Bool) : Flags := BitVec.ofBool n ++ BitVec.ofBool z ++ BitVec.ofBool c ++ BitVec.ofBool v

/-- N. -/
def flagN (f : Flags) : Bool := f.getLsbD 3
/-- Z. -/
def flagZ (f : Flags) : Bool := f.getLsbD 2
/-- C. -/
def flagC (f : Flags) : Bool := f.getLsbD 1
/-- V. -/
def flagV (f : Flags) : Bool := f.getLsbD 0

/-- The conditions of 03 R45. -/
def condHolds (gk : Nat) (f : Flags) : Bool :=
  match gk with
  | 0 => true
  | 1 => flagZ f
  | 2 => !flagZ f
  | 3 => flagN f != flagV f
  | 4 => flagN f == flagV f
  | 5 => !flagZ f && flagN f == flagV f
  | 6 => flagZ f || flagN f != flagV f
  | 7 => !flagC f
  | 8 => flagC f
  | 9 => flagC f && !flagZ f
  | 10 => !flagC f || flagZ f
  | 11 => flagN f
  | 12 => !flagN f
  | 13 => flagV f
  | 14 => !flagV f
  | _ => flagZ f && flagC f && flagV f

/-- N and Z of a fitted w-bit result with the C and V given (05 R107). -/
def flagsOf (w r : Nat) (c v : Bool) : Flags := mkFlags (natBit r (w - 1)) (r % 2 ^ w == 0) c v

/-- Whether an integer lies outside the signed range of w bits. -/
def outSigned (w : Nat) (x : Int) : Bool := decide (x < -(2 ^ (w - 1) : Nat)) || decide (((2 ^ (w - 1) : Nat) : Int) ≤ x)

/-- Whether an integer lies outside the unsigned range of w bits. -/
def outUnsigned (w : Nat) (x : Int) : Bool := decide (x < 0) || decide (((2 ^ w : Nat) : Int) ≤ x)

/-- Carry and overflow of a sum with a carry in (05 R107, IADD and IADC). -/
def addCV (w a b cin : Nat) : Bool × Bool :=
  (decide (2 ^ w ≤ a + b + cin), outSigned w (toSigned w a + toSigned w b + cin))

/-- Carry (1 = no borrow) and overflow of a difference with a borrow in (05 R107, ISUB, ISBC, ICMP, ICMPI). -/
def subCV (w a b bin : Nat) : Bool × Bool :=
  (decide (b + bin ≤ a), outSigned w (toSigned w a - toSigned w b - bin))

/-- The flags of a floating relation: less, equal, greater or unordered (06 R135). -/
def relFlags (a b : Val) : Flags :=
  if a.isNan || b.isNan then 0b0111#4
  else if a.eqv b then 0b0110#4
  else if a.lt b then 0b1000#4
  else 0b0010#4

/-- The flags of a written floating result against +0 (06 R135). -/
def resultFlags (f : Fmt) (code : Nat) : Flags := relFlags (f.decode code) (.fin false 0 1)

/-- The flags of a conversion: below zero, zero, NaN, saturated (06 R147). -/
def convFlags (v : Val) (sat : Bool) : Flags :=
  mkFlags (v.isNeg && !v.isZero && !v.isNan) v.isZero v.isNan sat

end Sys2Proof.Machine
end

