-- ==== Sys2Proof/Machine/Maps.lean ====
section
/-! DEFINITION. Sparse data as canonical association lists: keys strictly rising, so that equal contents are equal data.
`get` and `set` work against a stated default, which `set` never lists; `find?` and `insert` keep records. -/

namespace Sys2Proof.Machine

/-- A sparse map from natural numbers, kept with strictly rising keys. -/
abbrev Map (α : Type) := List (Nat × α)

/-- The entry at a key. -/
def Map.find? {α : Type} : Map α → Nat → Option α
  | [], _ => none
  | (j, a) :: r, k => if j = k then some a else Map.find? r k

/-- The map with an entry put in, in place of any entry at its key. -/
def Map.insert {α : Type} : Map α → Nat → α → Map α
  | [], k, a => [(k, a)]
  | (j, b) :: r, k, a =>
    if k < j then (k, a) :: (j, b) :: r
    else if k = j then (k, a) :: r
    else (j, b) :: Map.insert r k a

/-- The map without any entry at a key. -/
def Map.erase {α : Type} : Map α → Nat → Map α
  | [], _ => []
  | (j, b) :: r, k => if j = k then Map.erase r k else (j, b) :: Map.erase r k

/-- What the map holds at a key, the default where nothing is listed. -/
def Map.get {α : Type} (d : α) (m : Map α) (k : Nat) : α := (Map.find? m k).getD d

/-- The map holding a value at a key; the default is never listed. -/
def Map.set {α : Type} [DecidableEq α] (d : α) (m : Map α) (k : Nat) (a : α) : Map α :=
  if a = d then Map.erase m k else Map.insert m k a

/-- The entry at a key changed by a function; nothing where the key is not listed. -/
def Map.modify {α : Type} : Map α → Nat → (α → α) → Map α
  | [], _, _ => []
  | (j, b) :: r, k, f => if j = k then (j, f b) :: r else (j, b) :: Map.modify r k f

/-- Every entry changed by a function of its key and value. -/
def Map.mapVals {α β : Type} (f : Nat → α → β) : Map α → Map β
  | [] => []
  | (j, b) :: r => (j, f j b) :: Map.mapVals f r

/-- The keys listed. -/
def Map.keys {α : Type} (m : Map α) : List Nat := m.map Prod.fst

/-- The first entry that meets a test. -/
def Map.findBy {α : Type} (p : Nat → α → Bool) : Map α → Option (Nat × α)
  | [] => none
  | (j, b) :: r => if p j b then some (j, b) else Map.findBy p r

/-- Every key listed lies above a bound and the keys rise. -/
def Map.risesFrom {α : Type} : Option Nat → Map α → Bool
  | _, [] => true
  | none, (j, _) :: r => Map.risesFrom (some j) r
  | some b, (j, _) :: r => decide (b < j) && Map.risesFrom (some j) r

/-- The keys rise strictly. -/
def Map.rises {α : Type} (m : Map α) : Bool := Map.risesFrom none m

/-- Canonical against a default: the keys rise strictly and no entry equals the default. -/
def Map.wf {α : Type} [DecidableEq α] (d : α) (m : Map α) : Bool :=
  Map.rises m && m.all (fun e => decide (e.2 ≠ d))

/-- The smallest key not listed at or above a bound, found within as many tries as there are entries. -/
def Map.freeKey {α : Type} (m : Map α) : Nat :=
  m.foldl (fun n e => if n ≤ e.1 then e.1 + 1 else n) 0

/-- A run of bytes read from a map of bytes, lowest address first. -/
def Map.bytes (d : Byte) (m : Map Byte) (a : Nat) (n : Nat) : List Byte :=
  (List.range n).map (fun i => Map.get d m (a + i))

/-- A run of bytes written, lowest address first. -/
def Map.setBytes (d : Byte) (m : Map Byte) (a : Nat) : List Byte → Map Byte
  | [] => m
  | b :: bs => Map.setBytes d (Map.set d m a b) (a + 1) bs

/-- A run of bytes made to hold the default. -/
def Map.clearRange {α : Type} (m : Map α) (a n : Nat) : Map α :=
  m.filter (fun e => decide (e.1 < a) || decide (a + n ≤ e.1))

end Sys2Proof.Machine
end

