-- ==== Sys2Proof/Machine/IntOps.lean ====
section
/-! DEFINITION. What unit A computes from its operands (05 R105 to R130), apart from where they come from: every
function takes operand patterns as natural numbers and gives the destination's pattern and the flags. -/

namespace Sys2Proof.Machine

/-- A result: the destination's bits and the flags that CW = 1 writes. -/
structure AluOut where
  val : Nat
  flags : Flags
deriving DecidableEq, Repr

/-- Element count and width of a W code (05 R105). -/
def elems (w : BitVec 2) : Nat × Nat :=
  match w.toNat with
  | 0 => (1, 32)
  | 1 => (1, 64)
  | 2 => (2, 16)
  | _ => (4, 8)

/-- Element e of width w, signed if s (05 R106). -/
def elem (v e w : Nat) (s : Bool) : Int :=
  if s then toSigned w (v >>> (w * e)) else (((v >>> (w * e)) % 2 ^ w : Nat) : Int)

/-- A result of width w from an exact integer (05 R106). -/
def fit (x : Int) (w : Nat) (s sat : Bool) : Nat :=
  if !sat then wrapNat w x
  else if s then wrapNat w (clampInt x (-(2 ^ (w - 1) : Nat)) ((2 ^ (w - 1) : Nat) - 1))
  else wrapNat w (clampInt x 0 ((2 ^ w : Nat) - 1))

/-- The elements put side by side, element 0 lowest (05 R106). -/
def putElems (w : Nat) : List Nat → Nat
  | [] => 0
  | x :: xs => x % 2 ^ w + 2 ^ w * putElems w xs

/-- An element-wise operation of exact integers, fitted (05 R110). -/
def mapElems (wc : BitVec 2) (s sat : Bool) (op : Nat → Int) : Nat :=
  let (ne, w) := elems wc
  putElems w ((List.range ne).map (fun e => fit (op e) w s sat))

/-- IADD (05 R110). -/
def aluIadd (w : BitVec 2) (s sat : Bool) (a b : Nat) : AluOut :=
  let n := (elems w).2
  let r := mapElems w s sat (fun e => elem a e n s + elem b e n s)
  let cv := addCV n (a % 2 ^ n) (b % 2 ^ n) 0
  ⟨r, flagsOf n r cv.1 cv.2⟩

/-- ISUB (05 R110). -/
def aluIsub (w : BitVec 2) (s sat : Bool) (a b : Nat) : AluOut :=
  let n := (elems w).2
  let r := mapElems w s sat (fun e => elem a e n s - elem b e n s)
  let cv := subCV n (a % 2 ^ n) (b % 2 ^ n) 0
  ⟨r, flagsOf n r cv.1 cv.2⟩

/-- IADC (05 R111). -/
def aluIadc (w : BitVec 2) (cin : Bool) (a b : Nat) : AluOut :=
  let n := (elems w).2
  let r := (a % 2 ^ n + b % 2 ^ n + bit01 cin) % 2 ^ n
  let cv := addCV n (a % 2 ^ n) (b % 2 ^ n) (bit01 cin)
  ⟨r, flagsOf n r cv.1 cv.2⟩

/-- ISBC (05 R111). -/
def aluIsbc (w : BitVec 2) (cin : Bool) (a b : Nat) : AluOut :=
  let n := (elems w).2
  let r := wrapNat n (((a % 2 ^ n : Nat) : Int) - ((b % 2 ^ n : Nat) : Int) - (bit01 !cin : Nat))
  let cv := subCV n (a % 2 ^ n) (b % 2 ^ n) (bit01 !cin)
  ⟨r, flagsOf n r cv.1 cv.2⟩

/-- Flags of a multiply: C and V both say that the exact result does not fit as S reads it (05 R107). -/
def mulFlags (w r : Nat) (s : Bool) (x : Int) : Flags :=
  let o := if s then outSigned w x else outUnsigned w x
  flagsOf w r o o

/-- IMUL (05 R110). -/
def aluImul (w : BitVec 2) (s sat : Bool) (a b : Nat) : AluOut :=
  let n := (elems w).2
  let r := mapElems w s sat (fun e => elem a e n s * elem b e n s)
  ⟨r, mulFlags n r s (elem a 0 n s * elem b 0 n s)⟩

/-- IMULH: the high half of the exact product (05 R110). -/
def aluImulh (w : BitVec 2) (s : Bool) (a b : Nat) : AluOut :=
  let n := (elems w).2
  let r := mapElems w s false (fun e => elem a e n s * elem b e n s / (2 ^ n : Nat))
  ⟨r, flagsOf n r false false⟩

/-- IMAD (05 R113). -/
def aluImad (w : BitVec 2) (s sat : Bool) (a b c : Nat) : AluOut :=
  let n := (elems w).2
  let x := fun e => elem a e n s * elem b e n s + elem c e n s
  let r := mapElems w s sat x
  ⟨r, mulFlags n r s (x 0)⟩

/-- IMADW: 32-bit factors, a 64-bit sum (05 R113). -/
def aluImadw (s sat : Bool) (a b c : Nat) : AluOut :=
  let x := elem a 0 32 s * elem b 0 32 s + elem c 0 64 s
  let r := fit x 64 s sat
  ⟨r, mulFlags 64 r s x⟩

/-- IDIV, quotient or remainder, truncating toward zero (05 R114). -/
def aluIdiv (w : BitVec 2) (s sat rem : Bool) (a b : Nat) : AluOut :=
  let n := (elems w).2
  let x := elem a 0 n s
  let y := elem b 0 n s
  let least : Int := -(2 ^ (n - 1) : Nat)
  let past := s && decide (x = least) && decide (y = -1)
  let (q, m) : Int × Int :=
    if y = 0 then (if s then -1 else (2 ^ n : Nat) - 1, x)
    else if past then (if sat then (2 ^ (n - 1) : Nat) - 1 else least, 0)
    else (x.tdiv y, x.tmod y)
  let r := wrapNat n (if rem then m else q)
  ⟨r, flagsOf n r false (decide (y = 0) || past)⟩

/-- IMIN and IMAX (05 R110). -/
def aluMinMax (w : BitVec 2) (s isMax : Bool) (a b : Nat) : AluOut :=
  let n := (elems w).2
  let pick := fun e => if isMax then max (elem a e n s) (elem b e n s) else min (elem a e n s) (elem b e n s)
  let r := mapElems w s false pick
  ⟨r, flagsOf n r false false⟩

/-- IABS: A read signed, fitted signed (05 R115). -/
def aluIabs (w : BitVec 2) (sat : Bool) (a : Nat) : AluOut :=
  let n := (elems w).2
  let r := mapElems w true sat (fun e => ((elem a e n true).natAbs : Int))
  ⟨r, flagsOf n r false (decide (elem a 0 n true = -(2 ^ (n - 1) : Nat)))⟩

/-- The sum of an element-wise term over a word. -/
def sumElems (ne : Nat) (t : Nat → Int) : Int := ((List.range ne).map t).foldl (· + ·) 0

/-- IDP4: a dot product of packed elements added to a signed accumulator (05 R116). -/
def aluIdp4 (w : BitVec 2) (sat sa sb : Bool) (a b c : Nat) : AluOut :=
  let (ne, n) := elems w
  let x := elem c 0 32 true + sumElems ne (fun e => elem a e n sa * elem b e n sb)
  let r := fit x 32 true sat
  ⟨r, flagsOf 32 r false (outSigned 32 x)⟩

/-- ISAD: absolute differences added to an unsigned accumulator (05 R116). -/
def aluIsad (w : BitVec 2) (s sat : Bool) (a b c : Nat) : AluOut :=
  let (ne, n) := elems w
  let x := elem c 0 32 false + sumElems ne (fun e => ((elem a e n s - elem b e n s).natAbs : Int))
  let r := fit x 32 false sat
  ⟨r, flagsOf 32 r false (decide ((2 ^ 32 : Int) ≤ x))⟩

/-- The bitwise operations 0 and, 1 or, 2 xor, 3 andn (05 R117). -/
def logicOp (op a b : Nat) (n : Nat) : Nat :=
  match op with
  | 0 => a &&& b
  | 1 => a ||| b
  | 2 => a ^^^ b
  | _ => a &&& (2 ^ n - 1 - b % 2 ^ n)

/-- AND, OR, XOR, ANDN (05 R117). -/
def aluLogic (op : Nat) (w : BitVec 2) (a b : Nat) : AluOut :=
  let n := (elems w).2
  let r := logicOp op (a % 2 ^ n) (b % 2 ^ n) n % 2 ^ n
  ⟨r, flagsOf n r false false⟩

/-- LOP3's bits by its truth table, from bit 31 down (05 R117). -/
def lop3Bits (table a b c : Nat) : Nat → Nat
  | 0 => 0
  | i + 1 =>
    let k := 4 * ((a >>> i) % 2) + 2 * ((b >>> i) % 2) + (c >>> i) % 2
    ((table >>> k) % 2) * 2 ^ i + lop3Bits table a b c i

/-- LOP3 (05 R117). -/
def aluLop3 (table a b c : Nat) : AluOut :=
  let r := lop3Bits table a b c 32
  ⟨r, flagsOf 32 r false false⟩

/-- One element of a shift: its result and its C flag; 0 SHL, 1 SHR, 2 SAR, 3 ROT (05 R118). -/
def shiftElem (op w ua n : Nat) : Nat × Bool :=
  match op with
  | 0 => (if n < w then (ua <<< n) % 2 ^ w else 0, decide (1 ≤ n) && decide (n ≤ w) && natBit ua (w - n))
  | 1 => (if n < w then ua >>> n else 0, decide (1 ≤ n) && decide (n ≤ w) && natBit ua (n - 1))
  | 2 =>
    let sa := toSigned w ua
    (if n < w then wrapNat w (sa / (2 ^ n : Nat)) else if sa < 0 then 2 ^ w - 1 else 0,
      if n = 0 then false else if n ≤ w then natBit ua (n - 1) else decide (sa < 0))
  | _ =>
    let k := n % w
    let r := ((ua <<< k) % 2 ^ w) ||| (ua >>> (w - k))
    (if k = 0 then ua else r, decide (k ≠ 0) && natBit r 0)

/-- SHL, SHR, SAR, ROT; the amount of element e is element e of B plus the immediate, at W = 01 all of B (05 R118). -/
def aluShift (op : Nat) (w : BitVec 2) (sub a b : Nat) : AluOut :=
  let (ne, n) := elems w
  let amount := fun e => (if w = 1 then b % 2 ^ 32 else (b >>> (n * e)) % 2 ^ n) + sub
  let one := fun e => shiftElem op n ((a >>> (n * e)) % 2 ^ n) (amount e)
  let r := putElems n ((List.range ne).map (fun e => (one e).1))
  ⟨r, flagsOf n r (one 0).2 false⟩

/-- SHF: a funnel shift of A above B (05 R119). -/
def aluShf (x a b c : Nat) : AluOut :=
  let n0 := c + x % 32
  let n := if natBit x 5 then min n0 32 else n0 % 32
  let v := a * 2 ^ 32 + b
  let r := if natBit x 6 then (v >>> n) % 2 ^ 32 else ((v <<< n) % 2 ^ 64) >>> 32
  ⟨r, flagsOf 32 r false false⟩

/-- BFX: a field extracted (05 R120). -/
def aluBfx (w : BitVec 2) (s : Bool) (a b : Nat) : AluOut :=
  let n := (elems w).2
  let pos := b % 256
  let len := min (b / 256 % 256) n
  let f := wrapNat len (elem a 0 n s / (2 ^ pos : Nat))
  let r := if len = 0 then 0 else if s then wrapNat n (toSigned len f) else f
  ⟨r, flagsOf n r false false⟩

/-- BFI: a field inserted (05 R120). -/
def aluBfi (w : BitVec 2) (a b c : Nat) : AluOut :=
  let n := (elems w).2
  let pos := b % 256
  let len := min (b / 256 % 256) n
  let m := ((2 ^ len - 1) <<< pos) % 2 ^ n
  let r := ((c % 2 ^ n) &&& (2 ^ n - 1 - m)) ||| (((a <<< pos) % 2 ^ n) &&& m)
  ⟨r, flagsOf n r false false⟩

/-- POPC into a single register (05 R121); its flags are of the 32-bit result. -/
def aluPopc (w : BitVec 2) (a : Nat) : AluOut :=
  let r := popcount (elems w).2 a
  ⟨r, flagsOf 32 r false false⟩

/-- CLZ into a single register (05 R121). -/
def aluClz (w : BitVec 2) (a : Nat) : AluOut :=
  let n := (elems w).2
  let x := a % 2 ^ n
  let r := if x = 0 then n else n - 1 - Nat.log2 x
  ⟨r, flagsOf 32 r false false⟩

/-- BREV (05 R121). -/
def aluBrev (w : BitVec 2) (a : Nat) : AluOut :=
  let n := (elems w).2
  let r := revBits n a
  ⟨r, flagsOf n r false false⟩

/-- PRMT: bytes of B above A chosen by the selectors of C (05 R121). -/
def aluPrmt (a b c : Nat) : AluOut :=
  let v := a % 2 ^ 32 + (b % 2 ^ 32) * 2 ^ 32
  let byte := fun i =>
    let s := (c >>> (4 * i)) % 16
    let y := (v >>> (8 * (s % 8))) % 256
    if s < 8 then y else if 128 ≤ y then 255 else 0
  let r := putElems 8 ((List.range 4).map byte)
  ⟨r, flagsOf 32 r false false⟩

/-- ICMP and ICMPI: the flags of a difference (05 R122). -/
def aluIcmp (n a b : Nat) : AluOut :=
  let r := wrapNat n (((a % 2 ^ n : Nat) : Int) - ((b % 2 ^ n : Nat) : Int))
  let cv := subCV n (a % 2 ^ n) (b % 2 ^ n) 0
  ⟨r, flagsOf n r cv.1 cv.2⟩

/-- ITST: the flags of a conjunction (05 R122). -/
def aluItst (w : BitVec 2) (a b : Nat) : AluOut := aluLogic 0 w a b

/-- MOV (05 R124). -/
def aluMov (w : BitVec 2) (a : Nat) : AluOut :=
  let n := (elems w).2
  let r := a % 2 ^ n
  ⟨r, flagsOf n r false false⟩

/-- LEA (05 R125). -/
def aluLea (w : BitVec 2) (s : Bool) (sub a b : Nat) : AluOut :=
  let n := (elems w).2
  let ext : Int := if w = 1 then elem b 0 32 s else ((b % 2 ^ 32 : Nat) : Int)
  let r := wrapNat n (((a % 2 ^ n : Nat) : Int) + ext * (2 ^ sub : Nat))
  ⟨r, flagsOf n r false false⟩

/-- A sign-extended 28-bit immediate as a 32-bit pattern (03 R47). -/
def imm32 (imm : BitVec 28) : Nat := wrapNat 32 imm.toInt

/-- IADDI (05 R112). -/
def aluIaddi (imm : BitVec 28) (a : Nat) : Nat := wrapNat 32 ((a : Int) + imm.toInt)

/-- LIH (05 R124). -/
def aluLih (imm : BitVec 28) (a : Nat) : Nat := imm.toNat % 2 ^ 16 * 2 ^ 16 + a % 2 ^ 16

/-- The partner lane of a SHFL, where its segment holds one (05 R128): mode 0 idx, 1 up, 2 down, 3 xor. -/
def shflPartner (mode width l b c : Nat) : Option Nat :=
  let ws := if 0 < c ∧ c ≤ width ∧ c = 2 ^ Nat.log2 c then c else width
  let base := l - l % ws
  match mode with
  | 0 => some (base + b % ws)
  | 1 => if b ≤ l - base then some (l - b) else none
  | 2 => if l + b < base + ws then some (l + b) else none
  | _ => if b < ws then some (l ^^^ b) else none

end Sys2Proof.Machine
end

