-- ==== Sys2Proof/Config.lean ====
section
/-! DEFINITION. What the manual leaves open: free values, opaque constants with no body, applied to the operands they
depend on or to a counter of State, so that no proof can lean on a value; and what this implementation fixes. -/

namespace Sys2Proof

/-- A boundedly undefined byte (00 R3), applied to a counter of State (log 8, DESIGN CHOICE). -/
opaque Config.freeByte : Nat → Byte

/-- A boundedly undefined 32-bit value (00 R3), applied to a counter of State (log 8, DESIGN CHOICE). -/
opaque Config.freeWord : Nat → Word

/-- What a part returns for RSQ, EX2, LG2, SIN, COS, TANH (0 to 5) on an FP32 argument; used only where it lies within
the bound of 06 R149 (log 7, DESIGN CHOICE). -/
opaque Config.specialCandidate : Nat → Word → Word

/-- What a part computes, before the fit, for the activations gelu, silu, sigm (1, 2, 5) and for exp2, tanh (3, 4) of
an FP32 argument, as numerator and denominator - 1; used only where it lies within the bound of 10 R247 (log 7, DESIGN CHOICE). -/
opaque Config.activationCandidate : Nat → Word → Int × Nat

/-- The `.live` list of a native safe point, as a bitmap, by the image and the point's offset in the native code: no section of
15 R350 holds the lists, so where an image has them is left free (log 28, DESIGN CHOICE). -/
opaque Config.nativeLive : List Byte → Nat → Nat

/-- Which bundle of the code translated from Nyone stands for a native one, by the native one's offset: 15 R350 relocates a code
label to it and does not say which it is (log 82, DESIGN CHOICE). -/
opaque Config.nyoneLabel : Nat → Nat

/-- Counts that hang on the L2's capacity, on its fills and on waits (17 R419), none of which the model holds: by which count it
is, the clock and the request's address (log 40, DESIGN CHOICE). -/
opaque Config.freeTally : Nat → Nat → Nat → Nat

/-- The SHA-256 digests of the firmware of dies 0 to 5 and of the loader (6), byte by byte (18 R442; log 11, DESIGN CHOICE). -/
opaque Config.firmwareDigest : Nat → Nat → Byte

/-- The signature of an attestation report over its first 256 bytes: an ECDSA signature under a key that never leaves
die 0, with a number of its own for each report (18 R442; log 11, DESIGN CHOICE). -/
opaque Config.signature : Nat → List Byte → Nat → Byte

end Sys2Proof
end

