-- ==== Sys2Proof/Machine/Transc.lean ====
section
/-! DEFINITION. The special functions (06 R149) and activations (10 R247). Where the manual gives only a bound, the
result is a part's own value (Config), taken where it lies within the bound of a rational approximation whose error is
below 2^-90 of it, and the approximation itself, rounded, where it does not (log 7, DESIGN CHOICE). -/

namespace Sys2Proof.Machine

/-- ⌊π * 2^400⌋. -/
def piFix : Nat := 0x3243f6a8885a308d313198a2e03707344a4093822299f31d0082efa98ec4e6c89452821e638d01377be5466cf34e90c6cc0ac
/-- ⌊ln 2 * 2^160⌋. -/
def ln2Fix : Nat := 0xb17217f7d1cf79abc9e3b39803f2f6af40f34326

/-- The fixed-point unit of the approximations. -/
def fixOne : Int := 2 ^ 160

/-- The terms t + t*y/k + t*y*y/(k(k+1)) + ... of an exponential series, n of them. -/
def expTerms (y : Int) : Nat → Nat → Int → Int
  | 0, _, t => t
  | n + 1, k, t => t + expTerms y n (k + 1) (t * y / (fixOne * k))

/-- e^y for a fixed-point y of magnitude at most ln 2. -/
def expFix (y : Int) : Int := expTerms y 48 1 fixOne

/-- e^-x for x = n/d at least 0, as a fixed-point number. -/
def expNeg (n d : Nat) : Int :=
  if 128 * d ≤ n then 0
  else
    let y := n * 2 ^ 160 / d
    let i := y / ln2Fix
    expFix (-((y - i * ln2Fix : Nat) : Int)) / 2 ^ i

/-- 2^x for x = n/d with sign, as a value with about 150 good bits. -/
def exp2Val (neg : Bool) (n d : Nat) : Int × Nat :=
  let a : Int := if neg then -(n : Int) else n
  let i := a / (d : Int)
  let f := ((a - i * d) * fixOne / d) * ln2Fix / fixOne
  let m := expFix f
  if 0 ≤ i then (m * 2 ^ i.toNat, 2 ^ 160) else (m, 2 ^ (160 + (-i).toNat))

/-- The odd series z + z^3/3 + z^5/5 + ... in fixed point, n terms. -/
def atanhTerms (z2 : Int) : Nat → Nat → Int → Int
  | 0, _, _ => 0
  | n + 1, k, t => t / k + atanhTerms z2 n (k + 2) (t * z2 / fixOne)

/-- log2 of n/d greater than 0. -/
def log2Val (n d : Nat) : Int × Nat :=
  let e := floorLog2 n d
  let (n', d') := if 0 ≤ e then (n, d * 2 ^ e.toNat) else (n * 2 ^ (-e).toNat, d)
  let (n'', e') := if 3 * d' < 2 * n' then (n', e + 1) else (n', e)
  let d'' := if 3 * d' < 2 * n' then 2 * d' else d'
  let z := ((n'' : Int) - d'') * fixOne / ((n'' + d'' : Nat) : Int)
  let l := 2 * atanhTerms (z * z / fixOne) 60 1 z
  (e' * fixOne + l * fixOne / ln2Fix, 2 ^ 160)

/-- The alternating series of sine or cosine: t - t*r2/(k(k+1)) + ... . -/
def trigTerms (r2 : Int) : Nat → Nat → Int → Int
  | 0, _, t => t
  | n + 1, k, t => t - trigTerms r2 n (k + 2) (t * r2 / (fixOne * (k * (k + 1))))

/-- sin (r) of a fixed-point r below 2. -/
def sinFix (r : Int) : Int := trigTerms (r * r / fixOne) 30 2 r
/-- cos (r) of a fixed-point r below 2. -/
def cosFix (r : Int) : Int := trigTerms (r * r / fixOne) 30 1 fixOne

/-- The quadrant of n/d at least 0 and the rest in fixed point, argument reduction exact (06 R149). -/
def reduceTrig (n d : Nat) : Nat × Int :=
  let x := n * 2 ^ 400 / d
  let k := 2 * x / piFix
  (k % 4, ((x : Int) - (k * piFix / 2 : Nat)) / 2 ^ 240)

/-- sin (n/d), n/d at least 0. -/
def sinVal (n d : Nat) : Int × Nat :=
  let (q, r) := reduceTrig n d
  (match q with
    | 0 => sinFix r
    | 1 => cosFix r
    | 2 => -sinFix r
    | _ => -cosFix r, 2 ^ 160)

/-- cos (n/d), n/d at least 0. -/
def cosVal (n d : Nat) : Int × Nat :=
  let (q, r) := reduceTrig n d
  (match q with
    | 0 => cosFix r
    | 1 => -sinFix r
    | 2 => -cosFix r
    | _ => sinFix r, 2 ^ 160)

/-- tanh (n/d), n/d at least 0. -/
def tanhVal (n d : Nat) : Int × Nat :=
  let t := expNeg (2 * n) d
  (fixOne - t, (fixOne + t).toNat)

/-- 1/(1 + e^-x) of a signed quotient. -/
def sigmVal (neg : Bool) (n d : Nat) : Int × Nat :=
  let t := expNeg n d
  (if neg then t else fixOne, (fixOne + t).toNat)

/-- The value of a signed quotient. -/
def Val.ofFrac (x : Int × Nat) : Val := .fin (decide (x.1 < 0)) x.1.natAbs x.2

/-- The signed quotient of a finite value. -/
def Val.toFrac : Val → Int × Nat
  | .fin s n d => (if s then -(n : Int) else n, d)
  | _ => (0, 1)

/-- |a - b| ≤ bn/bd. -/
def fracNear (a b : Int × Nat) (bn bd : Nat) : Bool :=
  decide ((a.1 * b.2 - b.1 * a.2).natAbs * bd ≤ bn * a.2 * b.2)

/-- The size of one unit in the last place of FP32 at a value, as numerator and denominator (06 R149). -/
def ulp32 (x : Int × Nat) : Nat × Nat :=
  if x.1 = 0 then (1, 2 ^ 149)
  else
    let q := max (floorLog2 x.1.natAbs x.2 - 23) (-149)
    if 0 ≤ q then (2 ^ q.toNat, 1) else (1, 2 ^ (-q).toNat)

/-- The part's FP32 candidate where it lies within the bound of the approximation, else the approximation rounded. -/
def pickFp32 (cand : Word) (ap : Int × Nat) (bn bd : Nat) : Val :=
  match fp32.decode cand.toNat with
  | .fin s n d =>
    if fracNear (Val.toFrac (.fin s n d)) ap bn bd then .fin s n d
    else fp32.decode (fitArith fp32 0 0 (Val.ofFrac ap))
  | _ => fp32.decode (fitArith fp32 0 0 (Val.ofFrac ap))

/-- The FP32 code of a positive quotient that FP32 holds. -/
def fp32Word (neg : Bool) (n d : Nat) : Word := BitVec.ofNat 32 (fitArith fp32 0 0 (.fin neg n d))

/-- RSQ (06 R149): within 1 ulp. -/
def fnRsq : Val → Val
  | .nan => .nan
  | .inf s => if s then .nan else .fin false 0 1
  | .fin s n d =>
    if n = 0 then .inf s
    else if s then .nan
    else
      let ap := (sqrtVal d n).toFrac
      let u := ulp32 ap
      pickFp32 (Config.specialCandidate 0 (fp32Word s n d)) ap u.1 u.2

/-- A quotient that is a whole number. -/
def isWhole (n d : Nat) : Bool := n % d == 0

/-- EX2 (06 R149): within 2 ulp, exact for integers from -149 to 127. -/
def fnEx2 : Val → Val
  | .nan => .nan
  | .inf s => if s then .fin false 0 1 else .inf false
  | .fin s n d =>
    if !s && decide (128 * d ≤ n) then .inf false
    else if s && decide (150 * d < n) then .fin false 0 1
    else if isWhole n d && !(s && n / d == 150) then
      Val.ofScaled false 1 (if s then -((n / d : Nat) : Int) else (n / d : Nat))
    else
      let ap := exp2Val s n d
      let u := ulp32 ap
      pickFp32 (Config.specialCandidate 1 (fp32Word s n d)) ap (2 * u.1) u.2

/-- LG2 (06 R149): exact for powers of two; within 2^-22 on [0.5, 2], within 2 ulp elsewhere. -/
def fnLg2 : Val → Val
  | .nan => .nan
  | .inf s => if s then .nan else .inf false
  | .fin s n d =>
    if n = 0 then .inf true
    else if s then .nan
    else
      let e := floorLog2 n d
      if (if 0 ≤ e then n == d * 2 ^ e.toNat else n * 2 ^ (-e).toNat == d) then Val.ofInt e
      else
        let ap := log2Val n d
        if decide (d ≤ 2 * n) && decide (n ≤ 2 * d) then
          pickFp32 (Config.specialCandidate 2 (fp32Word s n d)) ap 1 (2 ^ 22)
        else
          let u := ulp32 ap
          pickFp32 (Config.specialCandidate 2 (fp32Word s n d)) ap (2 * u.1) u.2

/-- SIN (06 R149): odd to the bit, within 2^-21. -/
def fnSin : Val → Val
  | .nan => .nan
  | .inf _ => .nan
  | .fin s n d =>
    if n = 0 then .fin s 0 1
    else
      let r := pickFp32 (Config.specialCandidate 3 (fp32Word false n d)) (sinVal n d) 1 (2 ^ 21)
      if s then r.neg else r

/-- COS (06 R149): even to the bit, within 2^-21. -/
def fnCos : Val → Val
  | .nan => .nan
  | .inf _ => .nan
  | .fin _ n d =>
    if n = 0 then .fin false 1 1
    else pickFp32 (Config.specialCandidate 4 (fp32Word false n d)) (cosVal n d) 1 (2 ^ 21)

/-- TANH (06 R149): odd to the bit, within 2^-22, ±1 from 9 on. -/
def fnTanh : Val → Val
  | .nan => .nan
  | .inf s => .fin s 1 1
  | .fin s n d =>
    if n = 0 then .fin s 0 1
    else if 9 * d ≤ n then .fin s 1 1
    else
      let r := pickFp32 (Config.specialCandidate 5 (fp32Word false n d)) (tanhVal n d) 1 (2 ^ 22)
      if s then r.neg else r

/-- RCP's exact quotient (06 R149). -/
def fnRcp : Val → Val
  | .nan => .nan
  | .inf s => .fin s 0 1
  | .fin s n d => if n = 0 then .inf s else .fin s d n

/-- SQRT's value, correctly rounded by any mode (06 R149). -/
def fnSqrt : Val → Val
  | .nan => .nan
  | .inf s => if s then .nan else .inf false
  | .fin s n d => if n = 0 then .fin s 0 1 else if s then .nan else sqrtVal n d

/-- A part's value of an activation where it lies within the bound, else the approximation (10 R247). -/
def pickReal (cand : Int × Nat) (ap : Int × Nat) (bn bd : Nat) : Val :=
  let c := (cand.1, cand.2 + 1)
  if fracNear c ap bn bd then Val.ofFrac c else Val.ofFrac ap

/-- The bound 2^-20 * max(1, |x|) of gelu and silu. -/
def actBound (n d : Nat) : Nat × Nat := if n ≤ d then (1, 2 ^ 20) else (n, d * 2 ^ 20)

/-- The approximation of gelu (10 R247). -/
def geluVal (neg : Bool) (n d : Nat) : Int × Nat :=
  let yn := 79788456 * n * (1000000 * d * d + 44715 * n * n)
  let yd := 100000000 * 1000000 * d * d * d
  let t := expNeg (2 * yn) yd
  (if neg then -(n : Int) * t else (n : Int) * fixOne, d * (fixOne + t).toNat)

/-- The activation functions of 10 R247, FUN 0 to 6. -/
def activation (fn : Nat) (v : Val) : Val :=
  match fn with
  | 0 =>
    match v with
    | .nan => .nan
    | .inf s => if s then .fin false 0 1 else .inf false
    | .fin s n d => if s || n == 0 then .fin false 0 1 else .fin s n d
  | 1 =>
    match v with
    | .nan => .nan
    | .inf s => if s then .fin true 0 1 else .inf false
    | .fin s n d =>
      pickReal (Config.activationCandidate 1 (fp32Word s n d)) (geluVal s n d) (actBound n d).1 (actBound n d).2
  | 2 =>
    match v with
    | .nan => .nan
    | .inf s => if s then .fin true 0 1 else .inf false
    | .fin s n d =>
      let g := sigmVal s n d
      pickReal (Config.activationCandidate 2 (fp32Word s n d)) ((if s then -(n : Int) else n) * g.1, d * g.2)
        (actBound n d).1 (actBound n d).2
  | 3 =>
    match v with
    | .nan => .nan
    | .inf s => if s then .fin false 0 1 else .inf false
    | .fin s n d =>
      if !s && decide (128 * d ≤ n) then .inf false
      else if s && decide (150 * d < n) then .fin false 0 1
      else if isWhole n d && !(s && n / d == 150) then
        Val.ofScaled false 1 (if s then -((n / d : Nat) : Int) else (n / d : Nat))
      else
        let ap := exp2Val s n d
        let u := ulp32 ap
        pickReal (Config.activationCandidate 3 (fp32Word s n d)) ap (2 * u.1) u.2
  | 4 =>
    match v with
    | .nan => .nan
    | .inf s => .fin s 1 1
    | .fin s n d =>
      if n = 0 then .fin s 0 1
      else if 9 * d ≤ n then .fin s 1 1
      else
        let r := pickReal (Config.activationCandidate 4 (fp32Word false n d)) (tanhVal n d) 1 (2 ^ 22)
        if s then r.neg else r
  | 5 =>
    match v with
    | .nan => .nan
    | .inf s => if s then .fin false 0 1 else .fin false 1 1
    | .fin s n d =>
      pickReal (Config.activationCandidate 5 (fp32Word s n d)) (sigmVal s n d) 1 (2 ^ 22)
  | _ => fnRcp v

end Sys2Proof.Machine
end

