-- ==== Sys2Proof/Machine/FloatOps.lean ====
section
/-! DEFINITION. What unit B computes from its operands (06 R132 to R155), apart from where they come from. `r` gives the
random value of stochastic rounding for an element position (02 R33). -/

namespace Sys2Proof.Machine

/-- A source element: decoded, flushed, and for source A its sign modifiers applied (06 R132). -/
def srcVal (f : Fmt) (fz : Bool) (code : Nat) : Val := f.decode (f.flush fz (code % 2 ^ (f.signBit + 1)))

/-- Source A of unit B: absolute value, then negation (06 R132). -/
def srcA (f : Fmt) (p : ArgsB) (code : Nat) : Val :=
  let x := srcVal f p.fz code
  let y := if p.aa then x.abs else x
  if p.na then y.neg else y

/-- Source C of unit B (06 R132). -/
def srcC (f : Fmt) (p : ArgsB) (code : Nat) : Val :=
  let x := srcVal f p.fz code
  if p.nc then x.neg else x

/-- A result fitted: rounded, flushed, clamped (06 R133). -/
def fitFp (f : Fmt) (p : ArgsB) (r32 : Nat) (x : Val) : Nat :=
  let r := f.flush p.fz (fitArith f p.rm.toNat r32 x)
  if p.cl then clamp01 f r else r

/-- The 16-bit format of packed operands (06 R132). -/
def halfFmt (p : ArgsB) : Fmt := if p.bf then bf16 else fp16

/-- The arithmetic operations: 0 add, 1 subtract, 2 multiply, 3 fused multiply-add (06 R138). -/
def fpExact (op : Nat) (f : Fmt) (p : ArgsB) (a b c : Nat) : Val :=
  let x := srcA f p a
  let y := srcVal f p.fz b
  let rm := p.rm.toNat
  match op with
  | 0 => Val.sum rm [x, y]
  | 1 => Val.sum rm [x, y.neg]
  | 2 => x.mul y
  | _ => Val.sum rm [x.mul y, srcC f p c]

/-- A single-element arithmetic result with its flags (06 R138, R135). -/
def fpuArith (op : Nat) (f : Fmt) (p : ArgsB) (r : Nat → Nat) (a b c : Nat) : AluOut :=
  let q := fitFp f p (r 0) (fpExact op f p a b c)
  ⟨q, resultFlags f q⟩

/-- A packed pair of 16-bit results (06 R138). -/
def fpuPacked (op : Nat) (p : ArgsB) (r : Nat → Nat) (a b c : Nat) : AluOut :=
  let f := halfFmt p
  let one := fun e => fitFp f p (r e) (fpExact op f p (a >>> (16 * e)) (b >>> (16 * e)) (c >>> (16 * e)))
  ⟨one 0 + one 1 * 2 ^ 16, 0⟩

/-- FDP2: two exact products and an FP32 addend, rounded once (06 R139). -/
def fpuFdp2 (p : ArgsB) (r : Nat → Nat) (a b c : Nat) : AluOut :=
  let h := halfFmt p
  let t := fun e => (srcA h p (a >>> (16 * e))).mul (srcVal h p.fz (b >>> (16 * e)))
  let q := fitFp fp32 p (r 0) (Val.sum p.rm.toNat [t 0, t 1, srcC fp32 p c])
  ⟨q, resultFlags fp32 q⟩

/-- The bits of a value its format holds exactly. -/
def exactBits (f : Fmt) (v : Val) : Nat := fitArith f 0 0 v

/-- One element of a minimum or maximum: the chosen element's bits, flushed, modified, clamped (06 R140). -/
def minMaxElem (isMax : Bool) (f : Fmt) (p : ArgsB) (a b : Nat) : Nat :=
  let x := srcA f p a
  let y := srcVal f p.fz b
  let v := exactBits f (if isMax then x.maxNum y else x.minNum y)
  if p.cl then clamp01 f v else v

/-- FMIN and FMAX (06 R140). -/
def fpuMinMax (isMax : Bool) (p : ArgsB) (a b : Nat) : AluOut :=
  let q := minMaxElem isMax fp32 p a b
  ⟨q, resultFlags fp32 q⟩

/-- HMIN2 and HMAX2 (06 R140). -/
def fpuMinMax2 (isMax : Bool) (p : ArgsB) (a b : Nat) : AluOut :=
  let f := halfFmt p
  ⟨minMaxElem isMax f p a b + minMaxElem isMax f p (a >>> 16) (b >>> 16) * 2 ^ 16, 0⟩

/-- FCMP and DCMP (06 R142). -/
def fpuCmp (f : Fmt) (p : ArgsB) (a b : Nat) : AluOut := ⟨0, relFlags (srcA f p a) (srcVal f p.fz b)⟩

/-- FRND: rounded to an integral value in FP32 (06 R141). -/
def fpuFrnd (p : ArgsB) (r : Nat → Nat) (a : Nat) : AluOut :=
  let x : Val :=
    match srcA fp32 p a with
    | .fin s n d => .fin s (if n = 0 ∨ 2 ^ 23 * d ≤ n then n else roundWhole p.rm.toNat s (r 0) n d)
        (if n = 0 ∨ 2 ^ 23 * d ≤ n then d else 1)
    | v => v
  let b := fp32.flush p.fz (exactBits fp32 x)
  let q := if p.cl then clamp01 fp32 b else b
  ⟨q, resultFlags fp32 q⟩

/-- The special functions, 0 RCP, 1 RSQ, 2 SQRT, 3 EX2, 4 LG2, 5 SIN, 6 COS, 7 TANH (06 R149). -/
def fpuSpecial (k : Nat) (p : ArgsB) (a : Nat) : AluOut :=
  let x := srcA fp32 p a
  let v :=
    match k with
    | 0 => fnRcp x
    | 1 => fnRsq x
    | 2 => fnSqrt x
    | 3 => fnEx2 x
    | 4 => fnLg2 x
    | 5 => fnSin x
    | 6 => fnCos x
    | _ => fnTanh x
  let q := fitFp fp32 p 0 v
  ⟨q, resultFlags fp32 q⟩

/-- The format of an SK or DK code: FP32, FP64, FP16, BF16 (06 R144). -/
def kindFmt (k : Nat) : Fmt :=
  match k with
  | 0 => fp32
  | 1 => fp64
  | 2 => fp16
  | _ => bf16

/-- F2I (06 R145); the last component is the saturation count (06 R148). -/
def fpuF2i (x : BitVec 9) (r : Nat → Nat) (a : Nat) : AluOut × Nat :=
  let f := if x.getLsbD 4 then fp64 else fp32
  let v0 := srcVal f (x.getLsbD 0) a
  let v := if x.getLsbD 3 then v0.abs else v0
  let signed := x.getLsbD 5
  let lo : Int := if signed then -(2 ^ 31 : Nat) else 0
  let hi : Int := if signed then (2 ^ 31 : Nat) - 1 else (2 ^ 32 : Nat) - 1
  let (q, sat) := fitInt (natBits x.toNat 8 6) (r 0) lo hi v
  (⟨wrapNat 32 q, convFlags (Val.ofInt q) sat⟩, bit01 sat)

/-- I2F (06 R145). -/
def fpuI2f (x : BitVec 9) (r : Nat → Nat) (a : Nat) : AluOut :=
  let v := Val.ofInt (elem a 0 32 (x.getLsbD 5))
  let f := if x.getLsbD 4 then fp64 else fp32
  let q := fitArith f (natBits x.toNat 8 6) (r 0) v
  ⟨q, convFlags (f.decode q) false⟩

/-- FCVT (06 R145). -/
def fpuFcvt (x : BitVec 9) (r : Nat → Nat) (a : Nat) : AluOut × Nat :=
  let sk := natBits x.toNat 5 4
  let src := kindFmt sk
  let dst := kindFmt (natBits x.toNat 3 2)
  let bits := if 2 ≤ sk then (if x.getLsbD 1 then a / 2 ^ 16 % 2 ^ 16 else a % 2 ^ 16) else a
  let v := srcVal src (x.getLsbD 0) bits
  let (q0, sat) := fitConvert dst (natBits x.toNat 8 6) (r 0) v
  let q := dst.flush (x.getLsbD 0) q0
  (⟨q, convFlags (dst.decode q) sat⟩, bit01 sat)

/-- The float format of an element kind 0 to 7 and FP64 (02 R21). -/
def elemFmt (k : Nat) : Option Fmt :=
  match k with
  | 0 => some fp32
  | 1 => some bf16
  | 2 => some fp16
  | 3 => some e4m3
  | 4 => some e5m2
  | 5 => some e3m2
  | 6 => some e2m3
  | 7 => some e2m1
  | 14 => some fp64
  | _ => none

/-- Storage width of a kind, 6-bit kinds in a byte (02 R19, R21). -/
def kindWidth (k : Nat) : Nat :=
  if k = 0 ∨ k = 13 then 32 else if k = 1 ∨ k = 2 then 16 else if k = 7 ∨ k = 8 ∨ k = 11 ∨ k = 12 then 4 else if k = 14 then 64 else 8

/-- An integer kind's bounds when quantised to: never the reserved code (02 R29). -/
def intBounds (k : Nat) : Int × Int :=
  if k = 9 then (-127, 127) else if k = 11 then (-7, 7) else (-(2 ^ 31 : Nat), (2 ^ 31 : Nat) - 1)

/-- A value narrowed to an unscaled kind: its code and whether it saturated (02 R29, R30; 06 R146). -/
def narrowTo (k rm r32 : Nat) (v : Val) : Nat × Bool :=
  match elemFmt k with
  | some f => fitConvert f rm r32 v
  | none =>
    let b := intBounds k
    let (q, sat) := fitInt rm r32 b.1 b.2 v
    (wrapNat (kindWidth k) q, sat)

/-- An element's exact value, INT8 and INT4 reserved codes read through SUB (02 R26 to R29). -/
def decodeElem (k sub code : Nat) : Val :=
  match elemFmt k with
  | some f => f.decode (code % 2 ^ (f.signBit + 1))
  | none =>
    if k = 9 then
      Val.ofInt (toSigned 8 (if code % 256 = 0x80 then sub else code))
    else if k = 11 then
      Val.ofInt (toSigned 4 (if code % 16 = 8 then sub else code))
    else if k = 13 then Val.ofInt (toSigned 32 code)
    else Val.ofInt (code : Int)

/-- Kinds that F2N and N2F take (06 R146). -/
def narrowKindOk (k : Nat) : Bool := k = 3 ∨ k = 4 ∨ k = 5 ∨ k = 6 ∨ k = 7 ∨ k = 9 ∨ k = 11

/-- F2N: two FP32 values to two codes of kind k (06 R146, R147). -/
def fpuF2n (k rm : Nat) (r : Nat → Nat) (a b : Nat) : AluOut × Nat :=
  let w := if k = 7 ∨ k = 11 then 4 else 8
  let q0 := narrowTo k rm (r 0) (fp32.decode (a % 2 ^ 32))
  let q1 := narrowTo k rm (r 1) (fp32.decode (b % 2 ^ 32))
  let v0 := decodeElem k (if k = 9 then 0x80 else 8) q0.1
  let v1 := decodeElem k (if k = 9 then 0x80 else 8) q1.1
  (⟨q1.1 * 2 ^ w + q0.1,
    mkFlags (v0.isNeg && !v0.isZero && !v0.isNan) (v0.isZero && v1.isZero) (v0.isNan || v1.isNan) (q0.2 || q1.2)⟩,
    bit01 q0.2 + bit01 q1.2)

/-- N2F: one code widened to FP32 (06 R146, R147). -/
def fpuN2f (k sub ei : Nat) (a : Nat) : AluOut :=
  let w := if k = 7 ∨ k = 11 then 4 else 8
  let v := decodeElem k sub (natBits a (w * ei + w - 1) (w * ei))
  let q := exactBits fp32 v
  ⟨q, convFlags v false⟩

/-- The FP32 codes' sum folded into a latch, rounded once (06 R152). -/
def redFsum (l : Nat) (xs : List Nat) : Nat := fp32Rne (Val.sum 0 ((l :: xs).map fp32.decode))

/-- A RED.PUSH into a latch: 0 fsum, 1 famax, 2 fmax, 3 fmin, 4 isum (06 R152). -/
def redPush (op l : Nat) (xs : List Nat) : Nat :=
  match op with
  | 0 => redFsum l xs
  | 1 =>
    let vs := (l :: xs).map (fun x => (fp32.decode x).abs)
    if vs.any Val.isNan then fp32.nanCode
    else exactBits fp32 (vs.foldl Val.maxNum (.fin false 0 1))
  | 2 => exactBits fp32 (xs.foldl (fun v x => v.maxNum (fp32.decode x)) (fp32.decode l))
  | 3 => exactBits fp32 (xs.foldl (fun v x => v.minNum (fp32.decode x)) (fp32.decode l))
  | _ => wrapNat 32 (xs.foldl (fun acc x => acc + toSigned 32 x) (toSigned 32 l))

/-- The identity a latch takes on a clear (06 R153). -/
def redIdentity (op : Nat) : Nat := if op = 2 then 0xFF800000 else if op = 3 then 0x7F800000 else 0

end Sys2Proof.Machine
end

