-- ==== Sys2Proof/Machine/Tile.lean ====
section
/-! DEFINITION. Tiles, format slots and sidecars (02 R18, R34 to R36; 10 R235 to R240), and the matrix engine's exact
sums (02 R37 to R40; 09 R213 to R220). -/

namespace Sys2Proof.Machine

/-- A tile: 32 rows of 128 bytes, row r from bit 1024 r, and its 512-byte sidecar (02 R18; 08 R182). -/
structure Tile where
  data : BitVec 32768
  side : BitVec 4096
deriving DecidableEq, Repr

/-- The tile of zeros. -/
def Tile.zero : Tile := ⟨0, 0⟩

/-- Row r as a 1,024-bit number. -/
def Tile.row (t : Tile) (r : Nat) : Nat := (t.data.toNat >>> (1024 * r)) % 2 ^ 1024

/-- A byte of the sidecar. -/
def Tile.sideByte (t : Tile) (i : Nat) : Nat := (t.side.toNat >>> (8 * i)) % 256

/-- A tile's data from 32 rows, row 0 first. -/
def rowsToData (rows : List Nat) : BitVec 32768 := BitVec.ofNat 32768 (putElems 1024 rows)

/-- A sidecar from its bytes, byte 0 first. -/
def bytesToSide (bs : List Nat) : BitVec 4096 := BitVec.ofNat 4096 (putElems 8 bs)

/-- Columns of a kind (09 R213). -/
def kindCols (k : Nat) : Nat := 1024 / kindBits k

/-- The element codes of a row at a width. -/
def rowElems (w row : Nat) : List Nat := (List.range (1024 / w)).map (fun j => (row >>> (w * j)) % 2 ^ w)

/-- The element codes of a tile, row by row. -/
def Tile.elems (t : Tile) (w : Nat) : List (List Nat) := (List.range 32).map (fun i => rowElems w (t.row i))

/-- A tile from element codes row by row, with a sidecar. -/
def tileOf (w : Nat) (rows : List (List Nat)) (side : BitVec 4096) : Tile := ⟨rowsToData (rows.map (putElems w)), side⟩

/-- A format slot's fields (10 R235). -/
structure Slot where
  ak : Nat
  bk : Nat
  ok : Nat
  sk : Nat
  bs : Nat
  zp : Bool
  rm : Nat
  sub : Nat
  valid : Bool
deriving DecidableEq, Repr

/-- The fields of a format-slot descriptor (10 R235, R236). -/
def slotOf (f : DWord) : Slot :=
  ⟨natBits f.toNat 63 60, natBits f.toNat 59 56, natBits f.toNat 55 52, natBits f.toNat 51 48, natBits f.toNat 47 44,
    f.getLsbD 43, natBits f.toNat 42 40, natBits f.toNat 39 32, slotValid f⟩

/-- A wide kind, never scaled (10 R238). -/
def wideKind (k : Nat) : Bool := k = 0 ∨ k = 1 ∨ k = 2 ∨ k = 13

/-- A block kind, whose decode carries its own scale (10 R238). -/
def blockKind (k : Nat) : Bool := k = 8 ∨ k = 10 ∨ k = 12

/-- Bytes of a scale (10 R238). -/
def scaleBytes (sk : Nat) : Nat := if sk = 2 then 4 else if sk = 3 then 2 else 1

/-- The block size of a BS code 1 to 4 (10 R238). -/
def bsBlock (bs : Nat) : Nat := 2 ^ (bs + 3)

/-- How many sidecar entries a kind has under BS (10 R238). -/
def entryCount (bs k : Nat) : Nat :=
  let c := kindCols k
  match bs with
  | 0 => 1
  | 5 => 32
  | 6 => c
  | _ => 32 * (c / bsBlock bs)

/-- The entry that element (i, j) belongs to (10 R238). -/
def entryOf (bs k i j : Nat) : Nat :=
  match bs with
  | 0 => 0
  | 5 => i
  | 6 => j
  | _ => i * (kindCols k / bsBlock bs) + j / bsBlock bs

/-- Whether a slot can serve a kind with scales (10 R238). -/
def scaleRuleOk (sl : Slot) (k : Nat) : Bool :=
  if wideKind k then true
  else if k = 8 then sl.sk == 1 && sl.bs == 2 && !sl.zp
  else if k = 10 then sl.sk == 2 && (sl.bs == 3 || sl.bs == 5) && sl.zp
  else if k = 12 then sl.sk == 2 && sl.bs == 5 && sl.zp
  else if sl.sk = 0 then sl.bs == 0 && !sl.zp
  else decide (1 ≤ sl.sk) && decide (sl.sk ≤ 3) && !sl.zp && decide (sl.bs ≤ 6)
    && (sl.bs == 0 || sl.bs == 5 || sl.bs == 6 || decide (bsBlock sl.bs ≤ kindCols k))
    && decide (entryCount sl.bs k * scaleBytes sl.sk ≤ 512)

/-- A little-endian field of the sidecar. -/
def Tile.sideField (t : Tile) (i n : Nat) : Nat := (t.side.toNat >>> (8 * i)) % 2 ^ (8 * n)

/-- An E8M0 scale's value (02 R28). -/
def e8m0Val (c : Nat) : Val := if c = 255 then .nan else Val.ofScaled false 1 ((c : Int) - 127)

/-- The value of a scale of kind SK (10 R240). -/
def scaleVal (sk c : Nat) : Val := if sk = 1 then e8m0Val c else if sk = 2 then fp32.decode c else bf16.decode c

/-- An element's exact value with its scale, zero point, special and substitute (02 R34, R36; 10 R240). -/
def decodeScaled (t : Tile) (k : Nat) (sl : Slot) (i j code : Nat) : Val :=
  if k = 8 then
    let e := 16 * i + 2 * (j / 32)
    let v := if code % 16 = 8 then e4m3.decode (t.sideByte (e + 1)) else e2m1.decode (code % 16)
    v.mul (e8m0Val (t.sideByte e))
  else if k = 10 ∨ k = 12 then
    let e := entryOf sl.bs k i j
    let zp := t.sideByte (entryCount sl.bs k * scaleBytes sl.sk + e)
    let z := if k = 12 then zp % 16 else zp
    match fp32.decode (t.sideField (4 * e) 4) with
    | .nan => .nan
    | s => (Val.ofInt ((code : Int) - z)).mul s
  else
    let x := decodeElem k sl.sub code
    if sl.sk = 0 ∨ wideKind k then x
    else x.mul (scaleVal sl.sk (t.sideField (scaleBytes sl.sk * entryOf sl.bs k i j) (scaleBytes sl.sk)))

/-- Pair every element of a list with its position. -/
def indexed {α : Type} (l : List α) : List (Nat × α) := (List.range l.length).zip l

/-- The exact values of a tile's rows in a kind. -/
def Tile.vals (t : Tile) (k : Nat) (sl : Slot) : List (List Val) :=
  (indexed (t.elems (kindBits k))).map (fun r => (indexed r.2).map (fun c => decodeScaled t k sl r.1 c.1 c.2))

/-! ### The matrix engine -/

/-- The K extent and group size of a product of two kinds (09 R213; 02 R37). -/
def kExtent (ak bk : Nat) : Nat := 1024 / max (kindBits ak) (kindBits bk)

/-- The K group size G (02 R37). -/
def groupSize (ak bk : Nat) : Nat := kExtent ak bk / 4

/-- How many K slices the narrower operand's row holds (09 R213). -/
def sliceRatio (ak bk : Nat) : Nat := max (kindBits ak) (kindBits bk) / min (kindBits ak) (kindBits bk)

/-- The slice of a row that a product reads: slice KSEL where the operand is the narrower (09 R213). -/
def kSlice (kc : Nat) (ksel : Nat) (row : List Val) : List Val :=
  if row.length ≤ kc then row else (row.drop (kc * ksel)).take kc

/-- The exact products of one K group (02 R37). -/
def groupProducts (g n : Nat) (a b : List Val) : List Val :=
  List.zipWith Val.mul ((a.drop (g * n)).take g) ((b.drop (g * n)).take g)

/-- One K group folded into an accumulator code: float by 02 R38, integer by 02 R39. -/
def accGroup (int sat : Bool) (acc : Nat) (ps : List Val) : Nat :=
  if int then
    let x := toSigned 32 acc + (sumFrac ps).1
    wrapNat 32 (if sat then clampInt x (-(2 ^ 31 : Nat)) ((2 ^ 31 : Nat) - 1) else x)
  else fp32Rne (Val.sum 0 [fp32.decode acc, fp32.decode (fp32Rne (Val.sum 0 ps))])

/-- Groups lo to hi-1 folded into an accumulator in increasing order (02 R38 to R40). -/
def accGroups (int sat : Bool) (g : Nat) (a b : List Val) (lo n : Nat) (acc : Nat) : Nat :=
  (List.range n).foldl (fun c k => accGroup int sat c (groupProducts g (lo + k) a b)) acc

/-- What a product needs of its operands: kinds, slices, class (09 R220). -/
structure Product where
  g : Nat
  int : Bool
  sat : Bool
  a : List (List Val)
  b : List (List Val)
deriving DecidableEq, Repr

/-- The operands of one tile step made ready (09 R220). -/
def productOf (sl : Slot) (sat : Bool) (ksel : Nat) (ta tb : Tile) : Product :=
  let kc := kExtent sl.ak sl.bk
  ⟨groupSize sl.ak sl.bk, kindInteger sl.ak && sl.sk == 0, sat,
    (ta.vals sl.ak sl).map (kSlice kc ksel), (tb.vals sl.bk sl).map (kSlice kc ksel)⟩

/-- Groups lo to lo+n-1 of a tile step for the rows chosen; the sidecar is written zero (09 R217, R220). -/
def productRun (p : Product) (rows : Nat → Bool) (lo n : Nat) (d : Tile) : Tile :=
  tileOf 32 ((indexed (d.elems 32)).map (fun r =>
    if rows r.1 then
      (indexed r.2).map (fun c => accGroups p.int p.sat p.g (p.a.getD r.1 []) (p.b.getD c.1 []) lo n c.2)
    else r.2)) 0

/-- TMMA's effect on its accumulator tile (09 R220). -/
def tmmaTile (sl : Slot) (za sat : Bool) (ksel : Nat) (ta tb d : Tile) : Tile :=
  productRun (productOf sl sat ksel ta tb) (fun _ => true) 0 4 (if za then Tile.zero else d)

/-- The checks of a T instruction's slot and operands, with the first cause that fails (09 R215);
lat says that operand A is a gather latch. -/
def tensorCheck (f : DWord) (ksel : Nat) (sat lat : Bool) : Option Nat :=
  let sl := slotOf f
  let int := kindInteger sl.ak
  let rho := sliceRatio sl.ak sl.bk
  if !sl.valid then some 0x148
  else if !(decide (sl.ak ≤ 12) && decide (sl.bk ≤ 12) && (sl.ok == if int && sl.sk == 0 then 13 else 0)
      && decide (sl.bs ≤ 5) && scaleRuleOk sl sl.ak && scaleRuleOk sl sl.bk) then some 0x149
  else if !(decide (ksel < rho) && (!sat || (int && sl.sk == 0))
      && (!lat || (!blockKind sl.ak && (sl.sk == 0 || sl.ak == 0 || sl.ak == 1 || sl.ak == 2)))) then some 0x143
  else none

end Sys2Proof.Machine
end

