-- ==== Sys2Proof/Machine/State.lean ====
section
/-! DEFINITION. The machine's state: everything the manual gives the part, as plain data, and the state after reset.
Times are counts of nanoseconds of the global timestamp or of clocks; blocks, launches and teams carry handles of the
model (log 13, DESIGN CHOICE), and every other number is the manual's own. -/

namespace Sys2Proof.Machine

/-- Why the machine stops with no next state. -/
inductive Fault where
  /-- Raised by step when the module has cut its power (18 R444). Safe: nothing runs without power. -/
  | noPower
  /-- Raised by step while die 0's firmware has failed verification and the package stays in reset (18 R439). Safe. -/
  | heldInReset
deriving DecidableEq, Repr

/-- Why an instruction has no meaning. -/
inductive Refusal where
  /-- Raised by exec for an instruction not modelled, named as the opcode table names it. Safe. -/
  | notModelled (mnemonic : String)
deriving DecidableEq, Repr

/-- The state of one thread (04 R74), with what its wait waits for. -/
inductive TStatus where
  | run
  | maskWait (m : Nat)
  | barWait (b : Nat)
  | sbarWait (scope : Nat)
  /-- NSLEEP: the time it ends (04 R95). -/
  | sleep (until_ : Nat)
  /-- a sleeping WAITA: the scratchpad offset it watches, when it re-reads at the latest, whether it holds one of the
  core's watches (07 R176) -/
  | flag (ea : Nat) (reread : Nat) (watch : Bool)
  /-- YIELD: regroup points still to come (04 R95) -/
  | yielded (left : Nat)
  | gate
  | exited
deriving DecidableEq, Repr

/-- One thread: its lane's registers and its control state (04 R70 to R78; 05 R98, R103; 07 R165). -/
structure Thread where
  st : TStatus := .run
  pc : DWord := 0
  /-- 6-bit age (04 R78) -/
  age : Nat := 0
  v : Map Word := []
  cc : Map Flags := []
  cubby : Map Byte := []
  /-- bytes of its cubby that an uncorrectable error has poisoned (16 R401) -/
  spoilt : List Nat := []
  /-- when the wait it is in began (04 R94) -/
  since : Nat := 0
  /-- it stands just after a SAFEPT (16 R389) -/
  atSafe : Bool := false
  /-- a stalled re-arrival at its barrier is pending (04 R91) -/
  stalled : Bool := false
  /-- the page request it waits on: function, and stage with page (13 R318) -/
  hold : Option (Nat × Nat) := none
  /-- the translation that the page request serves, and one that a REFUSE has answered, by slot and address (13 R317) -/
  heldAt : Nat := 0
  refused : Option Nat := none
  /-- the SR sequence number that its last instruction with rounding mode SR used (06 R156) -/
  srn : Word := 0
  /-- since when it waits at a LAUNCH for room in a ring (14 R341) -/
  ringWait : Option Nat := none
deriving DecidableEq, Repr

/-- What a rollback of a crew restores (16 R402; 12 R293): lanes, masks, arrival sets, k, sum latches, SR number,
replay mask. Masks are whole hardware masks, sub-crews in their bits (04 R82). -/
structure CrewCore where
  threads : Map Thread := []
  masks : Map Lanes := []
  arrived : Map Lanes := []
  k : Map Word := []
  sl : Map Word := []
  srn : Word := 0
  replay : Lanes := 0
deriving DecidableEq, Repr

/-- A watchpoint's hit kept for its record: lane, slot, unit, bundle, the widest scope hit, address and kind (17 R429). -/
structure Hit where
  lane : Nat
  slot : Nat
  unit : Nat
  pc : Nat
  scope : Nat
  addr : Nat
  kind : Nat
deriving DecidableEq, Repr

/-- A fence that is pending (12 R292, R293): its lanes, kind and scope, the number of the last request posted before
it, the crew as it stood after it, and each line that a speculative load recorded with the lane that read it. -/
structure PFence where
  id : Nat
  lanes : Lanes
  kind : Nat
  scope : Nat
  after : Nat
  saved : CrewCore
  lines : List (Nat × Nat)
  /-- entries of the log, bundles and issue ordinal when it issued -/
  logLen : Nat
  bundles : Nat
  ord : Nat := 0
  /-- watchpoints that speculative accesses have hit, reported once it completes (12 R294) -/
  hits : List Hit := []
deriving DecidableEq, Repr

/-- An entry of the log since a checkpoint (16 R398, R402): an input value, a performed output, or an issue. -/
structure LogEntry where
  kind : Nat
  lane : Nat
  slot : Nat
  size : Nat
  ord : Nat
  addr : Nat
  value : Nat
deriving DecidableEq, Repr

/-- A rerun after a detected error (16 R402, R403): which run this is, the position in the log, the bundles at which
runs detected, whether an output differed, whether it has reached the next checkpoint, and what the error-log record
names. -/
structure Rerun where
  run : Nat
  pos : Nat
  detectedAt : List Nat
  mismatch : Bool
  reached : Bool
  cause : Nat
  at_ : Nat
  lane : Nat
  pc : Nat
  slot : Nat
  unit : Nat
  addr : Nat := 0
deriving DecidableEq, Repr

/-- A debugger's stop of a crew or Loft context (17 R429, R431): when the hit was, the bundles issued since. -/
structure Stop where
  stopped : Bool := false
  /-- a broadcast on its way: time of the hit and of its arrival -/
  due : Option (Nat × Nat) := none
  skid : Nat := 0
  /-- a debugger's step is to take one issue opportunity (17 R431) -/
  stepping : Bool := false
deriving DecidableEq, Repr

/-- A crew, or at width 64 a pair (04 R70, R84). -/
structure Crew where
  core : CrewCore := {}
  /-- the paths of the last regroup point, and those deferred (04 R76, R80) -/
  paths : List Lanes := []
  deferred : List Lanes := []
  column : Nat := 0
  slot : Nat := 0
  /-- issue opportunities so far, for the least recently chosen rule (04 R75) -/
  lastChosen : Nat := 0
  lastRegroup : Nat := 0
  fences : List PFence := []
  /-- state at the last checkpoint, the log since, and any rerun (16 R402) -/
  checkpoint : CrewCore := {}
  /-- the lanes that issued the checkpoint's SAFEPT, and its bundle (15 R360) -/
  ckLanes : Lanes := 0
  ckPc : Nat := 0
  log : List LogEntry := []
  /-- bundles issued since the checkpoint, and the ordinal of the next issue, which the bundles of one cycle share
  (16 R398, R403) -/
  bundles : Nat := 0
  ord : Nat := 0
  rerun : Option Rerun := none
  /-- the Shelf body declared: address and bytes (08 R209) -/
  shelf : Option (Nat × Nat) := none
  stop : Stop := {}
deriving DecidableEq, Repr

/-- One of a block's sixteen barriers: phase parity, arrival set and early set by linear thread index (04 R91). -/
structure Barrier where
  phase : Bool := false
  arr : BitVec 1024 := 0
  early : BitVec 1024 := 0
deriving DecidableEq, Repr

/-- The gate frame (08 R185): gate PC, layout map index, its eight descriptors, entering thread, Loft PC at entry. -/
structure GateFrame where
  pc : DWord := 0
  map : Nat := 0
  descs : BitVec 256 := 0
  thread : Nat := 0
  entry : DWord := 0
deriving DecidableEq, Repr

/-- The registers of a Loft context (08 R183). -/
structure LoftRegs where
  pc : DWord := 0
  q : Map DWord := []
  lc : Map Word := []
  lf : Map Flags := []
  g0 : BitVec 32768 := 0
  g1 : BitVec 32768 := 0
  es : Map DWord := []
  /-- shadows of the hatch tiles whose written mark is set (08 R190) -/
  shadow : Map Tile := []
deriving DecidableEq, Repr

/-- A write that an engine instruction makes when it finishes (08 R194). -/
inductive EngWrite where
  | tile (code : Nat) (t : Tile)
  | latch (n : Nat) (d : BitVec 32768)
  | es (n : Nat) (x : DWord)
deriving DecidableEq, Repr

/-- Where a loop nest stands: depth step, m, n, next K group, and the rows that have completed that group
(09 R226). -/
structure NestPos where
  k : Nat := 0
  m : Nat := 0
  n : Nat := 0
  g : Nat := 0
  rows : Nat := 0
deriving DecidableEq, Repr

/-- A TGEMM or TRESUME in flight: its descriptors, format slot number and value, first accumulator, stated beats, beats
run before it, where it started, the operand tiles it reads, and the accumulators as they stood (09 R221 to R228). -/
structure Nest where
  descA : DWord
  descB : DWord
  fs : Nat
  slot : DWord
  acc : Nat
  stated : Nat
  done : Nat
  start : NestPos
  opA : List Tile
  opB : List Tile
  old : List Tile
deriving DecidableEq, Repr

/-- An engine instruction in flight: its engine (1 X, 2 T, 3 V), when it issued and its result lands, its writes, a loop
nest's own state, and the bundle and slot that issued it (08 R194; 09 R223, R226, R231). -/
structure Flight where
  engine : Nat
  start : Nat
  ready : Nat
  writes : List EngWrite
  nest : Option Nest
  pc : Nat := 0
  slot : Nat := 0
deriving DecidableEq, Repr

/-- What a Loft context waits for. -/
inductive LoftWait where
  | none
  /-- QWAIT: watched offset, latest re-read, since when it sleeps, whether it holds one of the core's watches (08 R199) -/
  | flag (ea reread since : Nat) (watch : Bool)
  /-- TFENCE: the engines it names, its bundle, and the clock by which they are idle (08 R200; 09 R227) -/
  | tfence (engines pc until_ : Nat)
  | unhatch
  /-- a page request: function and id (13 R321) -/
  | page (fn id : Nat)
  /-- stopped for a save (16 R389) -/
  | saved
deriving DecidableEq, Repr

/-- The Loft context of a block (08 R183): queued for its Loft or holding it. -/
structure LoftCtx where
  holding : Bool := false
  regs : LoftRegs := {}
  frame : GateFrame := {}
  clk : Nat := 0
  /-- clock until which engine X, T, V is busy (08 R195) -/
  busy : Map Nat := []
  flights : List Flight := []
  wait : LoftWait := .none
  /-- when the QWAIT that it has not passed yet began to wait (08 R199) -/
  waitFrom : Option Nat := none
  checkpoint : LoftRegs := {}
  /-- tiles, SR number, clock and engines at the checkpoint, its QSAFE bundle, and the bundles since (16 R402) -/
  ckTiles : Map Tile := []
  ckClk : Nat := 0
  ckBusy : Map Nat := []
  ckFlights : List Flight := []
  ckSrn : Word := 0
  ckPc : Nat := 0
  log : List LogEntry := []
  bundles : Nat := 0
  rerun : Option Rerun := none
  /-- the translation that its page request serves, and one that a REFUSE has answered, by slot and address (13 R317) -/
  heldAt : Nat := 0
  refused : Option Nat := none
  lastChosen : Nat := 0
  stop : Stop := {}
deriving DecidableEq, Repr

/-- A block resident on a core or partition (14 R337, R339; 08 R182, R185; 07 R159). -/
structure Block where
  /-- launch handle, block linear index, function -/
  launch : Nat
  index : Nat
  vf : Nat
  lid : DWord
  record : BitVec 1024
  header : BitVec 1024
  /-- virtual address of the queue entry, k2:k3 (14 R339) -/
  entry : DWord
  core : Nat
  part : Nat
  /-- first block index of its team, and blocks in the team (14 R346) -/
  team : Nat
  crews : Map Crew := []
  scratch : Map Byte := []
  tiles : Map Tile := []
  /-- bytes of its scratchpad, and tiles by their code, that an uncorrectable error has poisoned (16 R401) -/
  spoilt : List Nat := []
  spoiltTiles : List Nat := []
  bars : Map Barrier := []
  /-- scope barriers: arrived threads by scope (04 R92) -/
  sarr : Map (BitVec 1024) := []
  /-- the block has arrived at these scopes' current phase (04 R92) -/
  sdone : List Nat := []
  gatePc : Option DWord := none
  gateMap : Nat := 0
  gateLen : Nat := 1
  gateSlot : Nat := 0
  loft : Option LoftCtx := none
  loftSrn : Word := 0
  resumed : Bool := false
  zeroed : Bool := false
  placedAt : Nat := 0
  /-- its place in the order of first placement (14 R344) -/
  order : Nat := 0
  /-- time of its first unanswered recoverable fault (13 R319) -/
  faultAt : Option Nat := none
  /-- killed in this cycle, or retired but for its scratchpad (16 R379; 07 R163) -/
  killed : Bool := false
  gone : Bool := false
  /-- the cause, launch id and address of the trap that killed it; the kill's steps have been taken (16 R379) -/
  killCause : Nat := 0
  killLid : Nat := 0
  killAddr : Nat := 0
  ended : Bool := false
  /-- how a pre-emption request decided its team: 1 save, 2 drain, 3 swap, 4 retirement (16 R385) -/
  leaving : Nat := 0
  /-- the place and bytes allotted to its team's crate when the save began (16 R390) -/
  crate : Option (Nat × Nat) := none
  /-- its team's crate carries the counters of a retirement (17 R416) -/
  carries : Bool := false
  /-- the core of the retired unit for which it is saved (16 R391, R404) -/
  unitCore : Option Nat := none
deriving DecidableEq, Repr

/-- Who made an access: block handle, crew (64 for the Loft context), lane. -/
structure Agent where
  blk : Nat
  crew : Nat
  lane : Nat
deriving DecidableEq, Repr

/-- What a posted request does at its home (12 R459; 11 R257). -/
inductive HomeOp where
  | store (bytes : List Byte)
  | tag (t : BitVec 4)
  /-- an atomic group's operation, width and operands in lane order (07 R174) -/
  | group (aop : Nat) (w64 : Bool) (vals : List DWord)
  | lop (op : Nat) (w64 : Bool) (n : Nat) (c : DWord)
  /-- a held store to a block's scratchpad (12 R293) -/
  | scratch (blk : Nat) (bytes : List Byte)
deriving DecidableEq, Repr

/-- A request that has left its lane and waits in the core (12 R459). -/
structure Posted where
  id : Nat
  agent : Agent
  vf : Nat
  addr : Nat
  va : Nat
  op : HomeOp
  release : Bool
  scope : Nat
  /-- held behind this pending fence (12 R293) -/
  fence : Option Nat
  due : Nat
  moved : Bool
  /-- where its bytes are now: another address than addr once a page move has taken them there (13 R327) -/
  now : Nat
deriving DecidableEq, Repr

/-- A copy request (11 R269 to R274; 08 R204). -/
structure CopyReq where
  agent : Agent
  thread : Nat
  src : Nat
  dst : Nat
  len : Nat
  flag : Nat
  value : Word
  ssp : Bool
  dsp : Bool
  fw : Bool
  acq : Bool
  rel : Bool
  scope : Nat
  acqDone : Bool
  pc : DWord
  lpc : DWord
  fence : Option Nat
  hold : Option (Nat × Nat)
  due : Nat
  /-- the slot of its CP or TCP; a REFUSE has answered its page request -/
  slot : Nat := 0
  refused : Bool := false
  /-- payload bytes copied already; src, dst and len are what remains (11 R274) -/
  done : Nat := 0
  /-- payload offsets of the words that its issuer's stores have made undefined since it issued (11 R272) -/
  raced : List Nat := []
  /-- its issuer has read its completion word, by no acquire yet -/
  seen : Bool := false
deriving DecidableEq, Repr

/-- A cached translation of one 4 KiB page (13 R312). -/
structure TlbEntry where
  vf : Nat
  asid : Nat
  root : Nat
  vpn : Nat
  ipn : Nat
  ppn : Nat
  read : Bool
  write : Bool
  exec : Bool
  dirty : Bool
  tg : Bool
  sc : Bool
  larder : Bool
  pl : Bool
  die : Nat
deriving DecidableEq, Repr

/-- A line of an L1: its 64 bytes and whether its page is system-coherent (11 R258, R259). -/
structure L1Line where
  data : BitVec 512
  sc : Bool
  /-- the home slice's invalidation is on its way -/
  doomed : Bool := false
  /-- an access of this core has read a newer write beyond the L1: plain loads are served there too (12 R282) -/
  behind : Bool := false
deriving DecidableEq, Repr

/-- A line of the I-cache: who fetched it, its line number, its 64 bytes, and when it was last used (15 R362; log 77, DESIGN
CHOICE of the line's size). -/
structure ICLine where
  vf : Nat
  line : Nat
  data : BitVec 512
  used : Nat
deriving DecidableEq, Repr

/-- A loop body held in a Shelf: the column, or 4 of the core's Loft; the function, the address of its first bundle, and its
slots (15 R363). -/
structure ShelfBody where
  column : Nat
  vf : Nat
  addr : Nat
  slots : Nat
deriving DecidableEq, Repr

/-- What belongs to one core. -/
structure CoreState where
  /-- by line and partition: a partition's L1 ways are its own (17 R405) -/
  l1 : Map L1Line := []
  posted : List Posted := []
  copies : List CopyReq := []
  /-- copies that have ended, until their issuers have read the completion word by an acquire (11 R272) -/
  ended : List CopyReq := []
  utlb : List TlbEntry := []
  /-- I-cache lines held, by 128 * way + set (15 R361, R362) -/
  icache : Map ICLine := []
  /-- Shelf bodies held, most recently used first (15 R363) -/
  shelf : List ShelfBody := []
  partcfg : DWord := 0x8000
  partPend : Option DWord := none
  retiredCols : List Nat := []
  retired : Bool := false
  /-- counters, selectors, by 16 * partition + n; latch by partition: value and index (17 R411 to R414) -/
  ctr : Map DWord := []
  sel : Map Word := []
  latch : Map (Word × Nat) := []
  /-- bank-conflict matrix by 384 * partition + 32 * row + bank, and when it was last cleared (17 R422) -/
  conflicts : Map Nat := []
  clearedAt : Map Nat := []
  /-- trace sampling: next time, next crew (17 R426) -/
  sampleAt : Map Nat := []
  sampleNext : Map Nat := []
  /-- Loft queue of each partition: block handles (08 R186) -/
  loftq : Map (List Nat) := []
  icway : Map DWord := []
deriving DecidableEq, Repr

/-- The consumer of a spliced launch: its sequence number, ring index and PARAM, and the k registers of the two kernels
(15 R368). -/
structure Joined where
  seq : Nat
  ring : Nat
  param : Nat
  kp : Nat
  kc : Nat
deriving DecidableEq, Repr

/-- A launch from acceptance to completion (14 R329 to R336). -/
structure Launch where
  queue : Nat
  seq : Nat
  ring : Nat
  record : Option (BitVec 1024) := none
  header : BitVec 1024 := 0
  vf : Nat
  /-- 0 accepted, 1 head and checked, 2 spliced or passed on, 3 distributing, 4 wholly placed, 5 completed -/
  stage : Nat := 0
  /-- when it became the head of its queue (14 R334, R344) -/
  headAt : Option Nat := none
  placed : Nat := 0
  retired : Nat := 0
  failed : Option Nat := none
  passes : Nat := 0
  reserve : Option Nat := none
  /-- lifetimes of its last retired blocks (16 R386) -/
  lifetimes : List Nat := []
  /-- the consumer it was spliced with (15 R368, R370) -/
  joined : Option Joined := none
  /-- its ring entry as it stood at acceptance, where the D6 can reach it (14 R332) -/
  snapshot : Option (BitVec 1024) := none
  hold : Option (Nat × Nat) := none
  /-- watchpoint table in force (17 R427) -/
  watch : BitVec 1024 := 0
  /-- blocks of discarded teams, each with its place in the order of first placement (16 R388) -/
  discarded : Map Nat := []
  /-- first blocks of teams placed before their turn: a last, shorter team (14 R346) -/
  early : List Nat := []
  /-- scope barriers broken: scope and instance (04 R93) -/
  broken : List (Nat × Nat) := []
  /-- other packages that take part in its pod barriers, and those that have arrived at the current phase (18 R438) -/
  podWait : List Nat := []
  podArrived : List Nat := []
deriving DecidableEq, Repr

/-- A queue's own counters (14 R332, R333, R335). -/
structure Queue where
  head : Nat := 0
  tail : Nat := 0
  accepted : Nat := 0
  done : Nat := 0
  doneHold : Option (Nat × Nat) := none
  /-- a REFUSE has answered the page request of its QDONE write (14 R458) -/
  doneRefused : Bool := false
  /-- the values of its QDONE writes still to be made, the oldest first (14 R335, R458) -/
  owed : List Nat := []
deriving DecidableEq, Repr

/-- A page request outstanding or waiting for an id (13 R315, R316). -/
structure PageReq where
  id : Nat
  fn : Nat
  stage : Nat
  page : Nat
  va : Nat
  cause : Nat
  kind : Nat
  launch : Nat
  gts : Nat
  posted : Bool
deriving DecidableEq, Repr

/-- A team saved or swapped to a crate (16 R389 to R399): its launch, team index, blocks as saved with their copies,
the crate's place, and why. -/
structure Saved where
  launch : Nat
  team : Nat
  vf : Nat
  blocks : Map Block
  copies : List CopyReq
  /-- ended copies whose completion its agents have still to read (11 R272) -/
  ended : List CopyReq := []
  at_ : Nat
  len : Nat
  why : Nat
  counters : List DWord
  core : Nat
  waits : List (Nat × Nat)
  written : Bool
deriving DecidableEq, Repr

/-- A record on its way to a ring (16 R377; 17 R424): 0 trap, 1 error log, 2 trace. A copy's record of a lost page clears
LOST in the frame of an IPA when it is written (13 R328). -/
structure Rec where
  ring : Nat
  fn : Nat
  gts : Nat
  src : Nat
  bits : BitVec 1024
  lost : Option Nat := none
deriving DecidableEq, Repr

/-- A TLBI not yet complete (13 R313). -/
structure Tlbi where
  fn : Nat
  vf : Nat
  kind : Nat
  asid : Nat
  base : Nat
  count : Nat
deriving DecidableEq, Repr

/-- A frozen old frame of a page move (13 R326): its first frame and length, where the page went, and whether it
returns to the pool (1), the PF (0), or was retired (2). -/
structure Frozen where
  frame : Nat
  count : Nat
  back : Nat
deriving DecidableEq, Repr

/-- A load request queued (15 R351). -/
structure LoadReq where
  fn : Nat
  addr : Nat
deriving DecidableEq, Repr

/-- A header the loader records for a VF: physical address, function (15 R351). -/
structure LoadedHdr where
  vf : Nat
  pa : Nat
deriving DecidableEq, Repr

/-- What the side table holds of a bundle of a joined kernel: whether it is the consumer's, and the original bundle's
address (15 R371). -/
structure SideEntry where
  consumer : Bool
  pc : Nat
deriving DecidableEq, Repr

/-- A joined kernel in a VF's splice cache: the physical addresses of the two kernels' headers, where it stands and how
long it is, when it was last used, its side table by bundle address, and its header; vf is 64 once a header of the pair has
been reloaded (15 R372). -/
structure SpliceEntry where
  vf : Nat
  producer : Nat
  consumer : Nat
  at_ : Nat
  len : Nat
  used : Nat
  side : Map SideEntry
  header : BitVec 1024
deriving DecidableEq, Repr

/-- A pre-emption request in progress (16 R384, R385). -/
structure Preempt where
  fn : Nat
  vf : Nat
  first : Nat
  count : Nat
  deadline : Nat
  force : Nat
  at_ : Nat
  /-- the cores on which its drained teams stood (16 R387) -/
  drained : List Nat := []
deriving DecidableEq, Repr

/-- A lane's fault in the bundle being executed (16 R378). -/
structure LaneFault where
  lane : Nat
  slot : Nat
  cause : Nat
  addr : Nat
  kind : Nat
deriving DecidableEq, Repr

/-- A lane that its bundle leaves waiting for a page: what the request says, and the translation it serves (13 R318). -/
structure PageHold where
  lane : Nat
  cause : Nat
  va : Nat
  ipa : Nat
  kind : Nat
  at_ : Nat
deriving DecidableEq, Repr

/-- Who performs a write: the agent, where a lane's or a context's, and the L1 it writes through, which is a core's or a
partition's of a divided core (17 R405); none outside the package. -/
structure Writer where
  agent : Option Agent := none
  port : Option (Nat × Nat) := none
deriving DecidableEq, Repr

/-- Whom the step works for: the model's own field (log 13, DESIGN CHOICE). lanes is the gang, eset the lanes still committing. -/
structure Cursor where
  loft : Bool := false
  blk : Nat := 0
  crew : Nat := 0
  lanes : Lanes := 0
  eset : Lanes := 0
  pc : DWord := 0
  npc : DWord := 0
  slot : Nat := 0
  /-- units of the bundle's slots -/
  units : List Nat := []
  /-- lanes of the crew's other path that execute the same bundle in this cycle (05 R127) -/
  peer : Lanes := 0
  /-- a detected error rolled the crew back: the rest of the cycle's bundles do not commit (06 R158) -/
  rolled : Bool := false
  /-- the bundle is one that a rerun repeats from its log (16 R402) -/
  replay : Bool := false
  faults : List LaneFault := []
  /-- the lanes' checks for every slot of the bundle have been made -/
  checked : Bool := false
  /-- lanes of an earlier path that have passed their checks at this cycle and not executed yet -/
  ahead : Lanes := 0
  /-- lanes held for a page in this bundle; their requests are posted in lane order (13 R318) -/
  holds : List PageHold := []
  /-- writes performed in this cycle whose notices to the running crew are delivered at its end (12 R293) -/
  notices : List (Nat × Writer) := []
  /-- watchpoints that the bundle has hit (17 R429) -/
  hits : List Hit := []
deriving DecidableEq, Repr

/-- The whole machine. -/
structure State where
  /-- bytes of the cellar, the Larder, the attic and the peers (11 R256; 13 R308) -/
  mem : List Host.Cell
  /-- memory tags by 32-byte granule (07 R178) -/
  tags : Map (BitVec 4)
  /-- frame-owner bytes by frame (13 R305) -/
  owners : Map Byte
  /-- frames retired (13 R328) -/
  retiredFrames : List Nat
  /-- bytes of memory that an uncorrectable error has poisoned, and the cellar frames, each with the IPA of its page, in which
  an access has met one (16 R401) -/
  poison : List Nat
  failing : List (Nat × Nat)
  /-- Larder granules carved: die * 1024 + slice * 16 + granule (11 R260) -/
  carved : List Nat
  /-- the Dumbwaiter's pool of 2 MiB runs (13 R322) -/
  pool : List Nat
  frozen : List Frozen
  tlbis : List Tlbi
  /-- L2 TLB of each die (13 R312) -/
  l2tlb : Map (List TlbEntry)
  /-- registers of functions, queues and units that are not held elsewhere, by Reg.key (13 R322, 14 R331, 16 R377 ...) -/
  regs : Map DWord
  cores : Map CoreState
  blocks : Map Block
  launches : Map Launch
  queues : Map Queue
  /-- requests outstanding or waiting, and the next id of each function (13 R315, R316) -/
  pageReqs : List PageReq
  nextReq : Map Nat
  saved : Map Saved
  preempts : List Preempt
  recs : List Rec
  loads : List LoadReq
  headers : List LoadedHdr
  splices : List SpliceEntry
  /-- touched pages of working sets are in memory; VFs with a context switched in, and for a VF the one whose place its latest
  context took (13 R323, R324) -/
  switchedIn : List Nat
  switchedFrom : Map Nat
  /-- by function: a TLBI written while 16 are incomplete, and the function's register writes behind it (13 R313) -/
  heldWrites : Map (List Instr)
  /-- where the wheel of each unit stands, by the unit's number among channels, slices and banks (11 R275, R276) -/
  wheelAt : Map Nat
  /-- shared counters' latches: value and index, by function (17 R419) -/
  sctrLatch : Map (Word × Nat)
  /-- MSI-X vectors signalled, by 4 * function + vector (18 R434) -/
  irqs : Map Nat
  /-- GTS in ns and the clocks of the arithmetic clock (00 R5) -/
  gts : Nat
  clk : Nat
  /-- how far the clock stands past the timestamp's last tick, in units of 1/mhz ns -/
  phase : Nat
  /-- dies serving, low gear, clock in MHz, maintenance mode, and when the service state last changed (18 R439 to R443) -/
  dies : List Nat
  lowGear : Bool
  mhz : Nat
  maint : Bool
  changedAt : Nat
  /-- attic ports and Ladder ports whose link is up; packages unreachable (18 R436 to R438) -/
  atticUp : List Nat
  ladderUp : List Nat
  unreachable : List Nat
  /-- attestation: nonce words and whether a report is due (18 R442); the last report made -/
  nonce : Map DWord
  reportDue : Bool
  report : Option (List Byte)
  power : Bool
  verified : Bool
  /-- what the last register read returned (17 R414) -/
  readOut : DWord
  /-- the model's own fields (log 13, DESIGN CHOICE): steps from outside, the schedulers' free choices, the free-value counter,
  handles and request numbers -/
  agenda : List Instr
  picks : List Nat
  fresh : Nat
  nextId : Nat
  cur : Cursor
  pre : CrewCore
  preL : LoftRegs
deriving DecidableEq, Repr

/-- The machine right after reset: low gear, no work, every register at the value 18 R440 states or at zero, memory
with nothing listed (logs 1, 2, 13 to 16). -/
def State.reset : State where
  mem := []
  tags := []
  owners := []
  retiredFrames := []
  poison := []
  failing := []
  carved := []
  pool := []
  frozen := []
  tlbis := []
  l2tlb := []
  regs := []
  cores := []
  blocks := []
  launches := []
  queues := []
  pageReqs := []
  nextReq := []
  saved := []
  preempts := []
  recs := []
  loads := []
  headers := []
  splices := []
  switchedIn := []
  switchedFrom := []
  heldWrites := []
  wheelAt := []
  sctrLatch := []
  irqs := []
  gts := 0
  clk := 0
  phase := 0
  dies := [0]
  lowGear := true
  mhz := 525
  maint := false
  changedAt := 0
  atticUp := [0]
  ladderUp := [0, 1, 2]
  unreachable := []
  nonce := []
  reportDue := false
  report := none
  power := true
  verified := true
  readOut := 0
  agenda := []
  picks := []
  fresh := 0
  nextId := 1
  cur := {}
  pre := {}
  preL := {}

end Sys2Proof.Machine
end

