-- ==== Sys2Proof/Machine/Ops.lean ====
section
/-! DEFINITION. The named operations over the state: blocks, crews and cores; registers of functions; counters; trap,
error and trace records; raising a cause, and what taking it does to a lane, a block and a launch (16 R373 to R379). -/

namespace Sys2Proof.Machine

/-! ### Where things stand -/

/-- The state of a core. -/
def State.core (s : State) (c : Nat) : CoreState := (Map.find? s.cores c).getD {}

/-- A core changed. -/
def State.modCore (s : State) (c : Nat) (f : CoreState → CoreState) : State :=
  { s with cores := Map.insert s.cores c (f (s.core c)) }

/-- The block of a handle. -/
def State.block? (s : State) (b : Nat) : Option Block := Map.find? s.blocks b

/-- A block changed; nothing where the handle names none. -/
def State.modBlock (s : State) (b : Nat) (f : Block → Block) : State := { s with blocks := Map.modify s.blocks b f }

/-- A crew of a block changed. -/
def Block.modCrew (b : Block) (c : Nat) (f : Crew → Crew) : Block := { b with crews := Map.modify b.crews c f }

/-- A crew changed. -/
def State.modCrew (s : State) (b c : Nat) (f : Crew → Crew) : State := s.modBlock b (fun x => x.modCrew c f)

/-- A crew with its block. -/
def State.crew? (s : State) (b c : Nat) : Option (Block × Crew) :=
  match s.block? b with
  | none => none
  | some x => (Map.find? x.crews c).map (fun w => (x, w))

/-- A thread of a crew changed. -/
def Crew.modThread (c : Crew) (l : Nat) (f : Thread → Thread) : Crew :=
  { c with core := { c.core with threads := Map.modify c.core.threads l f } }

/-- A thread changed. -/
def State.modThread (s : State) (b c l : Nat) (f : Thread → Thread) : State :=
  s.modCrew b c (fun w => w.modThread l f)

/-- A launch changed. -/
def State.modLaunch (s : State) (l : Nat) (f : Launch → Launch) : State :=
  { s with launches := Map.modify s.launches l f }

/-- A queue's counters. -/
def State.queue (s : State) (q : Nat) : Queue := (Map.find? s.queues q).getD {}

/-- A queue's counters changed. -/
def State.modQueue (s : State) (q : Nat) (f : Queue → Queue) : State :=
  { s with queues := Map.insert s.queues q (f (s.queue q)) }

/-- The threads of a lane set changed. -/
def CrewCore.mapLanes (c : CrewCore) (m : Lanes) (f : Nat → Thread → Thread) : CrewCore :=
  { c with threads := Map.mapVals (fun l t => if m.getLsbD l then f l t else t) c.threads }

/-- The crew that the step works for, changed in what a rollback restores. -/
def State.onCrew (s : State) (f : CrewCore → CrewCore) : State :=
  s.modCrew s.cur.blk s.cur.crew (fun c => { c with core := f c.core })

/-- The block and crew that the step works for; none while it works for a Loft context. -/
def State.gang? (s : State) : Option (Block × Crew) := if s.cur.loft then none else s.crew? s.cur.blk s.cur.crew

/-- The block and Loft context that the step works for. -/
def State.loft? (s : State) : Option (Block × LoftCtx) :=
  if s.cur.loft then
    match s.block? s.cur.blk with
    | none => none
    | some b => b.loft.map (fun x => (b, x))
  else none

/-! ### The Shelves (15 R363) -/

/-- Whether a crew, or a Loft context, is inside a body that a core's Shelf holds. -/
def State.insideBody (s : State) (core : Nat) (e : ShelfBody) : Bool :=
  s.blocks.any (fun x => x.2.core == core && x.2.vf == e.vf &&
    (if e.column = 4 then x.2.loft.any (fun y => decide (e.addr ≤ y.regs.pc.toNat) && decide (y.regs.pc.toNat < e.addr + 8 * e.slots))
     else x.2.crews.any (fun y => y.2.column == e.column && y.2.shelf.any (fun h => h.1 == e.addr))))

/-- Whether a Shelf has room for a body beside the ones it holds: 512 slots, and in a column 8 bodies. -/
def ShelfBody.fits (e : ShelfBody) (held : List ShelfBody) : Bool :=
  decide ((held.map (fun x => x.slots)).sum + e.slots ≤ 512) && (e.column == 4 || decide (held.length < 8))

/-- A Shelf with a body in it: bodies that nothing is inside make room, least recently used first; unchanged where that
makes none. -/
def shelfWith (inside : ShelfBody → Bool) (e : ShelfBody) (shelf : List ShelfBody) : List ShelfBody :=
  let same := fun (x : ShelfBody) => x.column == e.column
  let held := shelf.filter (fun x => same x && !(x.vf == e.vf && x.addr == e.addr))
  let left := held.reverse.foldl (fun l x => if e.fits l || inside x then l else l.filter (fun y => y != x)) held
  if e.fits left then e :: left ++ shelf.filter (fun x => !same x) else shelf

/-- A body that a crew or a Loft begins to run, which its Shelf holds where it can. -/
def State.holdBody (s : State) (core : Nat) (e : ShelfBody) : State :=
  s.modCore core (fun c => { c with shelf := shelfWith (s.insideBody core) e c.shelf })

/-- The Loft context of a block changed. -/
def State.modLoft (s : State) (b : Nat) (f : LoftCtx → LoftCtx) : State :=
  s.modBlock b (fun x => { x with loft := x.loft.map f })

/-- The registers of the Loft context that the step works for, changed. -/
def State.onLoft (s : State) (f : LoftRegs → LoftRegs) : State :=
  s.modLoft s.cur.blk (fun x => { x with regs := f x.regs })

/-- The next free value's number, and the state with the counter advanced (00 R3). -/
def State.takeFresh (s : State) (n : Nat) : Nat × State := (s.fresh, { s with fresh := s.fresh + n })

/-- The clocks of a time in nanoseconds (00 R5). -/
def State.clocks (s : State) (ns : Nat) : Nat := ns * s.mhz / 1000

/-- One of the model's own numbers for a handle or a request. -/
def State.takeId (s : State) : Nat × State := (s.nextId, { s with nextId := s.nextId + 1 })

/-- A scheduler's free choice among n, from the list of choices; the first where none is listed. -/
def State.pick (s : State) (n : Nat) : Nat × State :=
  match s.picks with
  | [] => (0, s)
  | p :: r => (if n = 0 then 0 else p % n, { s with picks := r })

/-! ### Launch records and kernel headers (14 R337; 15 R352) -/

/-- Bits [hi:lo] of a 1,024-bit record. -/
def recBits (r : BitVec 1024) (hi lo : Nat) : Nat := natBits r.toNat hi lo

/-- Block threads in x, y, z (14 R337). -/
def recTid (r : BitVec 1024) : Nat × Nat × Nat := (recBits r 201 192 + 1, recBits r 211 202 + 1, recBits r 221 212 + 1)
/-- Grid blocks in x, y, z. -/
def recGrid (r : BitVec 1024) : Nat × Nat × Nat := (recBits r 159 128 + 1, recBits r 175 160 + 1, recBits r 191 176 + 1)
/-- Threads of a block. -/
def recThreads (r : BitVec 1024) : Nat := (recTid r).1 * (recTid r).2.1 * (recTid r).2.2
/-- Blocks of the grid. -/
def recBlocks (r : BitVec 1024) : Nat := (recGrid r).1 * (recGrid r).2.1 * (recGrid r).2.2
/-- QUAD. -/
def recQuad (r : BitVec 1024) : Bool := r.getLsbD 239
/-- COOP. -/
def recCoop (r : BitVec 1024) : Bool := r.getLsbD 238
/-- Blocks of a quad team, 1 where the launch declares none. -/
def recTeam (r : BitVec 1024) : Nat := if recQuad r then recBits r 241 240 + 1 else 1
/-- The wait limit, 0 for none. -/
def recWl (r : BitVec 1024) : Nat := recBits r 287 256
/-- The stage-1 root's IPA. -/
def recRoot (r : BitVec 1024) : Nat := recBits r 367 341 * 2 ^ 21
/-- The address-space id. -/
def recAsid (r : BitVec 1024) : Nat := recBits r 383 368
/-- Format slot n. -/
def recSlot (r : BitVec 1024) (n : Nat) : DWord := BitVec.ofNat 64 (recBits r (64 * n + 575) (64 * n + 512))
/-- The declared width, 0 where undeclared. -/
def hdrWidth (h : BitVec 1024) : Nat := recBits h 279 272
/-- `.regs`, `.kregs`. -/
def hdrRegs (h : BitVec 1024) : Nat := recBits h 263 256
def hdrKregs (h : BitVec 1024) : Nat := recBits h 271 264
/-- Cubby bytes per thread, scratchpad bytes. -/
def hdrCubby (h : BitVec 1024) : Nat := recBits h 309 296
def hdrScratch (h : BitVec 1024) : Nat := recBits h 338 320
/-- The hatch tiles of the largest map. -/
def hdrHatch (h : BitVec 1024) : Nat := recBits h 291 288
/-- The shadow range (05 R104). -/
def hdrShadow (h : BitVec 1024) : Option (Nat × Nat) :=
  if h.getLsbD 368 then some (recBits h 359 352, recBits h 367 360) else none
/-- Tiles per block. -/
def recTiles (r : BitVec 1024) : Nat := recBits r 248 242
/-- The declared width, 32 where undeclared. -/
def Block.width (b : Block) : Nat := if hdrWidth b.header = 0 then 32 else hdrWidth b.header
/-- Lanes per crew record: 64 for a pair, 32 otherwise (04 R71). -/
def Block.crewLanes (b : Block) : Nat := if b.width = 64 then 64 else 32
/-- The linear index of the thread on a lane of a crew (04 R71). -/
def Block.linear (b : Block) (crew lane : Nat) : Nat := b.crewLanes * crew + lane
/-- The crew and lane of a thread. -/
def Block.place (b : Block) (t : Nat) : Nat × Nat := (t / b.crewLanes, t % b.crewLanes)
/-- The thread of a linear index. -/
def Block.thread? (b : Block) (t : Nat) : Option Thread :=
  match Map.find? b.crews (b.place t).1 with
  | none => none
  | some c => Map.find? c.core.threads (b.place t).2

/-- Every thread of a block: crew, lane and thread, in rising linear index. -/
def Block.threads (b : Block) : List (Nat × Nat × Thread) :=
  b.crews.flatMap (fun c => c.2.core.threads.map (fun t => (c.1, t.1, t.2)))

/-- The threads that have not exited. -/
def Block.liveThreads (b : Block) : List (Nat × Nat × Thread) := b.threads.filter (fun t => t.2.2.st != .exited)

/-- The column of a lane of a crew: a pair's upper lanes lie in the next column (04 R71). -/
def Crew.columnOf (c : Crew) (lane : Nat) : Nat := c.column + lane / 32

/-- A crew's place in its core: column times 12 plus slot (02 R33). -/
def Crew.place (c : Crew) (lane : Nat) : Nat := c.columnOf lane * 12 + c.slot

/-- A core's partition mode (17 R407). -/
def State.mode (s : State) (core : Nat) : Nat := natBits (s.core core).partcfg.toNat 1 0
/-- Partitions of a mode, and each one's share of 16 counters (17 R405). -/
def modeParts (m : Nat) : Nat := if m = 0 then 1 else if m = 1 then 2 else 4
def modeShare (m : Nat) : Nat := 16 / modeParts m
/-- The owner byte of a partition. -/
def partOwner (cfg : DWord) (p : Nat) : Nat := natBits cfg.toNat (8 * p + 15) (8 * p + 8)
/-- The columns of a partition (17 R405). -/
def partColumns (m p : Nat) : List Nat := if m = 0 then [0, 1, 2, 3] else if m = 1 then [2 * p, 2 * p + 1] else [p]

/-! ### Registers of functions and units -/

/-- The key of a register: its name, whose it is, and its number. -/
def regKey (r : RegName) (fn : Nat) : Nat := r.code * 2 ^ 20 + fn % 2 ^ 20

/-- The value a register has that has never been written (18 R440; 13 R322). -/
def regReset : RegName → DWord
  | .hold => 4000
  | _ => 0

/-- A register read. -/
def State.reg (s : State) (r : RegName) (fn : Nat) : DWord := Map.get (regReset r) s.regs (regKey r fn)

/-- A register written. -/
def State.setReg (s : State) (r : RegName) (fn : Nat) (x : DWord) : State :=
  { s with regs := Map.set (regReset r) s.regs (regKey r fn) x }

/-- A saturating 32-bit counter register advanced (16 R377). -/
def State.bumpDrop (s : State) (r : RegName) (fn : Nat) : State :=
  s.setReg r fn (BitVec.ofNat 64 (min ((s.reg r fn).toNat + 1) (2 ^ 32 - 1)))

/-- An MSI-X vector signalled (18 R434). -/
def State.signal (s : State) (fn vec : Nat) : State :=
  { s with irqs := Map.set 0 s.irqs (4 * fn + vec) (Map.get 0 s.irqs (4 * fn + vec) + 1) }

/-! ### Counters (17 R411, R412, R419) -/

/-- Whether a selector counts an event with an argument (17 R412). -/
def selCounts (x : Word) (ev arg : Nat) : Bool :=
  x.getLsbD 31 && natBits x.toNat 7 0 == ev &&
    (if ev = 5 then natBits x.toNat 15 8 == 0 || natBits x.toNat 15 8 == arg
     else if ev = 16 then natBits x.toNat 15 8 == 255 || natBits x.toNat 15 8 == arg else true)

/-- n occurrences of an event counted in a partition (17 R412). -/
def State.count (s : State) (core part ev arg n : Nat) : State :=
  if n = 0 then s else
  (s.core core).sel.foldl (fun s e =>
    if e.1 / 16 = part ∧ selCounts e.2 ev arg then
      s.modCore core (fun c => { c with ctr := Map.set 0 c.ctr e.1 (Map.get 0 c.ctr e.1 + BitVec.ofNat 64 n) })
    else s) s

/-- Whether a function's shared-counter selector counts an event of a VF's request: the PF's names the VF, a VF's
counts itself (17 R419). -/
def scselCounts (x fn vf unit inst ev : Nat) : Bool :=
  natBit x 31 && natBits x 30 28 == unit && natBits x 15 8 == ev
    && (natBits x 27 16 == 0xFFF || natBits x 27 16 == inst) && (fn != 0 || natBits x 5 0 == vf)

/-- n events of a shared unit's instance counted for a VF (17 R419, R420). -/
def State.countShared (s : State) (vf unit inst ev n : Nat) : State :=
  (dedup [vf, 0]).foldl (fun s fn =>
    (List.range 8).foldl (fun s i =>
      if scselCounts (s.reg .scsel (8 * fn + i)).toNat fn vf unit inst ev then
        s.setReg .sctr (8 * fn + i) (s.reg .sctr (8 * fn + i) + BitVec.ofNat 64 n)
      else s) s) s

/-- Whether a shared counter of a VF, or of the PF, counts anything. -/
def State.tallies (s : State) (vf : Nat) : Bool :=
  (dedup [vf, 0]).any (fun fn => (List.range 8).any (fun i => (s.reg .scsel (8 * fn + i)).getLsbD 31))

/-- A count added to the bank-conflict matrix (17 R422). -/
def State.conflict (s : State) (core part row bank n : Nat) : State :=
  if n = 0 then s else
  let k := 384 * part + 32 * row + bank
  (s.modCore core (fun c => { c with conflicts := Map.set 0 c.conflicts k (min 65535 (Map.get 0 c.conflicts k + n)) })).count
    core part 0x0B 0 n

/-- The passes beyond the first that a row's words cost at each bank, counted (07 R171; 17 R422). -/
def State.bankPasses (s : State) (core part row : Nat) (words : List Nat) : State :=
  let ws := dedup words
  (List.range 32).foldl (fun s b => s.conflict core part row b ((ws.filter (fun w => w % 32 = b)).length - 1)) s

/-! ### Records (16 R375 to R378; 17 R424, R425) -/

/-- A field placed at its low bit. -/
def field (x lo width : Nat) : Nat := (x % 2 ^ width) * 2 ^ lo

/-- What a trap record says (16 R375). -/
structure TrapInfo where
  gts : Nat
  launch : Nat
  block : Nat := 0
  thread : Nat := 0
  crew : Nat := 0
  lane : Nat := 0
  pc : Nat := 0
  hpc : Nat := 0
  lpc : Nat := 0
  addr : Nat := 0
  cause : Nat
  slots : Nat := 0
  unit : Nat := 0
  core : Nat := 0
  vf : Nat
  kind : Nat := 15
  inLoft : Bool := false
  spliced : Bool := false
  retried : Bool := false
  async : Bool := false
  src : Nat
  lost : Option Nat := none

/-- A trap record's 512 bits, V set (16 R375); of the launch id it carries the low 32 bits (14 R333; log 69, DEDUCED). -/
def TrapInfo.bits (t : TrapInfo) : BitVec 1024 :=
  BitVec.ofNat 1024 (field t.gts 0 64 + field t.launch 64 32 + field t.block 152 40 + field t.thread 142 10
    + field t.crew 136 6 + field t.lane 131 5 + field t.pc 192 64 + field t.hpc 256 64 + field t.lpc 320 64
    + field t.addr 384 64 + field t.cause 503 9 + field t.slots 499 4 + field t.unit 496 3 + field t.core 487 9
    + field t.vf 481 6 + field t.kind 477 4 + field (bit01 t.inLoft) 476 1 + field (bit01 t.spliced) 475 1
    + field (bit01 t.retried) 474 1 + field (bit01 t.async) 473 1 + field t.src 457 16 + field 1 448 1)

/-- A record on its way to a ring, kept in (GTS, SRC) order of arrival (16 R376, R377). -/
def State.pushRec (s : State) (r : Rec) : State :=
  { s with recs := insertBy (fun a b => decide (a.gts < b.gts) || (decide (a.gts = b.gts) && decide (a.src < b.src))) r s.recs }

/-- A trap record for its function's ring. -/
def State.trap (s : State) (t : TrapInfo) : State := s.pushRec ⟨0, t.vf, t.gts, t.src, t.bits, t.lost⟩

/-- An error-log record, which only the PF's log receives (16 R373). -/
def State.logError (s : State) (t : TrapInfo) : State := s.pushRec ⟨1, 0, t.gts, t.src, t.bits, none⟩

/-- The source number of a crew's lane (16 R376). -/
def srcOf (core : Nat) (c : Crew) (lane : Nat) : Nat := core * 64 + c.place lane

/-- Whether a block runs a spliced kernel; the address of its kernel header (15 R352, R371). -/
def Block.spliced (b : Block) : Bool := b.header.getLsbD 370
def Block.hdrAddr (b : Block) : Nat := recBits b.record 63 0
/-- What the side table of a joined kernel holds of a bundle; a bundle of any other kernel stands for itself (15 R371). -/
def State.side? (s : State) (b : Block) (pc : Nat) : Option SideEntry :=
  if b.spliced then
    match s.splices.find? (fun e => decide (e.at_ ≤ pc) && decide (pc < e.at_ + e.len)) with
    | none => none
    | some e => Map.find? e.side pc
  else none

/-- The launch id that a record names for a bundle: the consumer's, one sequence number on, where the side table says so
(15 R371). -/
def State.launchFor (s : State) (b : Block) (pc : Nat) : Nat :=
  if (s.side? b pc).any (fun e => e.consumer) then b.lid.toNat + 256 else b.lid.toNat

/-- The bundle address that a record names (15 R371); the slot mask of a joined kernel's bundle is its original's. -/
def State.pcFor (s : State) (b : Block) (pc : Nat) : Nat :=
  match s.side? b pc with
  | some e => e.pc
  | none => pc

/-- The lowest slot of a mask. -/
def lowSlot (m : Nat) : Nat := ((List.range 4).filter (fun i => natBit m i)).headD 0

/-- A record about a thread of a crew (16 R375). -/
def threadRecord (s : State) (b : Block) (ci : Nat) (c : Crew) (lane pc cause addr kind slots unit : Nat) : TrapInfo :=
  { gts := s.gts, launch := s.launchFor b pc, block := b.index, thread := b.linear ci lane,
    crew := c.place lane, lane := lane % 32, pc := s.pcFor b pc, addr := addr, cause := cause,
    slots := slots, unit := unit, core := b.core, vf := b.vf, kind := kind, spliced := b.spliced,
    retried := c.rerun.isSome, src := srcOf b.core c lane }

/-- A record about a Loft context: the gate frame's (08 R192). -/
def loftRecord (s : State) (b : Block) (x : LoftCtx) (lpc cause addr kind slots unit : Nat) : TrapInfo :=
  let p := b.place x.frame.thread
  let c := (Map.find? b.crews p.1).getD {}
  { gts := s.gts, launch := s.launchFor b lpc, block := b.index, thread := x.frame.thread,
    crew := c.place p.2, lane := p.2 % 32, pc := s.pcFor b x.frame.pc.toNat, hpc := s.pcFor b x.frame.pc.toNat,
    lpc := s.pcFor b lpc, addr := addr, cause := cause, slots := slots, unit := unit,
    core := b.core, vf := b.vf, kind := kind, inLoft := true, spliced := b.spliced, retried := x.rerun.isSome,
    src := b.core * 64 + 48 + b.part }

/-! ### Taking an exception

A lane that faults commits nothing (03 R43): it leaves the executing set and its fault is noted. At the end of the
bundle the lowest-numbered faulting lane gives the record and the block is killed at the end of the cycle (16 R378). -/

/-- A lane of the gang faults: it commits no slot, and its fault is noted for the bundle's record. -/
def State.raiseLane (s : State) (lane cause addr kind : Nat) : State :=
  { s with cur := { s.cur with eset := s.cur.eset &&& ~~~ laneBit lane,
                               faults := s.cur.faults ++ [⟨lane, s.cur.slot, cause, addr, kind⟩] } }

/-- The lowest-numbered lane's fault of a list. -/
def lowestFault : List LaneFault → Option LaneFault
  | [] => none
  | f :: fs => some (fs.foldl (fun a b => if b.lane < a.lane then b else a) f)

/-- A killing trap of a block: its record is written and the block dies at the end of the cycle; a block that has been
killed raises no further trap in a later cycle (16 R378). The launch fails with the cause (14 R336). -/
def State.killBlock (s : State) (b : Nat) (t : TrapInfo) : State :=
  match s.block? b with
  | none => s
  | some x =>
    if x.ended then s
    else (s.trap t).modBlock b (fun y =>
      if y.killed then y else { y with killed := true, killCause := t.cause, killLid := t.launch, killAddr := t.addr })

/-- The exception of a bundle of a gang is taken: one record, naming the lowest faulting lane, and the block is
killed (16 R378). -/
def State.takeTrap (s : State) : State :=
  match lowestFault s.cur.faults, s.crew? s.cur.blk s.cur.crew with
  | some f, some (b, c) =>
    { s with cur := { s.cur with faults := [] } }.killBlock s.cur.blk
      (threadRecord s b s.cur.crew c f.lane s.cur.pc.toNat f.cause f.addr f.kind (2 ^ f.slot)
        (s.cur.units.getD f.slot 0))
  | _, _ => s

/-- A Loft context raises a cause at its current bundle: the record names the gate frame, and the block is killed
(08 R192). -/
def State.loftTrapAt (s : State) (blk lpc cause addr kind slots unit : Nat) : State :=
  match s.block? blk with
  | none => s
  | some b =>
    match b.loft with
    | none => s
    | some x => s.killBlock blk (loftRecord s b x lpc cause addr kind slots unit)

/-- The Loft context that the step works for raises a cause in the current slot. -/
def State.loftTrap (s : State) (cause addr kind : Nat) : State :=
  s.loftTrapAt s.cur.blk s.cur.pc.toNat cause addr kind (2 ^ s.cur.slot) (s.cur.units.getD s.cur.slot 0)

/-! ### Trace records (17 R424, R425) -/

/-- Whether a function's trace ring takes a kind: bit 0 USER, 1 the bank kinds, 2 SAMPLE, 3 SPLICE (17 R424). -/
def State.traceOn (s : State) (fn kind : Nat) : Bool :=
  natBit (s.reg .trccfg fn).toNat (if kind = 0 then 0 else if kind ≤ 2 then 1 else kind - 1)

/-- A trace record's bits (17 R425). -/
def traceBits (gts lid block thread kind src pc payload : Nat) (inLoft spliced : Bool) : BitVec 1024 :=
  BitVec.ofNat 1024 (field gts 0 64 + field lid 64 64 + field block 128 40 + field thread 168 10 + field kind 178 4
    + field (bit01 spliced) 182 1 + field (bit01 inLoft) 183 1 + field src 184 16 + field pc 256 64
    + field payload 320 544 + field 1 1023 1)

/-- A trace record of a thread, where its kind is enabled. The payload's bit 0 stands at bit 320. -/
def State.traceThread (s : State) (b : Block) (ci : Nat) (c : Crew) (lane pc kind payload : Nat) : State :=
  if s.traceOn b.vf kind then
    s.pushRec ⟨2, b.vf, s.gts, srcOf b.core c lane,
      traceBits s.gts (s.launchFor b pc) b.index (b.linear ci lane) kind (srcOf b.core c lane) (s.pcFor b pc) payload
        false b.spliced, none⟩
  else s

/-- A trace record of a Loft context. -/
def State.traceLoft (s : State) (b : Block) (x : LoftCtx) (kind payload : Nat) : State :=
  if s.traceOn b.vf kind then
    s.pushRec ⟨2, b.vf, s.gts, b.core * 64 + 48 + b.part,
      traceBits s.gts (s.launchFor b x.regs.pc.toNat) b.index x.frame.thread kind (b.core * 64 + 48 + b.part)
        (s.pcFor b x.frame.pc.toNat) payload true b.spliced, none⟩
  else s

/-- At a hardware-loop exit the partition's bank-conflict matrix is written as a snapshot and cleared; an all-zero
matrix writes nothing (17 R423). The writer makes each record from a kind and a payload. -/
def State.bankSnapshot (s : State) (core part loop : Nat) (write : State → Nat → Nat → State) : State :=
  let m := (s.core core).conflicts
  let rows := (List.range 12).filter (fun r => (List.range 32).any (fun b => Map.get 0 m (384 * part + 32 * r + b) != 0))
  let since := Map.get 0 (s.core core).clearedAt part
  let s := if rows.isEmpty then s else
    rows.foldl (fun s r =>
      write s 2 (r + ((List.range 32).map (fun b => field (Map.get 0 m (384 * part + 32 * r + b)) (32 + 16 * b) 16)).sum))
      (write s 1 ((rows.map (fun r => 2 ^ r)).sum + field loop 12 1 + field (min (s.clk - since) (2 ^ 32 - 1)) 32 32))
  s.modCore core (fun c => { c with conflicts := Map.clearRange c.conflicts (384 * part) 384,
                                    clearedAt := Map.set 0 c.clearedAt part s.clk })

end Sys2Proof.Machine
end

