-- ==== Sys2Proof/Machine/Operands.lean ====
section
/-! DEFINITION. Every operand form: register codes and specials of the thread side and of the Loft (03 R53, R55),
guards (03 R45), the destinations of both sides (05 R102, R103; 08 R183), the address of a memory operand (07 R166),
and the tiles a Loft operand names (08 R189, R190). Sources are read as they stood when the bundle issued (03 R43). -/

namespace Sys2Proof.Machine

/-! ### Thread side -/

/-- The stochastic-rounding base of a place (02 R33). -/
def srBase (seed mode core place : Nat) : Word :=
  BitVec.ofNat 32 seed ^^^ BitVec.ofNat 32 (mode * 2 ^ 30) ^^^ BitVec.ofNat 32 (core * 2 ^ 16) ^^^ BitVec.ofNat 32 (place * 2 ^ 8)

/-- The base of a crew's lane. -/
def State.crewBase (s : State) (b : Block) (c : Crew) (lane : Nat) : Word :=
  srBase (recBits b.record 319 288) (s.mode b.core) b.core (c.place lane)

/-- The base of a block's Loft. -/
def State.loftBase (s : State) (b : Block) : Word := srBase (recBits b.record 319 288) (s.mode b.core) b.core (48 + b.part)

/-- A special that is the same for a whole block (03 R53). -/
def blockSpecial (b : Block) (code : Nat) : Word :=
  let g := recGrid b.record
  match code with
  | 245 => BitVec.ofNat 32 (b.index % g.1)
  | 246 => BitVec.ofNat 32 (b.index / g.1 % g.2.1)
  | 247 => BitVec.ofNat 32 (b.index / (g.1 * g.2.1))
  | 249 => 0xFFFFFFFF
  | 250 => BitVec.ofNat 32 (recThreads b.record)
  | 251 => BitVec.ofNat 32 b.core
  | 252 => BitVec.ofNat 32 (b.core / 4)
  | 253 => b.lid.setWidth 32
  | 254 => BitVec.ofNat 32 (bit01 b.resumed + 2 * bit01 b.zeroed)
  | _ => 0

/-- A special as a lane reads it (03 R53). -/
def laneSpecial (s : State) (b : Block) (ci : Nat) (c : Crew) (l code : Nat) : Word :=
  let t := b.linear ci l
  let d := recTid b.record
  match code with
  | 241 => BitVec.ofNat 32 (l % b.width)
  | 242 => BitVec.ofNat 32 (t % d.1)
  | 243 => BitVec.ofNat 32 (t / d.1 % d.2.1)
  | 244 => BitVec.ofNat 32 (t / (d.1 * d.2.1))
  | 248 => BitVec.ofNat 32 (t / b.width)
  | 255 => s.crewBase b c l
  | _ => blockSpecial b code

/-- A lane's v register in a crew's snapshot. -/
def CrewCore.vreg (p : CrewCore) (l r : Nat) : Word := Map.get 0 ((Map.find? p.threads l).getD {}).v r

/-- A 32-bit source by its code (03 R53). -/
def srcWord (s : State) (b : Block) (ci : Nat) (c : Crew) (p : CrewCore) (l r : Nat) : Word :=
  if r < 192 then p.vreg l r else if r < 240 then Map.get 0 p.k (r - 192) else laneSpecial s b ci c l r

/-- A source of one register, or of a pair with its lower-numbered register low; a pair takes of the specials only
%zero (05 R101; 03 R54). -/
def State.src (s : State) (pair : Bool) (r : BitVec 8) (l : Nat) : Nat :=
  match s.gang? with
  | none => 0
  | some (b, c) =>
    let lo := srcWord s b s.cur.crew c s.pre l r.toNat
    if pair then
      if 240 ≤ r.toNat then 0 else (joinPair lo (srcWord s b s.cur.crew c s.pre l (r.toNat + 1))).toNat
    else lo.toNat

/-- Four consecutive registers, the first lowest. -/
def State.srcQuad (s : State) (r : BitVec 8) (l : Nat) : List Nat :=
  (List.range 4).map (fun i => s.src false (r + BitVec.ofNat 8 i) l)

/-- A lane's flags as they stood when the bundle issued (03 R43). -/
def State.srcCc (s : State) (i : Nat) (l : Nat) : Flags := Map.get 0 ((Map.find? s.pre.threads l).getD {}).cc i

/-- Whether a guard holds in a lane (03 R45). -/
def State.guard (s : State) (g : Guard) (l : Nat) : Bool := condHolds g.gk.toNat (s.srcCc g.gc.toNat l)

/-- The lanes of the gang that still commit and whose guard holds. -/
def State.active (s : State) (g : Guard) : Lanes :=
  match s.gang? with
  | none => 0
  | some (_, c) => lanesWhere s.cur.eset (fun l => (Map.find? c.core.threads l).isSome && s.guard g l)

/-- The low words of a value, lowest first. -/
def wordsOf (n x : Nat) : List Word := (List.range n).map (fun i => BitVec.ofNat 32 (x >>> (32 * i)))

/-- A thread with consecutive v registers written. -/
def Thread.setWords (t : Thread) (r : Nat) : List Word → Thread
  | [] => t
  | w :: ws => ({ t with v := Map.set 0 t.v r w }).setWords (r + 1) ws

/-- A k file with consecutive registers written. -/
def setKWords (k : Map Word) (r : Nat) : List Word → Map Word
  | [] => k
  | w :: ws => setKWords (Map.set 0 k r w) (r + 1) ws

/-- A destination of n registers written: a v destination in every lane of the set, a k destination once, with the
value of the lowest-numbered lane (05 R102); anything else is no register. -/
def CrewCore.writeReg (p : CrewCore) (m : Lanes) (d : BitVec 8) (n : Nat) (f : Nat → Nat) : CrewCore :=
  if d.toNat < 192 then p.mapLanes m (fun l t => t.setWords d.toNat (wordsOf n (f l)))
  else if d.toNat < 240 then
    match lowLane m with
    | none => p
    | some l => { p with k := setKWords p.k (d.toNat - 192) (wordsOf n (f l)) }
  else p

/-- A destination written in the lanes of a set. -/
def State.writeReg (s : State) (m : Lanes) (d : BitVec 8) (n : Nat) (f : Nat → Nat) : State :=
  s.onCrew (fun p => p.writeReg m d n f)

/-- A cc register written in the lanes of a set (05 R103). -/
def State.writeCc (s : State) (m : Lanes) (i : Nat) (f : Nat → Flags) : State :=
  s.onCrew (fun p => p.mapLanes m (fun l t => { t with cc := Map.set 0 t.cc i (f l) }))

/-- c[CI] written where CW = 1. -/
def State.writeCw (s : State) (m : Lanes) (cw : Bool) (ci : BitVec 2) (f : Nat → Flags) : State :=
  if cw then s.writeCc m ci.toNat f else s

/-! ### Sub-crews and executing sets (04 R82, R83; 05 R127) -/

/-- The lanes of logical crew i of a crew record. -/
def subCrew (width i : Nat) : Lanes := BitVec.ofNat 64 ((2 ^ width - 1) * 2 ^ (width * i))

/-- How many logical crews a crew record holds. -/
def Block.subCrews (b : Block) : Nat := b.crewLanes / b.width

/-- The executing sets of a crew-level slot, one for each logical crew that has lanes of this gang in it; each takes in
the lanes of the other path that execute the same bundle in this cycle (05 R127). -/
def State.execSets (s : State) (g : Guard) (own : Bool) : List (Nat × Lanes) :=
  match s.gang? with
  | none => []
  | some (b, c) =>
    let e := s.active g ||| (if own then 0 else lanesWhere s.cur.peer (fun l => (Map.find? c.core.threads l).isSome && s.guard g l))
    ((List.range b.subCrews).map (fun i => (i, e &&& subCrew b.width i))).filter
      (fun p => s.active g &&& subCrew b.width p.1 != 0)

/-! ### Memory operands (07 R166) -/

/-- The index scale of SC (03 R48). -/
def scaleOf (sc : BitVec 2) : Int := match sc.toNat with | 0 => 1 | 1 => 4 | 2 => 8 | _ => 16

/-- The size in bytes of SZ (03 R48). -/
def sizeOf (sz : BitVec 4) : Nat :=
  match sz.toNat with | 0 => 1 | 1 => 1 | 2 => 2 | 3 => 2 | 4 => 4 | 5 => 8 | _ => 16

/-- The index operand: a signed 32-bit integer, %zero 0 (07 R166). -/
def State.index (s : State) (b : BitVec 8) (l : Nat) : Int := if b = 240 then 0 else toSigned 32 (s.src false b l)

/-- A global or Larder address: modulo 2^64 (07 R166). -/
def State.wideAddr (s : State) (a b : BitVec 8) (sc : BitVec 2) (off : Int) (unit : Nat) (l : Nat) : Nat :=
  wrapNat 64 ((s.src true a l : Int) + s.index b l * scaleOf sc + off * unit)

/-- An offset of the small spaces: exact, none where it leaves 32 bits (07 R166). -/
def State.smallAddr (s : State) (a b : BitVec 8) (sc : BitVec 2) (off : Int) (unit : Nat) (l : Nat) : Option Nat :=
  let o := (s.src false a l : Int) + s.index b l * scaleOf sc + off * unit
  if o < 0 ∨ (2 ^ 32 : Nat) ≤ o then none else some o.toNat

/-! ### Loft side (03 R55; 08 R183, R196) -/

/-- A Loft source of 64 bits by its code: q, lc, lf, a format slot, es, k of crew 0, a crew-invariant special; a 32-bit
value is zero-extended (03 R55). -/
def loftSrc (s : State) (b : Block) (p : LoftRegs) (r : Nat) : DWord :=
  if r < 32 then Map.get 0 p.q r
  else if r < 36 then (Map.get 0 p.lc (r - 32)).setWidth 64
  else if r < 40 then (Map.get 0 p.lf (r - 36)).setWidth 64
  else if 48 ≤ r ∧ r < 56 then recSlot b.record (r - 48)
  else if 56 ≤ r ∧ r < 64 then Map.get 0 p.es (r - 56)
  else if 192 ≤ r ∧ r < 240 then
    (Map.get 0 ((Map.find? b.crews 0).getD {}).core.k (r - 192)).setWidth 64
  else if r = 255 then (s.loftBase b).setWidth 64
  else (blockSpecial b r).setWidth 64

/-- A source of a Loft slot as it stood when the bundle issued. -/
def State.qsrc (s : State) (r : BitVec 8) : DWord :=
  match s.loft? with
  | none => 0
  | some (b, _) => loftSrc s b s.preL r.toNat

/-- A k pair read by the Loft. -/
def State.qsrcPair (s : State) (r : BitVec 8) : DWord :=
  joinPair ((s.qsrc r).setWidth 32) ((s.qsrc (r + 1)).setWidth 32)

/-- A q or lc register written; an lc register keeps the low 32 bits (08 R183). -/
def LoftRegs.writeQ (p : LoftRegs) (d : BitVec 8) (x : DWord) : LoftRegs :=
  if d.toNat < 32 then { p with q := Map.set 0 p.q d.toNat x }
  else if d.toNat < 36 then { p with lc := Map.set 0 p.lc (d.toNat - 32) (x.setWidth 32) }
  else p

/-- lf[CI] written where CW = 1. -/
def LoftRegs.writeLf (p : LoftRegs) (cw : Bool) (ci : BitVec 2) (f : Flags) : LoftRegs :=
  if cw then { p with lf := Map.set 0 p.lf ci.toNat f } else p

/-- Whether a Loft slot's guard holds (03 R45). -/
def State.loftGuard (s : State) (g : Guard) : Bool := condHolds g.gk.toNat (Map.get 0 s.preL.lf g.gc.toNat)

/-- A hatch descriptor of a map: V, KIND, element width, elements per register, first register, count (08 R188). -/
structure Hatch where
  v : Bool
  kind : Nat
  w : Nat
  p : Nat
  first : Nat
  count : Nat
deriving DecidableEq, Repr

/-- Descriptor h of a map's eight. -/
def hatchOf (descs : BitVec 256) (h : Nat) : Hatch :=
  let d := natBits descs.toNat (32 * h + 31) (32 * h)
  ⟨natBit d 31, natBits d 30 29, 8 * 2 ^ natBits d 28 27, 2 ^ natBits d 26 25, natBits d 15 8, natBits d 7 0⟩

/-- The hatch tiles that a map defines. -/
def hatchMask (descs : BitVec 256) : BitVec 8 :=
  BitVec.ofNat 8 ((List.range 8).map (fun h => bit01 (hatchOf descs h).v * 2 ^ h)).sum

/-- The thread, register and sub-element that hold element (i, j); none where the placement names no register
(08 R189). -/
def Hatch.place (h : Hatch) (i j : Nat) : Option (Nat × Nat × Nat) :=
  let np := h.count * h.p
  if np = 0 then none else
  let c := if h.kind = 1 then 32 * (j / 32) + i else j
  let row := if h.kind = 1 then j % 32 else i
  if h.kind = 2 then
    let r := j / h.p
    some (32 * (4 * (r / (4 * h.count)) + r % 4) + i, h.first + r % (4 * h.count) / 4, j % h.p)
  else some (32 * (c / np) + row, h.first + c % np / h.p, c % h.p)

/-- The bits of element (i, j) as the threads' registers hold them, zero where no live thread does (08 R189). -/
def Block.hatchElem (b : Block) (h : Hatch) (i j : Nat) : Nat :=
  match h.place i j with
  | none => 0
  | some (t, r, sub) =>
    match b.thread? t with
    | none => 0
    | some th => if th.st = .exited then 0 else natBits (Map.get 0 th.v r).toNat (h.w * sub + h.w - 1) (h.w * sub)

/-- A hatch tile read from the registers; its sidecar reads as zero (08 R189). -/
def Block.hatchTile (b : Block) (h : Hatch) : Tile :=
  tileOf h.w ((List.range 32).map (fun i => (List.range (1024 / h.w)).map (fun j => b.hatchElem h i j))) 0

/-- The tile that a Loft operand names: t, a hatch tile (its shadow where it is marked), or a gather latch, whose
sidecar reads as zero (08 R189, R190, R206). -/
def State.tileSrc (s : State) (r : BitVec 8) : Tile :=
  match s.loft? with
  | none => Tile.zero
  | some (b, x) =>
    if r = 40 then ⟨x.regs.g0, 0⟩
    else if r = 41 then ⟨x.regs.g1, 0⟩
    else if 128 ≤ r.toNat then
      match Map.find? x.regs.shadow (r.toNat - 128) with
      | some t => t
      | none => b.hatchTile (hatchOf x.frame.descs (r.toNat - 128))
    else (Map.find? b.tiles (r.toNat - 64)).getD Tile.zero

/-- A tile written: t, or a hatch tile's shadow, which sets its mark (08 R190); what is written is sound (16 R401). -/
def State.writeTile (s : State) (blk : Nat) (r : Nat) (t : Tile) : State :=
  let s := s.modBlock blk (fun b => { b with spoiltTiles := b.spoiltTiles.filter (fun c => c != r) })
  if 128 ≤ r then s.modLoft blk (fun x => { x with regs := { x.regs with shadow := Map.insert x.regs.shadow (r - 128) t } })
  else s.modBlock blk (fun b => { b with tiles := Map.set Tile.zero b.tiles (r - 64) t })

/-- What an engine instruction writes when it finishes (08 R194). -/
def State.engWrite (s : State) (blk : Nat) : EngWrite → State
  | .tile c t => s.writeTile blk c t
  | .latch n d => s.modLoft blk (fun x => { x with regs := if n = 0 then { x.regs with g0 := d } else { x.regs with g1 := d } })
  | .es n v => s.modLoft blk (fun x => { x with regs := { x.regs with es := Map.set 0 x.regs.es n v } })

/-- Program addresses are 57 bits (04 R88; log 18, DEDUCED). -/
def pcMask (x : Nat) : DWord := BitVec.ofNat 64 (x % 2 ^ 57)

/-- A form-J target: 8-byte units from the branch's bundle (03 R49; 04 R88). -/
def jumpTarget (pc : DWord) (off : BitVec 24) : DWord := pcMask (wrapNat 64 ((pc.toNat : Int) + 8 * off.toInt))

/-! ### The log of a checkpointed run (16 R402) -/

/-- A log appended to in a live run; a rerun that runs live past its log stays at its end. -/
def Crew.append (c : Crew) (e : LogEntry) : Crew :=
  { c with log := c.log ++ [e], rerun := c.rerun.map (fun r => { r with pos := c.log.length + 1 }) }

/-- The entry of a crew's log that its rerun has come to. -/
def Crew.nextEntry (c : Crew) : Option LogEntry :=
  match c.rerun with
  | none => none
  | some r => c.log[r.pos]?

/-- A rerun one entry further, with whether what it did there differed from the first run. -/
def Crew.advance (c : Crew) (differs : Bool) : Crew :=
  { c with rerun := c.rerun.map (fun r => { r with pos := r.pos + 1, mismatch := r.mismatch || differs }) }

/-- A value that a lane receives from outside its registers: logged in a live run; in a bundle that a rerun repeats the
logged value is returned in its place (16 R402). -/
def State.laneInput (s : State) (l size value : Nat) : Nat × State :=
  match s.gang? with
  | none => (value, s)
  | some (_, c) =>
    if s.cur.replay then
      ((match c.nextEntry with
        | some e => if e.kind = 0 then e.value else value
        | none => value),
       s.modCrew s.cur.blk s.cur.crew (fun c => c.advance false))
    else (value, s.modCrew s.cur.blk s.cur.crew (fun c => c.append ⟨0, l, s.cur.slot, size, c.ord, 0, value⟩))

/-- A value that a lane performs: logged, and to be performed, in a live run; in a bundle that a rerun repeats it is
compared with what the first run performed and not performed again (16 R402, R403). The truth value says whether to
perform it. -/
def State.laneOutput (s : State) (l size addr value : Nat) : Bool × State :=
  match s.gang? with
  | none => (true, s)
  | some (_, c) =>
    if s.cur.replay then
      let same := match c.nextEntry with
        | some f => f.kind = 1 && f.lane = l && f.size = size && f.addr = addr && f.value = value
        | none => false
      (false, s.modCrew s.cur.blk s.cur.crew (fun c => c.advance (!same)))
    else (true, s.modCrew s.cur.blk s.cur.crew (fun c => c.append ⟨1, l, s.cur.slot, size, c.ord, addr, value⟩))

/-- The lane that the log names next, where a rerun repeats a bundle (07 R174: groups act in their own order). -/
def State.loggedLane (s : State) : Nat :=
  match s.gang? with
  | none => 0
  | some (_, c) => (match c.nextEntry with | some e => e.lane | none => 0)

/-- What the lanes of an atomic that a rerun repeats receive, in the log's order: each lane's output compared, then its
input returned where it has one. -/
def State.replayLanes (s : State) (n : Nat) (addr value : Nat → Nat) (returns : Bool) : Nat → Map Nat × State
  | 0 => ([], s)
  | k + 1 =>
    let l := s.loggedLane
    let (_, s) := s.laneOutput l n (addr l) (value l)
    let (v, s) := if returns then s.laneInput l n 0 else (0, s)
    let (m, s) := s.replayLanes n addr value returns k
    ((l, v) :: m, s)

end Sys2Proof.Machine
end

