-- ==== Sys2Proof/Machine/Mmu.lean ====
section
/-! DEFINITION. Bytes of memory, frames and their owners, and the two stages of translation (11 R254 to R257; 13 R304 to
R314; 18 R436, R437, R441). -/

namespace Sys2Proof.Machine

/-! ### Physical bytes -/

/-- Cellar bytes that are frames: 1,152 GiB less the owner table's 288 MiB (13 R304). -/
def cellarTop : Nat := 1152 * 2 ^ 30 - 288 * 2 ^ 20

/-- The aperture of a physical address: 0 cellar, 1 Larder, 2 attic, 3 peer (13 R308). -/
def aperture (pa : Nat) : Nat := natBits pa 51 50

/-- The status page (18 R441). -/
def statusPage : Nat := 0x000400001C000000

/-- Where a physical address's byte is held: a peer's bytes are keyed by its package (18 R437; log 10, DESIGN CHOICE). -/
def State.memKey (s : State) (pa : Nat) : Nat :=
  if aperture pa = 3 then
    2 ^ 52 + natBits (s.reg .peerwin (natBits pa 49 44)).toNat 43 32 * 2 ^ 44 + natBits pa 43 0
  else pa

/-- The device status word (18 R441). -/
def State.statusWord (s : State) : Nat :=
  field s.mhz 16 16 + field ((s.dies.map (fun d => 2 ^ d)).sum) 8 8 + field (bit01 s.maint) 1 1 + field (bit01 s.lowGear) 0 1

/-- A byte of memory; a byte never written reads as 0 (log 1, DESIGN CHOICE); the status page reads as the service state (18 R441). -/
def State.byte (s : State) (pa : Nat) : Byte :=
  if pa / 4096 = statusPage / 4096 then
    BitVec.ofNat 8 ((s.statusWord + s.changedAt * 2 ^ 64) >>> (8 * (pa % 4096)))
  else Map.get 0 s.mem (s.memKey pa)

/-- n bytes of memory from an address, lowest first. -/
def State.bytes (s : State) (pa n : Nat) : List Byte := (List.range n).map (fun i => s.byte (pa + i))

/-- A little-endian number read from memory (00 R1). -/
def State.num (s : State) (pa n : Nat) : Nat := ofBytesLE (s.bytes pa n)

/-- The addresses of a list that lie outside a range. -/
def spared (l : List Nat) (a n : Nat) : List Nat := l.filter (fun k => decide (k < a) || decide (a + n ≤ k))

/-- Bytes written from an address, in the canonical form; what is written is sound (16 R401). -/
def State.setBytes (s : State) (pa : Nat) (bs : List Byte) : State :=
  { s with mem := Map.setBytes 0 s.mem (s.memKey pa) bs, poison := spared s.poison (s.memKey pa) bs.length }

/-- A little-endian number written to memory. -/
def State.setNum (s : State) (pa n x : Nat) : State := s.setBytes pa (toBytesLE n x)

/-- The tag of the granule that holds a physical address (07 R178). -/
def State.tag (s : State) (pa : Nat) : BitVec 4 := Map.get 0 s.tags (s.memKey pa / 32)

/-- A granule's tag written. -/
def State.setTag (s : State) (pa : Nat) (t : BitVec 4) : State := { s with tags := Map.set 0 s.tags (s.memKey pa / 32) t }

/-- Data and tags of a physical range zeroed (13 R305). -/
def State.zeroRange (s : State) (pa n : Nat) : State :=
  { s with mem := Map.clearRange s.mem (s.memKey pa) n, tags := Map.clearRange s.tags (s.memKey pa / 32) (n / 32),
           poison := spared s.poison (s.memKey pa) n }

/-- Data and tags of a range copied to another (13 R326). -/
def State.copyRange (s : State) (src dst n : Nat) : State :=
  let a := s.memKey src
  let b := s.memKey dst
  let bytes := s.mem.filter (fun e => decide (a ≤ e.1) && decide (e.1 < a + n))
  let tgs := s.tags.filter (fun e => decide (a / 32 ≤ e.1) && decide (e.1 < (a + n) / 32))
  let t := s.zeroRange dst n
  { t with mem := bytes.foldl (fun m e => Map.set 0 m (b + (e.1 - a)) e.2) t.mem,
           tags := tgs.foldl (fun m e => Map.set 0 m (b / 32 + (e.1 - a / 32)) e.2) t.tags,
           poison := t.poison ++ (s.poison.filter (fun k => decide (a ≤ k) && decide (k < a + n))).map (fun k => b + (k - a)) }

/-- The owner byte of a cellar frame, or of a peer's by its key (13 R305; log 10, DESIGN CHOICE). -/
def State.owner (s : State) (frame : Nat) : Byte := Map.get 0 s.owners frame

/-- An owner byte written. -/
def State.setOwner (s : State) (frame : Nat) (x : Byte) : State := { s with owners := Map.set 0 s.owners frame x }

/-- ASG of an owner byte, and its VF (13 R305). -/
def ownAsg (b : Byte) : Bool := b.getLsbD 6
def ownVf (b : Byte) : Nat := natBits b.toNat 5 0
def ownLost (b : Byte) : Bool := b.getLsbD 7
/-- An owner byte made. -/
def mkOwner (lost asg : Bool) (vf : Nat) : Byte := BitVec.ofNat 8 (field (bit01 lost) 7 1 + field (bit01 asg) 6 1 + field vf 0 6)

/-- The placement a cellar address's frame group gives: die-local, and its die (11 R256, R460). -/
def State.placement (s : State) (pa : Nat) : Bool × Nat :=
  let r := (s.reg .framegrp (pa / 2 ^ 34)).toNat
  if natBit r 3 then (true, natBits r 2 0) else (false, 0)

/-- The die of an attic port, and of a Ladder port (01 R8). -/
def atticDie (port : Nat) : Nat := [0, 2, 3, 5].getD port 0
def ladderDie (port : Nat) : Nat := port / 3

/-- The attic port that routes an address: the lowest-numbered valid entry that covers it (18 R436). -/
def State.atticPort (s : State) (pa : Nat) : Option Nat :=
  let u := natBits pa 49 30
  match (List.range 16).find? (fun i =>
      let r := (s.reg .atticrt i).toNat
      natBit r 63 && decide (natBits r 19 0 ≤ u) && decide (u ≤ natBits r 39 20)) with
  | none => none
  | some i => some (natBits (s.reg .atticrt i).toNat 62 61)

/-- The Ladder port that carries a request to a peer: one of its window's that are up (18 R437). -/
def State.ladderPort (s : State) (pa : Nat) : Option Nat :=
  let w := (s.reg .peerwin (natBits pa 49 44)).toNat
  (List.range 18).find? (fun p => natBit w p && decide (p ∈ s.ladderUp))

/-- The home stack of a cellar address (11 R256). -/
def State.homeStack (s : State) (pa : Nat) : Nat :=
  let gi := pa / 4096
  let p := s.placement pa
  if p.1 then 3 * p.2 + gi % 3 else gi % 18

/-- The home die of an address: of its stack in the cellar, of its granule in the Larder, of the port that routes it in the
attic; a peer's line leaves the package on the die of its port (01 R8; 11 R256, R257, R262). -/
def State.homeDie (s : State) (pa : Nat) : Nat :=
  match aperture pa with
  | 0 => s.homeStack pa / 3
  | 1 => natBits pa 28 26
  | 2 => atticDie ((s.atticPort pa).getD 0)
  | _ => ladderDie ((s.ladderPort pa).getD 0)

/-- The home slice of a line; an attic line's by its offset in the aperture (11 R257, R262; log 71, DEDUCED). -/
def homeSlice (pa : Nat) : Nat :=
  let a := natBits pa 49 0
  if aperture pa = 1 then natBits pa 25 20 else ((a / 64) % 64 + 7 * (a / 4096)) % 48

/-- The key of the Larder granule of an address (11 R260). -/
def granuleKey (pa : Nat) : Nat := natBits pa 28 26 * 1024 + natBits pa 25 20 * 16 + natBits pa 19 16

/-- Bytes of a slice's L2 beside the Larder granules carved out of it (11 R261). Its lines hold what memory holds, so none is
dirty in the model (log 40, DESIGN CHOICE). -/
def State.l2Bytes (s : State) (die slice : Nat) : Nat :=
  2 ^ 21 - 2 ^ 16 * (s.carved.filter (fun g => g / 16 == die * 64 + slice)).length

/-- Whether the store behind a physical address answers; else the access raises 0x087 (13 R308, R314; 18 R436, R437). Of the
cellar only the stacks of dies that serve do, in low gear those of die 0 (01 R17; 18 R439; log 55, DEDUCED). -/
def State.backed (s : State) (pa : Nat) : Bool :=
  match aperture pa with
  | 0 => decide (pa < cellarTop) && decide (s.homeDie pa ∈ s.dies)
  | 1 => pa / 4096 == statusPage / 4096 || (decide (granuleKey pa ∈ s.carved) && decide (natBits pa 28 26 ∈ s.dies))
  | 2 => match s.atticPort pa with
         | none => false
         | some p => decide (p ∈ s.atticUp)
  | _ =>
    let w := (s.reg .peerwin (natBits pa 49 44)).toNat
    let pkg := natBits w 43 32
    let own := s.owner (2 ^ 40 * (pkg + 1) + natBits pa 43 12)
    natBit w 63 && decide (pkg ∉ s.unreachable) && (s.ladderPort pa).isSome
      && decide (natBits pa 43 0 < cellarTop) && ownAsg own && ownVf own == natBits w 55 50

/-! ### Translation -/

/-- Whose translation: function, stage-1 root and id (none where stage 1 is off), and the core whose micro-TLB serves
it (13 R306, R312). -/
structure TCtx where
  vf : Nat
  s1 : Option (Nat × Nat)
  core : Option Nat
  die : Nat
deriving DecidableEq, Repr

/-- What an access needs of each stage (13 R310). -/
structure Need where
  r : Bool
  w : Bool
  x : Bool
deriving DecidableEq, Repr

/-- The needs of an access kind of 13 R316: 0 read, 1 write, 2 atomic, 3 fetch, 4 copy read, 5 copy write, 6 table
read; 8 is an accessed or dirty update. -/
def needOf (kind : Nat) : Need :=
  match kind with
  | 1 | 5 | 8 => ⟨false, true, false⟩
  | 2 => ⟨true, true, false⟩
  | 3 => ⟨false, false, true⟩
  | _ => ⟨true, false, false⟩

/-- What a translation gives: an address with its page's attributes, and what the walk does (table bits to set, the
entry to cache); a cause; or a wait on a page being moved (13 R314, R326). -/
inductive TRes where
  | ok (pa : Nat) (e : TlbEntry) (ups : List (Nat × Nat))
  | fail (cause va ipa kind : Nat)
  | wait
deriving DecidableEq, Repr

/-- The index of a level (13 R307). -/
def levelIndex (stage1 : Bool) (lvl a : Nat) : Nat :=
  if lvl = 3 ∧ stage1 then natBits a 56 39 else natBits a (20 + 9 * lvl) (12 + 9 * lvl)

/-- The bits that must be zero in an entry of stage 1, else 0x084. Stage 2 names no cause for them, and ignores them
(13 R308, R314; 00 R2). -/
def reservedOk (e : Nat) : Bool :=
  !natBit e 63 && natBits e 56 52 == 0 && (if natBit e 1 then natBits e 10 8 == 0 else natBits e 11 2 == 0)

/-- Whether the 16-entry group of a CONT leaf is well formed, judged on its valid entries (13 R309). -/
def contOk (read : Nat → Nat) (pte unit : Nat) : Bool :=
  let base := pte / 128 * 128
  let es := (List.range 16).map (fun i => (i, read (base + 8 * i)))
  let v := es.filter (fun e => natBit e.2 0)
  v.all (fun e => natBit e.2 2 && natBit e.2 1) &&
    (match v with
     | [] => true
     | (i, e) :: _ =>
       let b := (natBits e 51 12 * 4096 : Int) - i * unit
       decide (0 ≤ b) && decide (b % (16 * unit) = 0) &&
         v.all (fun x => decide ((natBits x.2 51 12 * 4096 : Int) = b + x.1 * unit)))

/-- What a walk of one stage meets: a leaf with its level and the address of its entry; a cause; a wait. -/
inductive Leaf where
  | leaf (e pte lvl : Nat) (ups : List (Nat × Nat))
  | fail (cause va ipa kind : Nat)
  | wait
deriving DecidableEq, Repr

/-- A well-formed stage-2 output (13 R308). -/
def s2LeafOk (e lvl out : Nat) : Bool :=
  let ap := aperture out
  let la := natBit e 9
  let status := out / 4096 == statusPage / 4096
  (la == (ap == 1)) && !(la && (lvl == 1 || lvl == 2))
    && (ap == 0 || (!natBit e 8 && natBits e 55 53 == 0)) && decide (natBits e 55 53 ≤ 5)
    && (ap != 0 || decide (out < cellarTop))
    && (ap != 1 || (status && lvl == 0 && !natBit e 2) ||
        (natBits out 49 29 == 0 && decide (natBits out 28 26 ≤ 5) && decide (natBits out 25 20 ≤ 47)))

/-- The output of a leaf for an address: the entry's base with the address's low bits; low bits of the base below the
leaf's size are ignored (log 19, DEDUCED). -/
def leafOut (e lvl a : Nat) : Nat :=
  let sz := 2 ^ (12 + 9 * lvl)
  natBits e 51 12 * 4096 / sz * sz + a % sz

/-- The levels of stage 2 from a level down. An entry that names the reserved range is malformed, and a table that no store
answers for is a backing error (13 R305, R307, R308, R314). -/
def s2Levels (s : State) (ipa : Nat) : Nat → Nat → Leaf
  | 0, _ => .fail 0x085 0 ipa 0
  | n + 1, table =>
    let pte := table + 8 * levelIndex false n ipa
    let e := s.num pte 8
    if aperture table = 0 ∧ cellarTop ≤ table then .fail 0x085 0 ipa 0
    else if !s.backed table then .fail 0x087 0 ipa 0
    else if !natBit e 0 then .fail 0x081 0 ipa 0
    else if natBit e 1 then
      if n = 3 ∨ (natBit e 2 ∧ n = 1) then .fail 0x085 0 ipa 0
      else if natBit e 2 && !contOk (fun p => s.num p 8) pte (2 ^ (12 + 9 * n)) then .fail 0x085 0 ipa 0
      else if natBit e 56 then .wait
      else .leaf e pte n []
    else if n = 0 then .fail 0x085 0 ipa 0
    else s2Levels s ipa n (natBits e 51 12 * 4096)

/-- What stage 2 forbids (13 R310): permission, the frame's owner, tags. -/
def permits (e : Nat) (n : Need) : Bool := (!n.r || natBit e 3) && (!n.w || natBit e 4) && (!n.x || natBit e 5)

/-- The check of a frame's owner byte: none where it passes (13 R310, R328). -/
def State.ownerCheck (s : State) (vf pa : Nat) : Option Nat :=
  if aperture pa = 0 then
    let o := s.owner (pa / 4096)
    if !ownAsg o || ownVf o != vf then some 0x083 else if ownLost o then some 0x08D else none
  else none

/-- Stage 2 for an IPA, with the table updates its leaf needs: A always, D on a write (13 R306, R310). -/
def stage2 (s : State) (vf ipa : Nat) (n : Need) : Leaf :=
  let root := (s.reg .s2root vf).toNat
  if !natBit root 0 then .fail 0x081 0 ipa 0
  else
    match s2Levels s ipa 4 (natBits root 51 12 * 4096) with
    | .leaf e pte lvl _ =>
      let out := leafOut e lvl ipa
      if !s2LeafOk e lvl out then .fail 0x085 0 ipa 0
      else if !permits e n || (out / 4096 == statusPage / 4096 && n.w) then .fail 0x083 0 ipa 0
      else
        match s.ownerCheck vf out with
        | some c => .fail c 0 ipa 0
        | none =>
          if aperture out = 0 ∧ s.placement out ≠ (natBit e 8, natBits e 55 53) then .fail 0x08E 0 ipa 0
          else if !s.backed out then .fail 0x087 0 ipa 0
          else .leaf e pte lvl [(pte, if n.w then 0xC0 else 0x40)]
    | r => r

/-- The physical address of a table of stage 1 for a read, or for an update (13 R306, R310): the PF's IPA is its PA. -/
def tablePa (s : State) (vf ipa : Nat) (update : Bool) : Sum Leaf (Nat × List (Nat × Nat)) :=
  if vf = 0 then
    if s.backed ipa then .inr (ipa, []) else .inl (.fail (if aperture ipa = 0 ∧ cellarTop ≤ ipa then 0x084 else 0x087) 0 ipa 6)
  else
    match stage2 s vf ipa (needOf (if update then 8 else 6)) with
    | .leaf e _ lvl ups => .inr (leafOut e lvl ipa, ups)
    | .fail c _ i _ => .inl (.fail c 0 i 6)
    | .wait => .inl .wait

/-- The levels of stage 1 from a level down; each table read is translated by stage 2, which indexes with IPA[47:39]: a table
entry's ADDR at or above 2^48, of which the spec says nothing, is read without its upper bits (13 R306, R307; log 70, DESIGN
CHOICE). -/
def s1Levels (s : State) (vf va : Nat) (n : Need) : Nat → Nat → List (Nat × Nat) → Leaf
  | 0, _, _ => .fail 0x084 va 0 0
  | k + 1, table, ups =>
    let ipa := table + 8 * levelIndex true k va
    match tablePa s vf ipa false with
    | .inl r => r
    | .inr (pte, u) =>
      let e := s.num pte 8
      if !natBit e 0 then .fail 0x080 va 0 0
      else if !reservedOk e then .fail 0x084 va 0 0
      else if natBit e 1 then
        if k = 3 ∨ (natBit e 2 ∧ k = 1) then .fail 0x084 va 0 0
        else if natBit e 2 && !contOk (fun p => s.num p 8) pte (2 ^ (12 + 9 * k)) then .fail 0x084 va 0 0
        else if 2 ^ 48 ≤ leafOut e k va then .fail 0x084 va 0 0
        else if !permits e n then .fail 0x082 va 0 0
        else
          let bits := if n.w then 0xC0 else 0x40
          if e &&& bits = bits then .leaf e pte k (ups ++ u)
          else
            match tablePa s vf ipa true with
            | .inl r => r
            | .inr (p, u2) => .leaf e pte k (ups ++ u ++ u2 ++ [(p, bits)])
      else if k = 0 then .fail 0x084 va 0 0
      else s1Levels s vf va n k (natBits e 51 12 * 4096) (ups ++ u)

/-- A full walk of both stages; no function writes the status page (13 R306 to R311; 18 R441). -/
def walk (s : State) (c : TCtx) (va : Nat) (n : Need) : TRes :=
  let r1 : Leaf :=
    match c.s1 with
    | some (root, _) => s1Levels s c.vf va n 4 root []
    | none => .leaf (0x38 + va / 4096 * 4096) 0 0 []
  match r1 with
  | .fail k v i kd => .fail k v i kd
  | .wait => .wait
  | .leaf e1 _ lvl1 ups1 =>
    let ipa := leafOut e1 lvl1 va
    let tg := natBit e1 11 && c.s1.isSome
    let ent : Nat → TlbEntry := fun ppn =>
      { vf := c.vf, asid := (c.s1.map Prod.snd).getD 0, root := (c.s1.map Prod.fst).getD 0, vpn := va / 4096,
        ipn := ipa / 4096, ppn := ppn, read := natBit e1 3, write := natBit e1 4, exec := natBit e1 5,
        dirty := n.w, tg := tg, sc := false, larder := aperture (ppn * 4096) == 1, pl := false, die := 0 }
    if c.vf = 0 then
      if aperture ipa = 0 ∧ cellarTop ≤ ipa then .fail 0x084 va 0 0
      else if !s.backed ipa then .fail 0x087 va ipa 0
      else if ipa / 4096 == statusPage / 4096 && n.w then .fail 0x083 va ipa 0
      else .ok ipa (ent (ipa / 4096)) ups1
    else
      match stage2 s c.vf ipa n with
      | .fail k _ i kd => .fail k va i kd
      | .wait => .wait
      | .leaf e2 _ lvl2 ups2 =>
        if tg && !natBit e2 11 then .fail 0x083 va ipa 0
        else
          let pa := leafOut e2 lvl2 ipa
          let t := ent (pa / 4096)
          .ok pa { t with read := t.read && natBit e2 3, write := t.write && natBit e2 4, exec := t.exec && natBit e2 5,
                          sc := natBit e2 10, pl := natBit e2 8, die := natBits e2 55 53 } (ups1 ++ ups2)

/-- Whether a cached entry serves an access: same function, space and page, and D set for a write (13 R310, R312). -/
def TlbEntry.serves (e : TlbEntry) (c : TCtx) (va : Nat) (n : Need) : Bool :=
  e.vf == c.vf && c.s1 == some (e.root, e.asid) && e.vpn == va / 4096 && (!n.w || e.dirty)

/-- The entry that serves an access, from the core's micro-TLB or the die's L2 TLB (13 R312). -/
def State.tlbHit (s : State) (c : TCtx) (va : Nat) (n : Need) : Option TlbEntry :=
  match (match c.core with
         | none => none
         | some k => (s.core k).utlb.find? (fun e => e.serves c va n)) with
  | some e => some e
  | none => ((Map.find? s.l2tlb c.die).getD []).find? (fun e => e.serves c va n)

/-- A translation: a cached entry whole, or a walk; the owner byte is read at every access (13 R310, R312). Bits 63:60 of
the address take no part. -/
def translate (s : State) (c : TCtx) (va : Nat) (kind : Nat) : TRes :=
  let a := va % 2 ^ 57
  let n := needOf kind
  match s.tlbHit c a n with
  | some e =>
    if (n.r && !e.read) || (n.w && !e.write) || (n.x && !e.exec) then walk s c a n
    else
      let pa := e.ppn * 4096 + a % 4096
      match (if c.vf = 0 then none else s.ownerCheck c.vf pa) with
      | some k => .fail k a (e.ipn * 4096 + a % 4096) 0
      | none => if s.backed pa then .ok pa e [] else .fail 0x087 a (e.ipn * 4096) 0
  | none => walk s c a n

/-- An entry put into a TLB of at most n entries, in place of one for the same page (13 R312). -/
def tlbPut (n : Nat) (l : List TlbEntry) (e : TlbEntry) : List TlbEntry :=
  (e :: l.filter (fun x => !(x.vf == e.vf && x.asid == e.asid && x.root == e.root && x.vpn == e.vpn))).take n

/-- The effects of a translation's use: tables' A and D bits, the TLB fills, and within its VF's slice the working-set
record's bit (13 R310, R312, R323; log 72, DESIGN CHOICE). -/
def State.useTrans (s : State) (c : TCtx) (e : TlbEntry) (ups : List (Nat × Nat)) : State :=
  let s := ups.foldl (fun s u => s.setNum u.1 8 (s.num u.1 8 ||| u.2)) s
  let s := if c.s1.isNone then s else
    let s := { s with l2tlb := Map.insert s.l2tlb c.die (tlbPut 16384 ((Map.find? s.l2tlb c.die).getD []) e) }
    match c.core with
    | none => s
    | some k => s.modCore k (fun x => { x with utlb := tlbPut 128 x.utlb e })
  let map := (s.reg .wsmap c.vf).toNat
  let base := natBits (s.reg .wsbase c.vf).toNat 47 21
  let len := min (natBits (s.reg .wslen c.vf).toNat 21 0) 2097152
  let region := e.ipn / 512
  if c.vf ∈ s.switchedIn ∧ natBits map 51 12 ≠ 0 ∧ base ≤ region ∧ region < base + len then
    let b := region - base
    let pa := natBits map 51 12 * 4096 + (if natBit map 0 then roundUp ((len + 7) / 8) 4096 else 0) + b / 8
    s.setNum pa 1 (s.num pa 1 ||| 2 ^ (b % 8))
  else s

/-- The context of a block's accesses (14 R339). -/
def Block.tctx (b : Block) : TCtx := ⟨b.vf, some (recRoot b.record, recAsid b.record), some b.core, b.core / 64⟩

/-- The context of the D6's own accesses by IPA for a function, from die 0 (14 R458; 15 R351). -/
def ipaCtx (vf : Nat) : TCtx := ⟨vf, none, none, 0⟩

/-- Whether a cause is recoverable (13 R314). -/
def recoverable (cause : Nat) : Bool := cause == 0x080 || cause == 0x081 || cause == 0x08D

/-- The stage of a recoverable cause: 0 stage 1, 1 stage 2, 2 lost (13 R316). -/
def causeStage (cause : Nat) : Nat := if cause = 0x080 then 0 else if cause = 0x081 then 1 else 2

/-! ### Page requests (13 R315 to R318) -/

/-- A request's ring record (13 R316). -/
def PageReq.bits (r : PageReq) : Nat :=
  field r.id 0 8 + field r.fn 8 6 + field r.stage 14 2 + field r.kind 16 4 + field r.cause 20 9 + field r.launch 32 32
    + field (r.va % 2 ^ 60) 64 64 + field (if r.stage = 0 then 0 else r.page * 4096) 128 64 + field r.gts 192 64

/-- The next request id of a function that is not outstanding, from its counter up (13 R316). -/
def State.freeReqId (s : State) (fn : Nat) : Option Nat :=
  ((List.range 256).map (fun i => (Map.get 0 s.nextReq fn + i) % 256)).find?
    (fun i => !s.pageReqs.any (fun r => r.posted && r.fn == fn && r.id == i))

/-- A record written to a function's request ring, with its interrupt (13 R316; 18 R434). -/
def State.writeRequest (s : State) (r : PageReq) : State :=
  let base := natBits (s.reg .prqbase r.fn).toNat 51 13 * 8192
  let tail := (s.reg .prqtail r.fn).toNat % 256
  let s := s.setBytes (base + 32 * tail) (toBytesLE 32 r.bits)
  ((s.setReg .prqtail r.fn (BitVec.ofNat 64 ((tail + 1) % 256))).signal r.fn 0).countShared r.fn 6 0 0 1

/-- Waiting requests posted as ids free, in order of arrival (13 R315). -/
def State.postWaiting (s : State) (fn : Nat) : State :=
  match s.pageReqs.find? (fun r => !r.posted && r.fn == fn), s.freeReqId fn with
  | some r, some id =>
    let r2 := { r with id := id, posted := true }
    let s := { s with pageReqs := s.pageReqs.map (fun x => if x = r then r2 else x),
                      nextReq := Map.set 0 s.nextReq fn ((id + 1) % 256) }
    s.writeRequest r2
  | _, _ => s

/-- The page that a fault concerns: of stage 1 by its virtual page, of stage 2 by its intermediate page. -/
def faultPage (cause va ipa : Nat) : Nat := if cause = 0x080 then va / 4096 else ipa / 4096

/-- A recoverable fault's page request: an outstanding one of the same function, stage and page serves; else one is
posted, or waits for an id. Answers the request waited on, as its function and its stage and page (13 R315, R318). -/
def State.pageRequest (s : State) (fn cause va ipa kind launch : Nat) : (Nat × Nat) × State :=
  let st := causeStage cause
  let pg := faultPage cause va ipa
  let key := st * 2 ^ 52 + pg
  if s.pageReqs.any (fun r => r.fn == fn && r.stage == st && r.page == pg) then ((fn, key), s)
  else
    let r : PageReq := ⟨256, fn, st, pg, va, cause, kind, launch % 2 ^ 32, s.gts, false⟩
    ((fn, key), { s with pageReqs := s.pageReqs ++ [r] }.postWaiting fn)

/-- Whether a request waited on is still unanswered. -/
def State.requestOpen (s : State) (h : Nat × Nat) : Bool :=
  s.pageReqs.any (fun r => r.fn == h.1 && r.stage * 2 ^ 52 + r.page == h.2)

end Sys2Proof.Machine
end

