-- ==== Sys2Proof/Machine/Memory.lean ====
section
/-! DEFINITION. Accesses beyond translation: the scratchpad and its watched words, quad windows, the L1, the requests a
core has posted and their homes, atomic groups, range updates and tags (07 R159 to R179; 11 R257 to R268; 12 R459;
13 R327). -/

namespace Sys2Proof.Machine

/-! ### Ranges -/

/-- A range split at multiples of a unit: addresses with lengths, in order. -/
def splitAt (unit : Nat) : Nat → Nat → Nat → List (Nat × Nat)
  | 0, _, _ => []
  | fuel + 1, a, n =>
    if n = 0 then []
    else
      let k := min n (unit - a % unit)
      (a, k) :: splitAt unit fuel (a + k) (n - k)

/-- A range split at pages of 4 KiB. -/
def pages (a n : Nat) : List (Nat × Nat) := splitAt 4096 n a n
/-- A range split at lines of 64 bytes. -/
def lines (a n : Nat) : List (Nat × Nat) := splitAt 64 n a n

/-! ### Scratchpad (07 R160 to R163, R176) -/

/-- Bytes of a block's scratchpad window. -/
def Block.scratchNum (b : Block) (off n : Nat) : Nat := ofBytesLE (Map.bytes 0 b.scratch off n)

/-- A sleeping WAITA told to re-read at a time when a write reaches the word it watches (07 R176). -/
def Thread.wake (t : Thread) (gts off n : Nat) : Thread :=
  match t.st with
  | .flag ea r w =>
    if w && decide (ea < off + n) && decide (off < ea + 4) then { t with st := .flag ea (min r gts) w } else t
  | _ => t

/-- A crew's threads changed, each by its lane. -/
def Crew.mapThreads (c : Crew) (f : Nat → Thread → Thread) : Crew :=
  { c with core := { c.core with threads := Map.mapVals f c.core.threads } }

/-- A waiting QWAIT told to re-read (08 R199). -/
def LoftCtx.wake (x : LoftCtx) (gts off n : Nat) : LoftCtx :=
  match x.wait with
  | .flag ea r since w => if w ∧ ea < off + n ∧ off < ea + 4 then { x with wait := .flag ea (min r gts) since w } else x
  | _ => x

/-- A watched word's sleepers told to re-read: threads, and the Loft context (07 R176; 08 R199). -/
def Block.wake (b : Block) (gts off n : Nat) : Block :=
  { b with crews := Map.mapVals (fun _ c => c.mapThreads (fun _ t => t.wake gts off n)) b.crews,
           loft := b.loft.map (fun x => x.wake gts off n) }

/-- Bytes stored into a block's scratchpad; sleepers on the words wake (07 R176). -/
def State.scratchWrite (s : State) (blk off : Nat) (bs : List Byte) : State :=
  s.modBlock blk (fun b =>
    { b with scratch := Map.setBytes 0 b.scratch off bs, spoilt := spared b.spoilt off bs.length }.wake s.gts off bs.length)

/-- The block of a quad team at a rank: the rank of a block is its place in the team, which it keeps wherever the team
stands (07 R162, R163; 14 R346; 16 R399). -/
def State.windowBlock (s : State) (b : Block) (rank : Nat) : Option (Nat × Block) :=
  Map.findBy (fun _ x => x.launch == b.launch && x.team == b.team && x.index == b.team + rank) s.blocks

/-- Where a scratchpad offset or window address leads: the block's handle, its `.scratch`, and the offset in it; a cause
where the window's form is refused (07 R162, R163, R167 check 2). -/
def State.scratchTarget (s : State) (blk : Nat) (b : Block) (window : Bool) (o : Nat) : Sum Nat (Nat × Nat × Nat) :=
  if window then
    if !recQuad b.record || natBits o 30 22 != 0 then .inl 0x092
    else
      match s.windowBlock b (natBits o 21 20) with
      | none => .inl 0x092
      | some (h, x) => .inr (h, hdrScratch x.header, natBits o 19 0)
  else .inr (blk, hdrScratch b.header, o)

/-! ### The L1 (11 R258, R259) -/

/-- The lines of non-SC pages leave a core's L1 (11 R259 item 1). -/
def State.l1Acquire (s : State) (core scope : Nat) : State :=
  if 3 ≤ scope then s.modCore core (fun c => { c with l1 := c.l1.filter (fun e => e.2.sc) }) else s

/-- The key of a line in the L1 ways of a partition (17 R405). -/
def l1Key (part line : Nat) : Nat := part * 2 ^ 52 + line

/-- The L1 that a block's accesses go through. -/
def Block.port (b : Block) : Nat × Nat := (b.core, b.part)

/-- The partition that a block stands on. -/
def State.partOf (s : State) (blk : Nat) : Nat := ((s.block? blk).map (fun b => b.part)).getD 0

/-- A range's lines leave one core's L1, in every partition (17 R405). -/
def CoreState.l1Drop (c : CoreState) (key n : Nat) : CoreState :=
  { c with l1 := (List.range 4).foldl (fun m p => Map.clearRange m (l1Key p (key / 64)) ((key + n + 63) / 64 - key / 64)) c.l1 }

/-- A range's lines leave every L1 (11 R259 item 5). -/
def State.l1DropAll (s : State) (key n : Nat) : State :=
  { s with cores := Map.mapVals (fun _ c => c.l1Drop key n) s.cores }

/-- A line's bytes from memory. -/
def State.lineData (s : State) (pa : Nat) : BitVec 512 := BitVec.ofNat 512 (s.num (pa / 64 * 64) 64)

/-- A partition's own copy of a line updated by a store, if present (11 R258; 17 R405). -/
def CoreState.l1Store (c : CoreState) (part key : Nat) (bs : List Byte) : CoreState :=
  { c with l1 := Map.modify c.l1 (l1Key part (key / 64)) (fun x =>
      { x with data :=
        let sh := 8 * (key % 64)
        let n := 8 * bs.length
        let old := x.data.toNat
        BitVec.ofNat 512 (old - (natBits old (sh + n - 1) sh) * 2 ^ sh + ofBytesLE bs * 2 ^ sh) }) }

/-! ### Conflict notices (12 R293) -/

/-- The pending fences that cover a lane (12 R293). -/
def Crew.fencesOf (c : Crew) (l : Nat) : List PFence := c.fences.filter (fun f => f.lanes.getLsbD l)

/-- Whether a fence covers every lane of its crew that had a thread when it issued: then no lane of the crew acts outside
its speculation. -/
def PFence.whole (f : PFence) : Bool := f.saved.threads.all (fun t => t.2.st == .exited || f.lanes.getLsbD t.1)

/-- The log of a crew without what some lanes did from a place on: their inputs and outputs, and their part of each issue;
a bundle that none of the other lanes issued is no entry (12 R293; 16 R402). -/
def dropLanesFrom (log : List LogEntry) (n : Nat) (m : Lanes) : List LogEntry :=
  log.take n ++ (log.drop n).filterMap (fun e =>
    if e.kind = 2 then
      let rest := BitVec.ofNat 64 e.value &&& ~~~ m
      if rest = 0 then none else some { e with value := rest.toNat }
    else if m.getLsbD e.lane then none else some e)

/-- A crew rolls back to a fence: what its lanes did since is discarded, and the fence stays pending with nothing recorded
(12 R293). Masks, k, latches and the SR number return where the fence covers the whole crew; where it does not, its lanes
have changed none of them (State.sharesCrew). Other lanes and their fences stay as they are. -/
def Crew.rollbackTo (c : Crew) (f : PFence) : Crew :=
  let th := Map.mapVals (fun l t => if f.lanes.getLsbD l then (Map.find? f.saved.threads l).getD t else t) c.core.threads
  let newer := (c.fences.filter (fun g => decide (f.id < g.id))).map (fun g =>
    { g with lanes := g.lanes &&& ~~~ f.lanes, lines := g.lines.filter (fun r => !f.lanes.getLsbD r.2),
             hits := g.hits.filter (fun h => !f.lanes.getLsbD h.lane) })
  let log := if f.whole then c.log.take f.logLen else dropLanesFrom c.log f.logLen f.lanes
  { c with
    core := if f.whole then { f.saved with threads := th } else { c.core with threads := th },
    paths := [], deferred := [], log := log,
    bundles := if f.whole then f.bundles else (log.filter (fun e => e.kind == 2)).length,
    ord := if f.whole then f.ord else c.ord,
    rerun := c.rerun.map (fun r => { r with pos := min r.pos log.length }),
    fences := (c.fences.filter (fun g => decide (g.id < f.id))) ++ [{ f with lines := [], hits := [] }]
      ++ newer.filter (fun g => g.lanes != 0) }

/-- Whether a write of a line is another agent's write to what a fence's lanes have read speculatively: a record made at
a scope narrower than .quad stands in the L1, which only writes through that L1 update (12 R293; 17 R405). -/
def PFence.conflicts (f : PFence) (blk crew : Nat) (port : Nat × Nat) (line : Nat) (w : Writer) : Bool :=
  (decide (3 ≤ f.scope) || w.port == some port) &&
    f.lines.any (fun r => r.1 == line && w.agent != some ⟨blk, crew, r.2⟩)

/-- A crew's conflict with a write of a line: it rolls back to the oldest fence concerned, and what its lanes hold behind
that fence is dropped (12 R293). -/
def State.rollCrew (s : State) (blk crew : Nat) (q : PFence → Bool) : State :=
  match s.crew? blk crew with
  | none => s
  | some (b, c) =>
    match c.fences.find? q with
    | none => s
    | some f =>
      let drop := fun (a : Agent) (h : Option Nat) =>
        a.blk == blk && a.crew == crew && f.lanes.getLsbD a.lane && (match h with | some i => decide (f.id ≤ i) | none => false)
      let s := s.modCrew blk crew (fun c => c.rollbackTo f)
      let s := s.modCore b.core (fun k =>
        { k with posted := k.posted.filter (fun p => !drop p.agent p.fence),
                 copies := k.copies.filter (fun p => !drop p.agent p.fence) })
      s.count b.core b.part 0x0A 0 1

/-- A conflict notice for a line reaches a core: each of its crews with a pending fence that recorded the line rolls back
(12 R293). -/
def State.conflictNotice (s : State) (core line : Nat) : State :=
  s.blocks.foldl (fun s e =>
    if e.2.core ≠ core then s else
    e.2.crews.foldl (fun s w => s.rollCrew e.1 w.1 (fun f => f.lines.any (fun r => r.1 == line))) s) s

/-- Whether a crew is in the midst of its cycle: a notice reaches it at the cycle's end. -/
def State.busyWith (s : State) (blk crew : Nat) : Bool := s.cur.checked && !s.cur.loft && s.cur.blk == blk && s.cur.crew == crew

/-- A notice kept for the crew that the step works for. -/
def State.keepNotice (s : State) (line : Nat) (w : Writer) : State :=
  if s.cur.checked && !s.cur.loft then { s with cur := { s.cur with notices := s.cur.notices ++ [(line, w)] } } else s

/-- A write is performed: every crew that has read the location speculatively, and not written it itself, rolls back
(12 R279, R293); the crew that the step works for, at the end of its cycle. -/
def State.notify (s : State) (line : Nat) (w : Writer) : State :=
  let s := s.keepNotice line w
  s.blocks.foldl (fun s e =>
    e.2.crews.foldl (fun s c =>
      if s.busyWith e.1 c.1 then s else s.rollCrew e.1 c.1 (fun f => f.conflicts e.1 c.1 e.2.port line w)) s) s

/-- The notices that a crew's own cycle has kept for its end. -/
def State.deliverNotices (s : State) (blk crew : Nat) : State :=
  match s.block? blk with
  | none => s
  | some b =>
    let ns := s.cur.notices
    ns.foldl (fun s n => s.rollCrew blk crew (fun f => f.conflicts blk crew b.port n.1 n.2))
      { s with cur := { s.cur with checked := false, notices := [] } }

/-- A write of a line is performed at its home: conflict notices are sent, and an SC page's line is invalidated in every
other L1 than the one it was written through (11 R259 item 3; 12 R279, R293; 17 R405; log 54, DEDUCED). -/
def State.lineWritten (s : State) (key : Nat) (w : Writer) : State :=
  let line := key / 64
  let s := s.cores.foldl (fun s e =>
    s.modCore e.1 (fun c => { c with l1 := (List.range 4).foldl (fun m p =>
      if w.port == some (e.1, p) then m
      else Map.modify m (l1Key p line) (fun x => if x.sc then { x with doomed := true } else x)) c.l1 })) s
  s.notify line w

/-- A granule's tag is a location of its own: its record among a fence's lines (07 R178; 12 R281). -/
def State.tagLine (s : State) (pa : Nat) : Nat := 2 ^ 60 + s.memKey pa / 32

/-- A tag performed. -/
def State.tagWritten (s : State) (pa : Nat) (t : BitVec 4) (w : Writer) : State := (s.setTag pa t).notify (s.tagLine pa) w

/-- Bytes performed at their home. -/
def State.performBytes (s : State) (pa : Nat) (bs : List Byte) (w : Writer) : State :=
  (s.setBytes pa bs).lineWritten (s.memKey pa) w

/-- Bytes written by the D6 itself, or by an agent outside the package, performed at their lines' homes (11 R257, R259; 12
R279). -/
def State.deviceWrite (s : State) (pa : Nat) (bs : List Byte) : State :=
  (lines pa bs.length).foldl (fun s p => s.performBytes p.1 ((bs.drop (p.1 - pa)).take p.2) {}) s

/-- A store updates its own L1's copy; a crew on that L1 that has read the line speculatively at a narrow scope is told by
it (11 R258; 12 R293). -/
def State.l1Write (s : State) (port : Nat × Nat) (pa : Nat) (bs : List Byte) (a : Agent) : State :=
  let line := s.memKey pa / 64
  let s := s.modCore port.1 (fun k => k.l1Store port.2 (s.memKey pa) bs)
  let s := s.keepNotice line ⟨some a, some port⟩
  s.blocks.foldl (fun s e =>
    if e.2.port ≠ port then s else
    e.2.crews.foldl (fun s c =>
      if s.busyWith e.1 c.1 then s
      else s.rollCrew e.1 c.1 (fun f => decide (f.scope < 3) && f.conflicts e.1 c.1 port line ⟨some a, some port⟩)) s) s

/-- The issuing core's own copy of a line leaves its L1 (11 R258, R259 item 5). -/
def State.dropOwn (s : State) (core pa : Nat) : State := s.modCore core (fun c => c.l1Drop (s.memKey pa) 1)

/-! ### Atomic steps (07 R173, R174; 11 R265, R268) -/

/-- A floating-point sum of a 32-bit word: FP32, or two BF16 elements (07 R173). -/
def faddWord (bf2 : Bool) (a b : Nat) : Nat :=
  if bf2 then
    let e := fun i => fitArith bf16 0 0 (Val.sum 0 [bf16.decode (natBits a (16 * i + 15) (16 * i)), bf16.decode (natBits b (16 * i + 15) (16 * i))])
    e 0 + e 1 * 2 ^ 16
  else fp32Rne (Val.sum 0 [fp32.decode a, fp32.decode b])

/-- step(cur, v) of 07 R173 for a word of w bits. -/
def atomStep (aop w cur v : Nat) : Nat :=
  match aop with
  | 0 => (cur + v) % 2 ^ w
  | 1 => if toSigned w v < toSigned w cur then v else cur
  | 2 => if toSigned w cur < toSigned w v then v else cur
  | 3 => min cur v
  | 4 => max cur v
  | 5 => cur &&& v
  | 6 => cur ||| v
  | 7 => cur ^^^ v
  | 8 => v
  | 9 => if v ≤ cur then 0 else cur + 1
  | 10 => if cur = 0 ∨ v < cur then v else cur - 1
  | 11 => faddWord false cur v
  | 12 => faddWord true cur v
  | 13 => exactBits fp32 (Val.minNum (fp32.decode cur) (fp32.decode v))
  | _ => exactBits fp32 (Val.maxNum (fp32.decode cur) (fp32.decode v))

/-- A group performed on a word: the word after, and each lane's old value in lane order (07 R174). -/
def atomGroup (aop w cur : Nat) (vs : List Nat) : Nat × List Nat :=
  if aop = 11 ∨ aop = 12 then
    match vs with
    | [] => (cur, [])
    | v :: rest =>
      let add := faddWord (aop == 12)
      let sums := rest.foldl (fun acc x => acc ++ [add (acc.getLastD v) x]) [v]
      (add cur (sums.getLastD v), cur :: (sums.dropLast.map (add cur)))
  else
    vs.foldl (fun r v => (atomStep aop w r.1 v, r.2 ++ [r.1])) (cur, [])

/-- A compare-and-swap group: pairs of compare value and swap value (07 R173, R174). -/
def casGroup (cur : Nat) (vs : List (Nat × Nat)) : Nat × List Nat :=
  vs.foldl (fun r v => (if r.1 = v.1 then v.2 else r.1, r.2 ++ [r.1])) (cur, [])

/-- One element of a LOP (11 R268). -/
def lopStep (op w cur c : Nat) : Nat :=
  match op with
  | 0 => c
  | 1 => atomStep 0 w cur c
  | 2 => atomStep 1 w cur c
  | 3 => atomStep 2 w cur c
  | 4 => cur &&& c
  | 5 => cur ||| c
  | 6 => cur ^^^ c
  | 7 => faddWord false cur c
  | 8 => fp32Rne ((fp32.decode cur).mul (fp32.decode c))
  | 9 => atomStep 13 w cur c
  | _ => atomStep 14 w cur c

/-! ### Posted requests (12 R459; 11 R257; 13 R327) -/

/-- The bytes that an operation at an address touches, as an address and a length. -/
def HomeOp.range (op : HomeOp) (a : Nat) : Nat × Nat :=
  match op with
  | .store bs => (a, bs.length)
  | .tag _ => (a / 32 * 32, 32)
  | .group _ w _ => (a, if w then 8 else 4)
  | .lop _ w n _ => (a, n * (if w then 8 else 4))
  | .scratch _ bs => (a, bs.length)

/-- Whether two ranges, as address and length, share a byte. -/
def rangesMeet (a b : Nat × Nat) : Bool := decide (a.1 < b.1 + b.2) && decide (b.1 < a.1 + a.2)

/-- The bytes a request touches, where they are now. -/
def Posted.range (p : Posted) : Nat × Nat := p.op.range p.now

/-- Whether a request is to a scratchpad. -/
def Posted.isScratch (p : Posted) : Bool :=
  match p.op with
  | .scratch _ _ => true
  | _ => false

/-- Whether a request is of the crew that made another. -/
def Posted.sameCrew (p q : Posted) : Bool := p.agent.blk == q.agent.blk && p.agent.crew == q.agent.crew

/-- Whether two requests touch an overlapping location of one space. -/
def Posted.meets (p : Posted) (q : Posted) : Bool :=
  (match p.op, q.op with
   | .scratch a _, .scratch b _ => a == b
   | .scratch _ _, _ => false
   | _, .scratch _ _ => false
   | .tag _, .tag _ => true
   | .tag _, _ => false
   | _, .tag _ => false
   | _, _ => true) && rangesMeet p.range q.range

/-- Whether a frame is frozen by a page move (13 R326). -/
def State.isFrozen (s : State) (pa : Nat) : Bool :=
  s.frozen.any (fun f => decide (f.frame ≤ pa / 4096) && decide (pa / 4096 < f.frame + f.count))

/-- The instance number of the L2 slice or Larder bank at an address (11 R257, R262, R275). -/
def State.homeUnit (s : State) (pa : Nat) : Nat :=
  let k := s.homeDie pa * 48 + homeSlice pa
  if aperture pa = 1 then 4 * k + pa / 64 % 4 else k

/-- A service cycle of a unit: its wheel advances by one slot, and a request that its own VF's slot serves is counted. The
units are numbered 576 channels, 288 slices, 1,152 banks (11 R275, R276; 17 R419). Of the requests that wait at a unit
together the model serves one in each cycle: which comes first is a matter of time. -/
def State.turnWheel (s : State) (vf unit inst : Nat) : State :=
  let u := (if unit = 2 then 864 else 576) + inst
  let at_ := Map.get 0 s.wheelAt u
  let slot := (s.reg .wheel (64 * u + at_)).toNat
  let s : State := { s with wheelAt := Map.set 0 s.wheelAt u ((at_ + 1) % 64) }
  if natBit slot 7 && natBits slot 5 0 == vf then s.countShared vf unit inst 2 1 else s

/-- What a request of a VF at the home of an address costs that the model does not settle, in free counts: service cycles for
which it waits; of an L2 slice a miss, perhaps of a line that another VF's fill evicted; and at a channel of the line's stack
the transfers, those among them in the VF's own slots, and their waits (17 R419; log 40, DESIGN CHOICE). -/
def State.countDepth (s : State) (vf unit pa : Nat) : State :=
  let free := fun k => Config.freeTally k s.clk pa
  let s := s.countShared vf unit (s.homeUnit pa) 1 (free 0)
  if unit = 2 then s
  else
    let miss := free 1 % 2
    let s := (s.countShared vf 1 (s.homeUnit pa) 3 miss).countShared vf 1 (s.homeUnit pa) 4 (miss * (free 2 % 2))
    if aperture pa ≠ 0 then s
    else
      let chan := 32 * s.homeStack pa + free 3 % 32
      ((s.countShared vf 0 chan 0 (free 4)).countShared vf 0 chan 1 (free 5)).countShared vf 0 chan 2 (min (free 4) (free 6))

/-- One request of a VF served at the home of an address, counted; a peer's line is served at the peer (17 R419; 18
R437). -/
def State.countHome (s : State) (vf pa : Nat) : State :=
  if aperture pa = 3 then s
  else
    let unit := if aperture pa = 1 then 2 else 1
    let s := if s.tallies vf then s.countDepth vf unit pa else s
    (s.countShared vf unit (s.homeUnit pa) 0 1).turnWheel vf unit (s.homeUnit pa)

/-- A request performed at its home; a reduction and a range update leave their core no older copy of the line
(11 R257 to R259, R268). -/
def State.perform (s : State) (core : Nat) (p : Posted) : State :=
  let w : Writer := ⟨some p.agent, some (core, s.partOf p.agent.blk)⟩
  match p.op with
  | .scratch b bs => s.scratchWrite b p.addr bs
  | .store bs => s.performBytes p.addr bs w
  | .tag t => s.tagWritten p.addr t w
  | .group aop w64 vs =>
    let n := if w64 then 8 else 4
    let r := atomGroup aop (8 * n) (s.num p.addr n) (vs.map (fun v => v.toNat % 2 ^ (8 * n)))
    (s.performBytes p.addr (toBytesLE n r.1) w).dropOwn core p.addr
  | .lop op w64 n c =>
    let k := if w64 then 8 else 4
    (List.range n).foldl (fun s i =>
      let a := p.addr + k * i
      (s.performBytes a (toBytesLE k (lopStep op (8 * k) (s.num a k) (c.toNat % 2 ^ (8 * k)))) w).dropOwn core a |>.countShared
        p.vf 2 (s.homeUnit a) 3 1 |>.countHome p.vf a) s

/-- Whether an earlier request of the core that has returned MOVED stands before one of its crew to the same page
(13 R327). -/
def Posted.blocks (q p : Posted) : Bool :=
  q.moved && q.sameCrew p && !q.isScratch && !p.isScratch && q.now / 4096 == p.now / 4096

/-- Whether the k-th request of a core may be performed: no fence holds it, and of the earlier requests that no fence
holds none meets it, none stands before a release, and none to its page has returned MOVED (12 R285, R293, R459;
13 R327). -/
def mayPerform (l : List Posted) (k : Nat) : Bool :=
  match l[k]? with
  | none => false
  | some p =>
    p.fence.isNone && !p.moved &&
      (l.take k).all (fun q => q.fence.isSome || (!q.meets p && !p.release && !q.blocks p))

/-- The k-th request of a core reaches its home; at a frozen line it returns MOVED, and is counted (11 R257; 13 R327). -/
def State.homeRequest (s : State) (core k : Nat) : State :=
  if mayPerform (s.core core).posted k then
    match (s.core core).posted[k]? with
    | none => s
    | some p =>
      if !p.isScratch && s.isFrozen p.addr then
        (s.modCore core (fun c => { c with posted := c.posted.set k { p with moved := true } })).countShared p.vf 1 (s.homeUnit p.addr) 5 1
      else
        let s := (s.modCore core (fun c => { c with posted := c.posted.eraseIdx k })).perform core p
        match p.op with
        | .scratch _ _ => s
        | .lop _ _ _ _ => s
        | _ => s.countHome p.vf p.addr
  else s

/-- Whether the k-th request of a core has returned MOVED and may be replayed: those of one crew to one page are, in the
order they were issued (13 R327). -/
def mayReplay (l : List Posted) (k : Nat) : Bool :=
  match l[k]? with
  | none => false
  | some p => p.moved && !(l.take k).any (fun q => q.blocks p)

/-- The k-th request of a core is replayed: it goes to where its page is now (13 R327). -/
def State.replayMoved (s : State) (core k : Nat) : State :=
  if mayReplay (s.core core).posted k then
    s.modCore core (fun c => { c with posted := c.posted.modify k (fun p => { p with addr := p.now, moved := false, due := s.gts }) })
  else s

/-- The k-th request of a core comes to its end: at its home, or at the home that its page has moved to. -/
def State.arrive (s : State) (core k : Nat) : State := ((s.homeRequest core k).replayMoved core k)

/-- How many requests of a list stand up to the last one that meets a test. -/
def upTo (test : Posted → Bool) : List Posted → Nat
  | [] => 0
  | p :: l => if upTo test l = 0 then bit01 (test p) else upTo test l + 1

/-- Every request up to the last that meets a test is performed, in order; requests that a fence holds stay. A request that
returns MOVED on the way is replayed and then performed (13 R327). -/
def State.drain (s : State) (core : Nat) (test : Posted → Bool) : State :=
  let l := (s.core core).posted
  let ids := (l.take (upTo test l)).map (fun p => p.id)
  (List.range (2 * ids.length)).foldl (fun s _ =>
    let l := (s.core core).posted
    match (List.range l.length).find? (fun k => (mayPerform l k || mayReplay l k) &&
        (match l[k]? with | some p => decide (p.id ∈ ids) | none => false)) with
    | none => s
    | some k => s.arrive core k) s

/-- Whether a posted request touches a byte range of memory; a tag is no byte. -/
def Posted.touches (p : Posted) (pa n : Nat) : Bool :=
  match p.op with
  | .scratch _ _ => false
  | .tag _ => false
  | _ => rangesMeet p.range (pa, n)

/-- Whether a posted request, a tag's too, goes to a place within a physical range. -/
def Posted.within (p : Posted) (pa n : Nat) : Bool := !p.isScratch && rangesMeet (p.op.range p.addr) (pa, n)

/-- How long a posted request waits in the core at most before it reaches its home (12 R291; log 5, DESIGN CHOICE). -/
def postDelay : Nat := 64

/-- A request posted by the core of a block (12 R459). -/
def State.post (s : State) (core : Nat) (a : Agent) (vf pa va : Nat) (op : HomeOp) (rel : Bool) (scope : Nat)
    (fence : Option Nat) : State :=
  let (i, s) := s.takeId
  s.modCore core (fun c => { c with posted := c.posted ++ [⟨i, a, vf, pa, va, op, rel, scope, fence, s.gts + postDelay, false, pa⟩] })

/-- n bytes of an L1 line from an address. -/
def L1Line.num (x : L1Line) (key n : Nat) : Nat := natBits x.data.toNat (8 * (key % 64) + 8 * n - 1) (8 * (key % 64))

/-- A load of n bytes served beyond the L1: own earlier requests to the bytes are performed first (12 R282, R459). The
L1 keeps its line (11 R258); where the bytes at home are not the line's, plain loads of it are served beyond the L1 too from
now on, or one of them would read an older write than this load (12 R282; log 6, DEDUCED). -/
def State.loadHome (s : State) (core part vf pa n : Nat) : Nat × State :=
  let s := (s.drain core (fun p => p.touches pa n)).countHome vf pa
  let key := s.memKey pa
  (s.num pa n, s.modCore core (fun c =>
    { c with l1 := Map.modify c.l1 (l1Key part (key / 64)) (fun x => { x with behind := x.behind || x.num key n != s.num pa n }) }))

/-- Lines of an L1: 256 KiB (11 R258). -/
def l1Lines : Nat := 4096

/-- The lines that a partition's L1 ways hold. -/
def CoreState.l1Of (c : CoreState) (part : Nat) : Map L1Line := c.l1.filter (fun e => e.1 / 2 ^ 52 == part)

/-- A line filled into its partition's share of the ways; where that is full, one of its lines, freely chosen, is evicted
(11 R258, R259 item 4; 17 R405; log 40, DESIGN CHOICE). -/
def State.l1Fill (s : State) (core part key : Nat) (x : L1Line) : State :=
  let l := (s.core core).l1Of part
  let put := fun (m : Map L1Line) => Map.insert m (l1Key part (key / 64)) x
  if l.length < l1Lines / modeParts (s.mode core) then s.modCore core (fun c => { c with l1 := put c.l1 })
  else
    let (i, s) := s.pick l.length
    s.modCore core (fun c => { c with l1 := put (Map.erase c.l1 ((Map.keys l).getD i 0)) })

/-- A plain load through its partition's L1: a hit reads the line; a miss fills it from its home (11 R258). A reduction or range update
of the core to the bytes, which only its home performs, is performed first (12 R282). -/
def State.loadL1 (s : State) (core part vf pa n : Nat) (sc : Bool) : Nat × State :=
  let key := s.memKey pa
  let s := s.drain core (fun p => p.touches pa n && (match p.op with | .store _ => false | _ => true))
  match Map.find? (s.core core).l1 (l1Key part (key / 64)) with
  | some x => if x.behind then s.loadHome core part vf pa n else (x.num key n, s)
  | none =>
    let s := (s.drain core (fun p => p.touches (pa / 64 * 64) 64)).countHome vf pa
    (s.num pa n, (s.l1Fill core part key { data := s.lineData pa, sc := sc }).count core part 0x0C 0 1)

/-! ### Watchpoints (17 R427, R428) -/

/-- Whether an entry of a launch's watchpoint table is in force. -/
def watchValid (e : Nat) : Bool :=
  natBit e 127 && !natBit e 57 && natBits e 126 124 != 2 && natBits e 126 124 != 7

/-- The scopes of the watchpoint entries that an access of a thread hits: space 0 global or 1 the scratchpad of block
`target`, the bytes, the kind 0 read, 1 write, 2 atomic (17 R428). -/
def State.watchHits (s : State) (b : Block) (thread : Nat) (space target addr n kind : Nat) : List Nat :=
  match Map.find? s.launches b.launch with
  | none => []
  | some l =>
    (List.range 8).filterMap (fun i =>
      let e := natBits l.watch.toNat (128 * i + 127) (128 * i)
      let blk := natBits e 109 70
      let at_ := (Map.findBy (fun _ x => x.launch == b.launch && x.index == blk) s.blocks).map Prod.snd
      let a := addr % 2 ^ 57
      if watchValid e && natBit e (121 + kind) && natBits e 120 120 == space && (space == 0 || target == blk)
        && decide (a ≤ natBits e 56 0 + natBits e 69 58) && decide (natBits e 56 0 < a + n)
        && (match natBits e 126 124 with
            | 0 => b.index == blk && thread == natBits e 119 110
            | 1 => b.index == blk
            | 3 => (match at_ with | some x => x.core / 4 == b.core / 4 | none => false)
            | 4 => (match at_ with | some x => x.core / 64 == b.core / 64 | none => false)
            | _ => true) then some (natBits e 126 124) else none)

/-- A lane's access noted where it hits a watchpoint, with the address that it names (a scratchpad's may be a window's: 20
R451). The bundle's end reports it (17 R429), or for a speculative access the end of the newest fence that its lane stands
behind (12 R294). -/
def State.noteNamed (s : State) (b : Block) (l thread space target addr named n kind : Nat) : State :=
  match s.watchHits b thread space target addr n kind with
  | [] => s
  | hs =>
    let h : Hit := ⟨l, s.cur.slot, s.cur.units.getD s.cur.slot 0, s.cur.pc.toNat, listMax hs, named, kind⟩
    match (match s.gang? with | some (_, c) => (c.fencesOf l).getLast? | none => none) with
    | some f => s.modCrew s.cur.blk s.cur.crew (fun c =>
        { c with fences := c.fences.map (fun g => if g.id = f.id then { g with hits := g.hits ++ [h] } else g) })
    | none => { s with cur := { s.cur with hits := s.cur.hits ++ [h] } }

/-- A lane's access of a global address noted. -/
def State.noteWatch (s : State) (b : Block) (l thread space target addr n kind : Nat) : State :=
  s.noteNamed b l thread space target addr addr n kind

end Sys2Proof.Machine
end

