-- ==== Sys2Proof/Machine/Fetch.lean ====
section
/-! DEFINITION. Fetching a bundle's words through translation and the I-cache (03 R42, R65; 15 R361, R362), and what a
bundle is decoded against. -/

namespace Sys2Proof.Machine

/-- What a block's thread bundles are decoded against (03 R54). -/
def Block.env (b : Block) : DecodeEnv :=
  { loft := false, regs := hdrRegs b.header, kregs := hdrKregs b.header, width := b.width, shadow := hdrShadow b.header,
    tiles := 0, hatch := 0, beatMul := 1, fslots := [] }

/-- What a Loft context's bundles are decoded against (03 R55; 08 R182, R188, R195). -/
def Block.loftEnv (s : State) (b : Block) (x : LoftCtx) : DecodeEnv :=
  { loft := true, regs := hdrRegs b.header, kregs := hdrKregs b.header, width := b.width, shadow := none,
    tiles := recTiles b.record, hatch := hatchMask x.frame.descs, beatMul := modeParts (s.mode b.core),
    fslots := (List.range 8).map (recSlot b.record) }

/-- The line that a function has fetched and a core's I-cache holds of a physical address, with its place: a fetch hits only
what its own VF fetched (15 R362). -/
def State.icFind (s : State) (core vf pa : Nat) : Option (Nat × ICLine) :=
  Map.findBy (fun _ l => l.vf == vf && l.line == s.memKey pa / 64) (s.core core).icache

/-- A fetched word: the one the I-cache holds, or memory's (15 R361). -/
def State.codeWord (s : State) (core vf pa : Nat) : BitVec 64 :=
  match s.icFind core vf pa with
  | some (_, l) => l.data.extractLsb' (pa % 64 / 8 * 64) 64
  | none => BitVec.ofNat 64 (s.num (pa / 8 * 8) 8)

/-- Whether a physical range holds a poisoned byte (16 R401). -/
def State.poisoned (s : State) (pa n : Nat) : Bool :=
  let k := s.memKey pa
  s.poison.any (fun a => decide (k ≤ a) && decide (a < k + n))

/-- Whether a word that the I-cache does not hold is poisoned where it stands (16 R401). -/
def State.badWord (s : State) (core vf pa : Nat) : Bool := (s.icFind core vf pa).isNone && s.poisoned (pa / 8 * 8) 8

/-- The ways of a core that a function may allocate in (15 R362). -/
def State.waysOf (s : State) (core vf : Nat) : List Nat :=
  (List.range 16).filter (fun w =>
    let x := (Map.get 0x40 (s.core core).icway w).toNat
    natBit x 6 && natBits x 5 0 == vf)

/-- When a place of the I-cache was last used: an empty one before every other. -/
def CoreState.icUsed (c : CoreState) (key : Nat) : Nat := match Map.find? c.icache key with | some l => l.used + 1 | none => 0

/-- What a fetch does to the I-cache: a hit is used; a miss takes, of the function's ways, the least recently used place of
the line's set. A line that holds poisoned bytes is not kept (15 R362; log 77, DESIGN CHOICE). -/
def State.icTouch (s : State) (core vf pa : Nat) : State :=
  match s.icFind core vf pa with
  | some (k, l) => s.modCore core (fun c => { c with icache := Map.insert c.icache k { l with used := s.clk } })
  | none =>
    if s.poisoned (pa / 64 * 64) 64 then s
    else
      let line := s.memKey pa / 64
      let c := s.core core
      match sortBy (fun a b => decide (c.icUsed a < c.icUsed b)) ((s.waysOf core vf).map (fun w => 128 * w + line % 128)) with
      | [] => s
      | k :: _ => s.modCore core (fun c =>
          { c with icache := Map.insert c.icache k ⟨vf, line, BitVec.ofNat 512 (s.num (pa / 64 * 64) 64), s.clk⟩ })

/-- What fetching a bundle meets: its words as far as E = 1 or four of them, with the translations used; or a cause. -/
inductive Fetched where
  | words (ws : List (BitVec 64)) (used : List (TlbEntry × List (Nat × Nat) × Nat))
  | fail (cause va ipa kind : Nat)
  | wait
deriving DecidableEq, Repr

/-- An address of a kernel's own code or tables translated: a joined kernel stands in the splice cache, which is named by
physical address alone (15 R372; log 24, DEDUCED). -/
def State.codeTrans (s : State) (b : Block) (va kind : Nat) : TRes :=
  if b.spliced then
    if s.backed va then .ok va ⟨0, 0, 0, 0, 0, 0, true, false, true, false, false, false, false, false, 0⟩ []
    else .fail 0x087 va va kind
  else translate s b.tctx va kind

/-- The words of a bundle from an address: up to n more, ending after E = 1 (03 R42). -/
def fetchWords (s : State) (b : Block) (pc : Nat) : Nat → Nat → Fetched
  | 0, _ => .words [] []
  | n + 1, k =>
    match s.codeTrans b (pc + 8 * k) 3 with
    | .fail c v i kd => .fail c v i (if kd = 6 then 6 else 3)
    | .wait => .wait
    | .ok pa e ups =>
      let w := s.codeWord b.core b.vf pa
      if s.badWord b.core b.vf pa then .fail 0x095 (pc + 8 * k) 0 3
      else if w.getLsbD 63 then .words [w] [(e, ups, pa)]
      else
        match fetchWords s b pc n (k + 1) with
        | .words ws us => .words (w :: ws) ((e, ups, pa) :: us)
        | r => r

/-- The bundle at an address as it would be fetched. -/
def State.fetch (s : State) (b : Block) (pc : Nat) : Fetched := fetchWords s b pc 4 0

/-- The effects of a fetch: the translations' and the I-cache's (13 R310; 15 R362). -/
def State.useFetch (s : State) (b : Block) (us : List (TlbEntry × List (Nat × Nat) × Nat)) : State :=
  let s := if b.spliced then s else us.foldl (fun s u => s.useTrans b.tctx u.1 u.2.1) s
  us.foldl (fun s u => s.icTouch b.core b.vf u.2.2) s

/-- Whether the bundle at an address holds a SAFEPT; an address that cannot be fetched is left to fault there
(04 R88; 15 R359). -/
def State.safeTarget (s : State) (b : Block) (pc : Nat) : Bool :=
  match s.fetch b pc with
  | .words ws _ => ws.any (fun w => natBits w.toNat 62 60 == 3 && natBits w.toNat 59 50 == 0x039)
  | _ => true

end Sys2Proof.Machine
end

