-- ==== Sys2Proof/Machine/Verdict.lean ====
section
/-! DEFINITION. What stands between a lane and its bundle's commit: every check that can fault it, hold it for a page, put
it to sleep, make it wait, or roll its crew back, made before any access leaves the core (03 R43; 07 R167; 11 R268,
R271; 12 R293, R294; 13 R319). -/

namespace Sys2Proof

open Machine

/-- The guard of a slot instruction (03 R45). -/
def Instr.guard : Instr → Guard
  | .iadd f | .isub f | .iadc f | .isbc f | .imul f | .imulh f | .imad f | .imadw f => f.g
  | .idiv f | .imin f | .imax f | .iabs f | .idp4 f | .isad f | .and f | .or f => f.g
  | .xor f | .andn f | .shl f | .shr f | .sar f | .rot f | .bfx f | .bfi f => f.g
  | .popc f | .clz f | .brev f | .prmt f | .icmp f | .itst f | .mov f | .lea f => f.g
  | .ccrd f | .ccwr f | .shfl f | .vote f | .matchL f => f.g
  | .iaddi f | .andi f | .ori f | .xori f | .icmpi f | .li f | .lih f | .qli f => f.g
  | .lop3 f | .shf f | .sel f | .f2i f | .i2f f | .fcvt f | .f2n f | .n2f f => f.g
  | .redPush f | .redMov f | .redClr f | .chk f | .brx f | .callx f | .ret f | .exit f => f.g
  | .join f | .leave f | .waitm f | .mset f | .mop f | .mrd f | .mwr f | .bar f => f.g
  | .sbar f | .fence f | .cp f | .lop f | .hatch f | .safept f | .shelf f | .launch f => f.g
  | .trap f | .bkpt f | .yield f | .gts f | .cnt f | .evt f | .nsleep f | .qadd f => f.g
  | .qsub f | .qmul f | .qshl f | .qand f | .qcmp f | .qmov f | .qwait f | .qsig f => f.g
  | .unhatch f | .tresume f | .qsafe f | .tfence f => f.g
  | .fadd f | .fsub f | .fmul f | .ffma f | .fmin f | .fmax f | .fcmp f | .frnd f => f.g
  | .fdp2 f | .dadd f | .dmul f | .dfma f | .dcmp f | .hadd2 f | .hmul2 f | .hfma2 f => f.g
  | .hmin2 f | .hmax2 f | .rcp f | .rsq f | .sqrt f | .ex2 f | .lg2 f | .sin f => f.g
  | .cos f | .tanh f => f.g
  | .ldG f | .stG f | .ldS f | .stS f | .ldC f | .stC f | .ldL f | .stL f => f.g
  | .ldQ f | .stQ f | .waita f | .tagr f | .tagw f | .pref f => f.g
  | .atomS f | .casS f | .atomH f | .redH f | .casH f => f.g
  | .bra f | .call f | .qbra f | .qloop f => f.g
  | .tld f | .tst f | .tcp f | .txp f | .tgat f | .tfill f | .tzero f | .tmma f => f.g
  | .tadd f | .tmul f | .tfma f | .tmax f | .tact f | .tscale f | .tred f | .tamax f => f.g
  | .tminmax f | .tqnt f | .tdqt f | .tcvt f | .topt f => f.g
  | .tgemm f => f.g
  | _ => ⟨0, 0⟩

/-- Whether an instruction rounds by SR, or may (02 R33; 06 R133, R145, R146). -/
def Instr.roundsBySr : Instr → Bool
  | .fadd f | .fsub f | .fmul f | .ffma f | .frnd f | .fdp2 f | .dadd f | .dmul f | .dfma f | .hadd2 f | .hmul2 f
  | .hfma2 f => f.rm == 5
  | .f2i f | .i2f f | .fcvt f => Machine.natBits f.x.toNat 8 6 == 5
  | .f2n _ => true
  | _ => false

/-- Whether an instruction acts on what the lanes of a crew share: k registers, masks, sum latches, the SR number, the Shelf,
or one another's registers (04 R80, R85; 05 R127; 06 R150). -/
def Instr.sharesCrew (i : Instr) (env : DecodeEnv) : Bool :=
  i.roundsBySr ||
    (i.sig env).dests.any (fun d => match d with
      | .reg r => decide (192 ≤ r) && decide (r < 240)
      | .latch _ => true
      | _ => false) ||
    (match i with
     | .join _ | .leave _ | .mset _ | .mop _ | .mwr _ | .shfl _ | .vote _ | .matchL _ | .redPush _ | .redMov _ | .redClr _
     | .shelf _ => true
     | _ => false)

/-- The address layout of unit-M form M. -/
def ArgsM.va (f : ArgsM) (s : State) (unit l : Nat) : Nat := s.wideAddr f.a f.b f.sc f.off.toInt unit l
def ArgsM.small (f : ArgsM) (s : State) (l : Nat) : Option Nat := s.smallAddr f.a f.b f.sc f.off.toInt (Machine.sizeOf f.sz) l
/-- The width of an atomic in bytes. -/
def ArgsAt.bytes (f : ArgsAt) : Nat := if f.aw then 8 else 4
/-- An atomic's address; a compare-and-swap's B field is its compare register, not an index (03 R48). -/
def ArgsAt.va (f : ArgsAt) (s : State) (cas : Bool) (l : Nat) : Nat :=
  s.wideAddr f.a (if cas then 240 else f.b) f.sc f.off.toInt f.bytes l
def ArgsAt.small (f : ArgsAt) (s : State) (cas : Bool) (l : Nat) : Option Nat :=
  s.smallAddr f.a (if cas then 240 else f.b) f.sc f.off.toInt f.bytes l

/-- WAITA's address: a register and an offset in 4-byte units (07 R175). -/
def ArgsM.flagAddr (f : ArgsM) (s : State) (l : Nat) : Option Nat := s.smallAddr f.a 240 0 f.off.toInt 4 l

end Sys2Proof

namespace Sys2Proof.Machine

/-- What a slot's checks say of a lane. -/
inductive Verdict where
  | ok
  | fault (cause addr kind : Nat)
  /-- waits for a page: what its request says, and the translation it serves -/
  | hold (cause va ipa kind at_ : Nat)
  | sleep (ea : Nat)
  | stall
  /-- waits for an entry of the copy queue, which counts toward no wait limit (11 R269) -/
  | full
  | ringFull
  | barStall (bar : Nat)
  | mismatch
deriving DecidableEq, Repr

/-- The first verdict of a list that is not ok. -/
def firstBad : List Verdict → Verdict
  | [] => .ok
  | .ok :: vs => firstBad vs
  | v :: _ => v

/-- The thread of a lane as it stands. -/
def Crew.thread (c : Crew) (l : Nat) : Thread := (Map.find? c.core.threads l).getD {}

/-- A translation's failure as a verdict: recoverable causes hold, or with no request ring fault as 0x086
(13 R314; 18 R440). at_ names the translation (State.transKey). -/
def State.transVerdict (s : State) (vf cause va ipa kind at_ : Nat) : Verdict :=
  if recoverable cause then
    if natBits (s.reg .prqbase vf).toNat 51 13 = 0 then .fault 0x086 va kind else .hold cause va ipa kind at_
  else .fault cause va kind

/-- A translation of the bundle by its slot and address: what a REFUSE is remembered by (13 R317). -/
def State.transKey (s : State) (va : Nat) : Nat := s.cur.slot * 2 ^ 64 + va

/-- The translation of a bundle's fetch, which belongs to no slot. -/
def fetchKey (pc : Nat) : Nat := 4 * 2 ^ 64 + pc

/-- The crew, or 64 for the Loft context, that the step works for. -/
def Cursor.who (c : Cursor) : Nat := if c.loft then 64 else c.crew

/-- Whether a request of the crew or context at work to the page of an address has returned MOVED and is not replayed yet:
its later accesses to the page wait (13 R327). -/
def State.movedPage (s : State) (core pa : Nat) : Bool :=
  (s.core core).posted.any (fun p => p.moved && p.agent.blk == s.cur.blk && p.agent.crew == s.cur.who && !p.isScratch
    && p.now / 4096 == pa / 4096)

/-- Whether a fence holds a TAGW of the core to a granule of a range: later checks against that tag wait for it
(07 R178; 12 R293). -/
def State.heldTag (s : State) (core pa n : Nat) : Bool :=
  (s.core core).posted.any (fun p => match p.op with | .tag _ => rangesMeet p.range (pa, n) | _ => false)

/-- Whether a granule of a physical range has another tag than an address carries (07 R167 check 8); a range of no bytes
has none. -/
def State.tagDiffers (s : State) (va pa n : Nat) : Bool :=
  (List.range (if n = 0 then 0 else (pa % 32 + n + 31) / 32)).any (fun k => natBits va 63 60 != (s.tag (pa + 32 * k)).toNat)

/-- The checks of a global or Larder access of n bytes within a page, aligned to a unit (07 R167, checks 1, 5 to 8). A
translation that a REFUSE has answered raises 0x086 (13 R317). -/
def State.globalCheck (s : State) (b : Block) (t : Thread) (va unit n kind : Nat) (larder tags : Bool) : Verdict :=
  if natBits va 59 57 ≠ 0 then .fault 0x089 va kind
  else if va % unit ≠ 0 then .fault 0x088 va kind
  else if t.refused = some (s.transKey va) then .fault 0x086 va kind
  else
    match translate s b.tctx va kind with
    | .wait => .stall
    | .fail c v i k =>
      match s.transVerdict b.vf c (if k = 6 then 0 else v) i (if k = 6 then 6 else kind) (s.transKey va) with
      | .fault c2 _ _ => .fault c2 va kind
      | r => r
    | .ok pa e _ =>
      if larder && !e.larder then .fault 0x08B va kind
      else if s.isFrozen pa || s.movedPage b.core pa || s.heldTag b.core pa n then .stall
      else if tags && e.tg && s.tagDiffers va pa n then .fault 0x08A va kind
      else .ok

/-- The checks of a scratchpad access (07 R167, checks 2, 3 and 5). -/
def State.scratchCheck (s : State) (blk : Nat) (b : Block) (window : Bool) (o : Option Nat) (n kind : Nat) : Verdict :=
  match o with
  | none => .fault (if window && !recQuad b.record then 0x092 else 0x090) 0 kind
  | some a =>
    match s.scratchTarget blk b window a with
    | .inl c => .fault c a kind
    | .inr (_, size, off) =>
      if size < off + n then .fault 0x090 a kind else if off % n ≠ 0 then .fault 0x088 a kind else .ok

/-- The checks of a cubby access (07 R167, checks 4 and 5). -/
def cubbyCheck (b : Block) (o : Option Nat) (n kind : Nat) : Verdict :=
  match o with
  | none => .fault 0x091 0 kind
  | some a => if hdrCubby b.header < a + n then .fault 0x091 a kind else if a % n ≠ 0 then .fault 0x088 a kind else .ok

/-- Speculation past a pending fence: an access that would fault or wait for a page waits for the fence (12 R294). -/
def Verdict.speculative (v : Verdict) (pending : Bool) : Verdict :=
  if pending then match v with | .ok => .ok | _ => .stall else v

/-- What may not pass a pending fence stalls at issue (12 R293). -/
def Verdict.fenced (v : Verdict) (pending : Bool) : Verdict := if pending then .stall else v

/-- Whether an own request that a fence holds touches the bytes: later accesses are held behind it (12 R459). -/
def State.heldBytes (s : State) (core pa n : Nat) : Bool :=
  (s.core core).posted.any (fun p => p.fence.isSome && p.touches pa n)

/-- The same for a scratchpad window. -/
def State.heldScratch (s : State) (core blk off n : Nat) : Bool :=
  (s.core core).posted.any (fun p => match p.op with
    | .scratch b bs => b == blk && decide (p.addr < off + n) && decide (off < p.addr + bs.length)
    | _ => false)

/-- Whether an access of a lane would pass a request of its crew that a fence holds which does not cover the lane: it waits,
so that the crew's accesses to the bytes keep their order (07 R170; 12 R282, R459). -/
def State.passesHeld (s : State) (core : Nat) (c : Crew) (l : Nat) (touch : Posted → Bool) : Bool :=
  (s.core core).posted.any (fun p => p.agent.blk == s.cur.blk && p.agent.crew == s.cur.crew && touch p &&
    (match p.fence with
     | some i => !(c.fencesOf l).any (fun f => f.id == i)
     | none => false))

/-- A store, a reduction or a range update waits where it would pass such a request. -/
def State.inOrder (s : State) (b : Block) (c : Crew) (l va n kind : Nat) (v : Verdict) : Verdict :=
  match v, translate s b.tctx va kind with
  | .ok, .ok pa _ _ => if s.passesHeld b.core c l (fun p => p.touches pa n) then .stall else .ok
  | v, _ => v

/-- Whether an access that reads n bytes of memory consumes a poisoned one (16 R401): a byte that an earlier store of the core
is to replace is not consumed, nor, where the L1 of a partition serves the access, one of a line that it holds. -/
def State.consumes (s : State) (core pa n : Nat) (l1 : Option Nat) : Bool :=
  let k := s.core core
  s.poison.any (fun a => decide (s.memKey pa ≤ a) && decide (a < s.memKey pa + n)
    && !k.posted.any (fun p => match p.op with
      | .store bs => decide (s.memKey p.now ≤ a) && decide (a < s.memKey p.now + bs.length)
      | _ => false)
    && !(l1.any (fun p => (Map.find? k.l1 (l1Key p (a / 64))).any (fun x => !x.behind))))

/-- A reading access of n bytes within a page that has passed its checks raises 0x095 where it consumes poison (16 R401). -/
def State.sound (s : State) (b : Block) (va n kind : Nat) (l1 : Bool) (v : Verdict) : Verdict :=
  match v, translate s b.tctx va kind with
  | .ok, .ok pa e _ => if s.consumes b.core pa n (if l1 && !e.larder then some b.part else none) then .fault 0x095 va kind else .ok
  | v, _ => v

/-- Whether n bytes of a block's scratchpad hold a poisoned one. -/
def State.spoiltScratch (s : State) (blk off n : Nat) : Bool :=
  (s.block? blk).any (fun x => x.spoilt.any (fun a => decide (off ≤ a) && decide (a < off + n)))

/-- A load waits behind an own held store to its bytes; then what it consumes must be sound. -/
def State.behindHeld (s : State) (b : Block) (va n kind : Nat) (l1 : Bool) (v : Verdict) : Verdict :=
  match v, translate s b.tctx va 0 with
  | .ok, .ok pa _ _ => if s.heldBytes b.core pa n then .stall else s.sound b va n kind l1 .ok
  | v, _ => v

/-- The same for a scratchpad access. -/
def State.behindScratch (s : State) (blk : Nat) (b : Block) (window : Bool) (o : Option Nat) (n kind : Nat) (v : Verdict) : Verdict :=
  match v, o with
  | .ok, some a =>
    match s.scratchTarget blk b window a with
    | .inr (t, _, off) =>
      if s.heldScratch b.core t off n then .stall else if s.spoiltScratch t off n then .fault 0x095 a kind else .ok
    | .inl _ => .ok
  | v, _ => v

/-- A cubby load that has passed its checks raises 0x095 where it consumes poison (16 R401). -/
def Thread.soundCubby (t : Thread) (o : Option Nat) (n : Nat) (v : Verdict) : Verdict :=
  match v, o with
  | .ok, some a => if t.spoilt.any (fun k => decide (a ≤ k) && decide (k < a + n)) then .fault 0x095 a 0 else .ok
  | v, _ => v

/-- Whether the L1 serves a load of an order and scope, where no fence keeps it beyond (11 R258; 12 R293). -/
def servedByL1 (ord scope : Nat) (wide : Bool) : Bool := !wide && (ord == 0 || decide (scope < 3))

/-- A store to a scratchpad waits where it would pass a request of its crew that another lane's fence holds. -/
def State.inOrderScratch (s : State) (b : Block) (c : Crew) (l : Nat) (window : Bool) (o : Option Nat) (n : Nat) (v : Verdict) :
    Verdict :=
  match v, o with
  | .ok, some a =>
    match s.scratchTarget s.cur.blk b window a with
    | .inr (t, _, off) =>
      if s.passesHeld b.core c l (fun p => match p.op with
        | .scratch d bs => d == t && rangesMeet (p.addr, bs.length) (off, n)
        | _ => false) then .stall else .ok
    | .inl _ => .ok
  | v, _ => v

/-- A copy as a CP or TCP describes it (11 R270; 08 R204). -/
structure CopyDesc where
  src : Nat
  dst : Nat
  len : Nat
  flag : Nat
  value : Nat
  pad : Nat
  ssp : Bool
  dsp : Bool
  fw : Bool
  acq : Bool
  rel : Bool
  scope : Nat

/-- The checks of a copy request before it is queued: a cause with its address (11 R271). -/
def copyCheck (size : Nat) (c : CopyDesc) : Option (Nat × Nat) :=
  let badS := fun a => decide (a / 2 ^ 31 ≠ 0) || decide (size < a + c.len)
  let badG := fun a => decide (natBits a 59 57 ≠ 0) || decide (2 ^ 57 < a % 2 ^ 57 + c.len)
  if c.len % 4 ≠ 0 ∨ c.pad ≠ 0 ∨ (c.fw && c.flag % 4 != 0) then some (0x094, 0)
  else if c.ssp && badS c.src then some (0x090, c.src)
  else if c.dsp && badS c.dst then some (0x090, c.dst)
  else if c.fw && decide (size < c.flag + 4) then some (0x090, c.flag)
  else if !c.ssp && badG c.src then some (0x089, c.src)
  else if !c.dsp && badG c.dst then some (0x089, c.dst)
  else if c.src % 4 ≠ 0 then some (0x088, c.src)
  else if c.dst % 4 ≠ 0 then some (0x088, c.dst)
  else none

/-- CP's request in a lane (11 R270). -/
def cpDesc (s : State) (f : ArgsR) (l : Nat) : CopyDesc :=
  let q := s.srcQuad f.c l
  { src := s.src true f.a l, dst := s.src true f.b l, len := q.getD 0 0, flag := q.getD 1 0, value := q.getD 2 0,
    pad := q.getD 3 0, ssp := f.x.getLsbD 6, dsp := f.x.getLsbD 7, fw := f.x.getLsbD 5, acq := f.x.getLsbD 0,
    rel := f.x.getLsbD 1, scope := natBits f.x.toNat 4 2 }

/-- Copy entries in use by a partition, and its share (11 R269). -/
def State.copiesOf (s : State) (core part : Nat) : Nat :=
  ((s.core core).copies.filter (fun c => match s.block? c.agent.blk with | some b => b.part == part | none => false)).length
def copyShare (mode : Nat) : Nat := 128 / modeParts mode

/-- The instance of a scope that holds a block: its team at .quad, its die, package or pod (01 R11). -/
def Block.instance_ (b : Block) (scope : Nat) : Nat :=
  if scope = 3 then b.team else if scope = 4 then b.core / 64 else 0

/-- Whether a scope barrier is broken in a block's instance (04 R93). -/
def State.isBroken (s : State) (b : Block) (scope : Nat) : Bool :=
  match Map.find? s.launches b.launch with
  | some l => decide ((scope, b.instance_ scope) ∈ l.broken)
  | none => false

/-- Entries of a queue's ring (14 R331). -/
def ringSize (cfg : Nat) : Nat := 16 * 2 ^ min (natBits cfg 11 8) 8

/-- Whether a queue's ring is full: one entry stays free (14 R332). -/
def State.ringFull (s : State) (q : Nat) : Bool :=
  ((s.queue q).tail + 1) % ringSize (s.reg .qcfg q).toNat == (s.queue q).head

/-- The IPA of a ring entry. -/
def State.ringAddr (s : State) (q i : Nat) : Nat := natBits (s.reg .qcfg q).toNat 51 12 * 4096 + 128 * i

/-- LAUNCH's checks, where so many earlier lanes of the instruction take an entry first (14 R341). -/
def State.launchCheck (s : State) (b : Block) (t : Thread) (q va before : Nat) : Verdict :=
  let cfg := (s.reg .qcfg q).toNat
  if !natBit cfg 3 || natBits cfg 57 52 != b.vf || !natBit cfg 4 then .fault 0x1D5 0 15
  else
    match s.sound b va 128 0 false (s.globalCheck b t va 128 128 0 false true) with
    | .ok =>
      let size := ringSize cfg
      if size - 1 ≤ ((s.queue q).tail + size - (s.queue q).head) % size + before then .ringFull
      else
        let ea := s.ringAddr q (((s.queue q).tail + before) % size)
        let key := s.transKey (2 ^ 63 + ea)
        if t.refused = some key then .fault 0x086 ea 1 else
        match translate s (ipaCtx b.vf) ea 1 with
        | .ok _ _ _ => .ok
        | .wait => .stall
        | .fail c _ i _ => s.transVerdict b.vf c 0 (if i = 0 then ea else i) 1 key
    | v => v

/-- The target of an indirect branch (04 R88; 03 R66; 15 R359). -/
def State.targetCheck (s : State) (b : Block) (target : Nat) : Verdict :=
  if target % 8 ≠ 0 ∨ natBits target 59 57 ≠ 0 then .fault 0x00A target 15
  else if s.safeTarget b (target % 2 ^ 57) then .ok else .fault 0x1D6 target 15

/-- A register of the shadow range (05 R104). -/
def inShadowRange (b : Block) (r : BitVec 8) : Bool :=
  match hdrShadow b.header with
  | some (lo, hi) => decide (lo ≤ r.toNat) && decide (r.toNat ≤ hi)
  | none => false

/-- The format slot that X[5:3] names, and the kind that X[2] picks of it (06 R146). -/
def State.narrowSlot (s : State) (x : ArgsR) : Slot × Nat :=
  match s.gang? with
  | none => (slotOf 0, 0)
  | some (b, _) =>
    let sl := slotOf (recSlot b.record (natBits x.x.toNat 5 3))
    (sl, if x.x.getLsbD 2 then sl.bk else sl.ak)

/-- The checks of F2N and N2F (06 R146). -/
def State.narrowCheck (s : State) (x : ArgsR) (widen : Bool) : Verdict :=
  let p := s.narrowSlot x
  if !p.1.valid then .fault 0x148 0 15
  else if !narrowKindOk p.2 then .fault 0x149 0 15
  else if widen && decide (3 < natBits x.x.toNat 8 6) && decide (p.2 ≠ 7) && decide (p.2 ≠ 11) then .fault 0x149 0 15
  else .ok

/-- WAITA's condition (07 R176). -/
def flagHolds (cnd w b : Nat) : Bool :=
  match cnd with
  | 0 => w == b
  | 1 => w != b
  | 2 => decide (0 ≤ toSigned 32 (wrapNat 32 ((w : Int) - b)))
  | _ => w % 2 == b % 2

/-- A range update's pieces, one for each page it reaches into; with no elements its base alone (11 R268). -/
def lopPieces (va n : Nat) : List (Nat × Nat) := if n = 0 then [(va, 0)] else pages va n

/-- The checks of a range update: of its base, its range, and each page of the range with its tags (11 R268). -/
def State.lopCheck (s : State) (b : Block) (t : Thread) (va w n : Nat) : Verdict :=
  match s.globalCheck b t va w 0 2 true false with
  | .ok =>
    if 65536 < va % 65536 + n * w then .fault 0x093 va 2
    else firstBad ((lopPieces va (n * w)).map (fun p =>
      s.sound b (p.1 % 2 ^ 64) p.2 2 false (s.globalCheck b t (p.1 % 2 ^ 64) w p.2 2 true true)))
  | v => v

/-- The checks of a tag's write: of its granule, and that the page has tags (07 R178). -/
def State.tagwCheck (s : State) (b : Block) (c : Crew) (l : Nat) (t : Thread) (va : Nat) : Verdict :=
  match s.globalCheck b t va 32 32 1 false false, translate s b.tctx va 1 with
  | .ok, .ok pa e _ =>
    if !e.tg then .fault 0x08C va 8
    else if s.passesHeld b.core c l (fun p => match p.op with | .tag _ => rangesMeet p.range (pa, 32) | _ => false) then .stall
    else .ok
  | v, _ => v

/-- Lanes of earlier paths of this cycle at the same bundle that take an entry of a queue before this path does. -/
def State.takersBefore (s : State) (g : Guard) (l : Nat) : Nat :=
  ((laneList (s.active g)).filter (fun j => decide (j < l))).length + laneCount (lanesWhere s.cur.ahead (fun j => s.guard g j))

/-- What a slot's own checks say of a lane where its guard holds. -/
def slotVerdict (s : State) (b : Block) (c : Crew) (l : Nat) (i : Instr) : Verdict :=
  let t := c.thread l
  let pend := !(c.fencesOf l).isEmpty
  let pendAcq := (c.fencesOf l).any (fun f => f.kind != 1)
  let blk := s.cur.blk
  match i with
  | .f2n f => s.narrowCheck f false
  | .n2f f => s.narrowCheck f true
  | .chk f => if s.src (f.x.getLsbD 0) f.a l = s.src (f.x.getLsbD 0) f.b l then .ok else .mismatch
  | .ldG f =>
    let n := sizeOf f.sz
    let l1 := servedByL1 f.ord.toNat f.scope.toNat ((c.fencesOf l).any (fun p => p.kind != 1 && decide (3 ≤ p.scope)))
    (s.behindHeld b (f.va s n l) n 0 l1 (s.globalCheck b t (f.va s n l) n n 0 false true)).speculative pend
  | .ldL f =>
    let n := sizeOf f.sz
    (s.behindHeld b (f.va s n l) n 0 false (s.globalCheck b t (f.va s n l) n n 0 true true)).speculative pend
  | .stG f =>
    let n := sizeOf f.sz
    ((s.inOrder b c l (f.va s n l) n 1 (s.globalCheck b t (f.va s n l) n n 1 false true)).speculative pend).fenced (pend && f.ord == 1)
  | .stL f =>
    let n := sizeOf f.sz
    ((s.inOrder b c l (f.va s n l) n 1 (s.globalCheck b t (f.va s n l) n n 1 true true)).speculative pend).fenced (pend && f.ord == 1)
  | .ldS f => (s.behindScratch blk b false (f.small s l) (sizeOf f.sz) 0
      (s.scratchCheck blk b false (f.small s l) (sizeOf f.sz) 0)).fenced pendAcq
  | .ldQ f => (s.behindScratch blk b true (f.small s l) (sizeOf f.sz) 0
      (s.scratchCheck blk b true (f.small s l) (sizeOf f.sz) 0)).fenced pendAcq
  | .stS f => ((s.inOrderScratch b c l false (f.small s l) (sizeOf f.sz)
      (s.scratchCheck blk b false (f.small s l) (sizeOf f.sz) 1)).speculative pend).fenced (pend && f.ord == 1)
  | .stQ f => ((s.inOrderScratch b c l true (f.small s l) (sizeOf f.sz)
      (s.scratchCheck blk b true (f.small s l) (sizeOf f.sz) 1)).speculative pend).fenced (pend && f.ord == 1)
  | .ldC f => (t.soundCubby (f.small s l) (sizeOf f.sz) (cubbyCheck b (f.small s l) (sizeOf f.sz) 0)).speculative pend
  | .stC f => (cubbyCheck b (f.small s l) (sizeOf f.sz) 1).speculative pend
  | .atomS f =>
    let o := f.small s false l
    let w := match o with | some a => natBit a 31 | none => false
    (s.behindScratch blk b w o f.bytes 2 (s.scratchCheck blk b w o f.bytes 2)).fenced pend
  | .casS f =>
    let o := f.small s true l
    let w := match o with | some a => natBit a 31 | none => false
    (s.behindScratch blk b w o f.bytes 2 (s.scratchCheck blk b w o f.bytes 2)).fenced pend
  | .waita f =>
    match s.behindScratch blk b false (f.flagAddr s l) 4 0 (s.scratchCheck blk b false (f.flagAddr s l) 4 0) with
    | .ok =>
      let ea := (f.flagAddr s l).getD 0
      if pend then .stall
      else if flagHolds f.sc.toNat (b.scratchNum ea 4) (s.src false f.b l) then .ok else .sleep ea
    | v => v
  | .tagr f => (s.globalCheck b t (f.va s 32 l / 32 * 32 % 2 ^ 60) 32 32 0 false false).speculative pend
  | .tagw f => ((s.tagwCheck b c l t (f.va s 32 l % 2 ^ 60)).speculative pend).fenced (pend && f.ord == 1)
  | .atomH f => (s.behindHeld b (f.va s false l) f.bytes 2 false (s.globalCheck b t (f.va s false l) f.bytes f.bytes 2 false true)).fenced pend
  | .casH f => (s.behindHeld b (f.va s true l) f.bytes 2 false (s.globalCheck b t (f.va s true l) f.bytes f.bytes 2 false true)).fenced pend
  | .redH f => ((s.inOrder b c l (f.va s false l) f.bytes 2 (s.sound b (f.va s false l) f.bytes 2 false
      (s.globalCheck b t (f.va s false l) f.bytes f.bytes 2 false true))).speculative pend).fenced (pend && f.ord == 1)
  | .lop f =>
    let va := s.src true f.a l
    let w := if f.x.getLsbD 4 then 8 else 4
    let n := s.src false f.b l
    let v := firstBad (s.lopCheck b t va w n :: (lopPieces va (n * w)).map (fun p => s.inOrder b c l (p.1 % 2 ^ 64) p.2 2 .ok))
    (v.speculative pend).fenced (pend && f.x.getLsbD 5)
  | .cp f =>
    match copyCheck (hdrScratch b.header) (cpDesc s f l) with
    | some (cause, a) => if pend then .stall else .fault cause a 15
    | none => if copyShare (s.mode b.core) ≤ s.copiesOf b.core b.part + s.takersBefore f.g l then .full else .ok
  | .launch f => (s.launchCheck b t (natBits f.x.toNat 7 0) (s.src true f.a l) (s.takersBefore f.g l)).fenced pend
  | .brx f => (s.targetCheck b (s.src true f.a l)).speculative pend
  | .callx f => (s.targetCheck b (s.src true f.a l)).speculative pend
  | .ret f => (s.targetCheck b (s.src true f.a l)).speculative pend
  | .hatch _ => if pend then .stall else
      match b.gatePc with
      | some p => if p = s.cur.pc then .ok else .fault 0x102 0 15
      | none => .ok
  | .sbar f =>
    let sc := natBits f.x.toNat 2 0
    if pend then .stall
    else if (if sc = 3 then !recQuad b.record else !recCoop b.record) then .fault 0x104 0 15
    else if s.isBroken b sc then .fault 0x101 0 15 else .ok
  | .trap f =>
    if pend then .stall
    else if f.x.getLsbD 5 then .ok
    else .fault (0x1E0 + natBits f.x.toNat 4 0) (if f.x.getLsbD 6 then s.src (f.x.getLsbD 7) f.a l else 0) 15
  | .fence f => Verdict.ok.fenced (pend && natBits f.x.toNat 1 0 != 0)
  | .bar f =>
    if pend then .stall
    else if ((Map.find? b.bars (natBits f.x.toNat 3 0)).getD {}).early.getLsbD (b.linear s.cur.crew l) then
      .barStall (natBits f.x.toNat 3 0)
    else .ok
  | .waitm _ | .exit _ | .safept _ | .evt _ | .bkpt _ => Verdict.ok.fenced pend
  | _ => .ok

/-- What a slot's checks say of a lane where its guard holds. A lane behind a fence that does not cover its whole crew waits
before it acts on what the crew shares: its rollback could not undo that (12 R293; log 79, DESIGN CHOICE). -/
def verdict (s : State) (b : Block) (c : Crew) (l : Nat) (i : Instr) : Verdict :=
  if (c.fencesOf l).any (fun f => !f.whole) && i.sharesCrew b.env then .stall else slotVerdict s b c l i

/-! ### Scratchpad passes (07 R171; 17 R422) -/

/-- The row of the bank-conflict matrix of a requester: its column, or at another core of its quad the remote port
(17 R422). -/
def conflictRow (b : Block) (c : Crew) (lane : Nat) (target : Block) : Nat :=
  if target.core = b.core then c.columnOf lane else 7 + (b.core % 4 + 4 - target.core % 4) % 4

/-- The words that an instruction's lanes name in scratchpads, counted in passes for each target block and requester
row (07 R171; 17 R422). -/
def State.scratchPasses (s : State) (b : Block) (c : Crew) (names : List (Nat × Nat × Nat × Nat)) : State :=
  let keys := dedup (names.map (fun x => (x.2.1, (match s.block? x.2.1 with | some t => conflictRow b c x.1 t | none => 0))))
  keys.foldl (fun s k =>
    match s.block? k.1 with
    | none => s
    | some t =>
      s.bankPasses t.core t.part k.2
        ((names.filter (fun x => x.2.1 == k.1 && conflictRow b c x.1 t == k.2)).flatMap
          (fun x => (List.range ((x.2.2.2 + 3) / 4)).map (fun i => x.2.2.1 / 4 + i)))) s

/-- Where a lane's scratchpad or window access leads, for lanes that passed their checks: lane, block, offset, bytes. -/
def State.scratchNames (s : State) (m : Lanes) (window : Nat → Bool) (o : Nat → Option Nat) (n : Nat) : List (Nat × Nat × Nat × Nat) :=
  match s.gang? with
  | none => []
  | some (b, _) =>
    (laneList m).filterMap (fun l =>
      match o l with
      | none => none
      | some a =>
        match s.scratchTarget s.cur.blk b (window l) a with
        | .inl _ => none
        | .inr (t, _, off) => some (l, t, off, n))

/-- Passes counted for an instruction's scratchpad names. -/
def State.countPasses (s : State) (names : List (Nat × Nat × Nat × Nat)) : State :=
  match s.gang? with
  | none => s
  | some (b, c) => s.scratchPasses b c names

/-! ### Stops and watchpoint hits (17 R429) -/

/-- How long a stop broadcast of a scope may take to arrive (17 R429). -/
def broadcastDelay (scope : Nat) : Nat :=
  match scope with
  | 4 => 300
  | 5 => 1000
  | 6 => 4000
  | _ => 100

/-- Whether a block lies within a broadcast's scope about another block of its launch. -/
def Block.reached (b x : Block) (scope : Nat) : Bool :=
  x.launch == b.launch && !x.ended &&
    (match scope with
     | 0 => false
     | 1 => x.index == b.index
     | 3 => x.core / 4 == b.core / 4
     | 4 => x.core / 64 == b.core / 64
     | _ => true)

/-- A stop on its way to a crew or context that is not stopped already and has none on its way. -/
def Stop.send (t : Stop) (hit due : Nat) : Stop :=
  if t.stopped || t.due.isSome then t else { t with due := some (hit, due), skid := 0 }

/-- A stop broadcast leaves over a scope about a block (17 R429). -/
def State.broadcast (s : State) (b : Block) (scope : Nat) : State :=
  { s with blocks := Map.mapVals (fun _ x =>
      if b.reached x scope then
        { x with crews := Map.mapVals (fun _ c => { c with stop := c.stop.send s.gts (s.gts + broadcastDelay scope) }) x.crews,
                 loft := x.loft.map (fun y => { y with stop := y.stop.send s.gts (s.gts + broadcastDelay scope) }) }
      else x) s.blocks }

/-- Whether a block's launch has a debugger attached: by its id, and of a joined kernel also by the id of the launch that the
code at an address belongs to (15 R371; 17 R430). -/
def State.attachedAt (s : State) (b : Block) (pc : Nat) : Bool :=
  b.lid != 0 && (s.reg .dbgatt b.vf == b.lid || s.reg .dbgatt b.vf == BitVec.ofNat 64 (s.launchFor b pc))

/-- The hit of the lowest lane of a list. -/
def lowestHit : List Hit → Option Hit
  | [] => none
  | h :: hs => some (hs.foldl (fun a b => if b.lane < a.lane then b else a) h)

/-- Hits of a crew take effect: one record for each bundle, and with a debugger attached the crew stops and a broadcast of
the widest scope hit leaves; a crew that a debugger steps sends none (17 R429, R431). -/
def State.reportHits (s : State) (blk crew : Nat) (hs : List Hit) : State :=
  match s.crew? blk crew with
  | none => s
  | some (b, c) =>
    let s := (dedup (hs.map (fun h => h.pc))).foldl (fun s pc =>
      match lowestHit (hs.filter (fun h => h.pc == pc)) with
      | none => s
      | some h => s.trap (threadRecord s b crew c h.lane pc 0x180 h.addr h.kind (2 ^ h.slot) h.unit)) s
    if !hs.any (fun h => s.attachedAt b h.pc) then s
    else
      let s := s.modCrew blk crew (fun c => { c with stop := { stopped := true } })
      if c.stop.stepping then s else s.broadcast b (listMax (hs.map (fun h => h.scope)))

/-! ### Detected errors (16 R401, R402) -/

/-- A little-endian number of at most a page in a kernel's tables, each of the pages it lies in translated. -/
def State.tableNum (s : State) (b : Block) (va n : Nat) : Option Nat :=
  let k := min n (4096 - va % 4096)
  match s.codeTrans b va 0, if k < n then s.codeTrans b (va + k) 0 else s.codeTrans b va 0 with
  | .ok pa _ _, .ok qa _ _ => some (s.num pa k + s.num qa (n - k) * 2 ^ (8 * k))
  | _, _ => none

/-- The live-register bitmap of a safe point, from the kernel's safe-point table (15 R360); none where the table names
no such point. -/
def State.liveMap (s : State) (b : Block) (bundle : Nat) (loft : Bool) : Option Nat :=
  let table := recBits b.header 191 128
  match s.tableNum b table 8 with
  | none => none
  | some n =>
    -- a code region holds fewer entries than this
    match (List.range (min n (2 ^ 27))).find? (fun i => s.tableNum b (table + 8 + 40 * i) 8 == some (bundle + bit01 loft)) with
    | none => none
    | some i => s.tableNum b (table + 16 + 40 * i) 32

/-- A thread whose registers outside a live list hold boundedly undefined values (15 R360). -/
def Thread.undefinedOutside (t : Thread) (live regs fresh : Nat) : Thread :=
  { t with v := (List.range regs).foldl (fun v r => if natBit live r then v else Map.set 0 v r (Config.freeWord (fresh + r))) t.v }

/-- The crew's state at its checkpoint, registers outside the live list of the safe point boundedly undefined in the
lanes that issued it (16 R402; 15 R360; log 8, DESIGN CHOICE). -/
def State.checkpointOf (s : State) (b : Block) (c : Crew) : CrewCore × State :=
  match (if c.ckLanes = 0 then none else s.liveMap b c.ckPc false) with
  | none => (c.checkpoint, s)
  | some live =>
    let (n, s) := s.takeFresh (256 * 65)
    let p := c.checkpoint.mapLanes c.ckLanes (fun l t => t.undefinedOutside live (hdrRegs b.header) (n + 256 * l))
    ({ p with k := (List.range (hdrKregs b.header)).foldl (fun k r =>
        if natBit live (192 + r) then k else Map.set 0 k r (Config.freeWord (n + 256 * 64 + r))) p.k }, s)

/-- The requests and copies that the fences of a crew hold are let go. -/
def State.releaseHeld (s : State) (core : Nat) (ids : List Nat) : State :=
  s.modCore core (fun k =>
    { k with posted := k.posted.map (fun p => if (match p.fence with | some i => decide (i ∈ ids) | none => false) then { p with fence := none } else p),
             copies := k.copies.map (fun p => if (match p.fence with | some i => decide (i ∈ ids) | none => false) then { p with fence := none } else p) })

/-- The core's own L1 copies as the requests that stand in the core leave them once a fence lets its stores go: each
store that no fence holds any more, in the order of issue (11 R258; 12 R282). -/
def State.showHeld (s : State) (core fence : Nat) : State :=
  (s.core core).posted.foldl (fun s p =>
    match p.op, p.fence with
    | .store bs, none => s.modCore core (fun k => k.l1Store (s.partOf p.agent.blk) (s.memKey p.now) bs)
    | .store bs, some i => if i = fence then s.l1Write (core, s.partOf p.agent.blk) p.now bs p.agent else s
    | _, _ => s) s

/-- A fence completes: what it held goes on, an acquiring fence invalidates, and the watchpoints that speculative accesses
hit are reported (12 R292 to R294). -/
def State.completeFence (s : State) (blk crew : Nat) (f : PFence) : State :=
  match s.block? blk with
  | none => s
  | some b =>
    let s := s.modCrew blk crew (fun c => { c with fences := c.fences.filter (fun g => g.id != f.id) })
    let s := (s.showHeld b.core f.id).releaseHeld b.core [f.id]
    (if f.kind = 1 then s else s.l1Acquire b.core f.scope).reportHits blk crew f.hits

/-- The pending fences of a crew complete in order: every request before each is performed, which may roll the crew back
to it; what it held goes on, and is performed too (12 R292, R294, R298). -/
def State.completeFences (s : State) (blk crew : Nat) : State :=
  match s.crew? blk crew with
  | none => s
  | some (b, c) =>
    (c.fences.foldl (fun s _ =>
      let s := s.drain b.core (fun _ => true)
      match (match s.crew? blk crew with | some (_, c) => c.fences.head? | none => none) with
      | none => s
      | some f => s.completeFence blk crew f) s).drain b.core (fun _ => true)

/-- A thread at a checkpoint with its cubby as it stands: memory is not undone (16 R402). -/
def Thread.keepCubby (t now : Thread) : Thread := { t with cubby := now.cubby, spoilt := now.spoilt }

/-- A crew that detected an error rolls back to its checkpoint, and its rerun begins; its pending fences complete first,
and its held requests are performed, which the rerun compares and does not send again (16 R402, R403; 12 R298). -/
def State.detect (s : State) (blk crew lane cause pc slot unit : Nat) : State :=
  let s := s.completeFences blk crew
  match s.crew? blk crew with
  | none => s
  | some (b, c) =>
    let (core, s) := s.checkpointOf b c
    let r : Rerun :=
      match c.rerun with
      | none => ⟨2, 0, [c.bundles], false, false, cause, s.gts, lane, pc, slot, unit, 0⟩
      | some r => { r with run := r.run + 1, pos := 0, reached := false, detectedAt := r.detectedAt ++ [c.bundles] }
    (s.modCrew blk crew (fun c =>
      { c with core := core.mapLanes (~~~ 0) (fun l t => t.keepCubby (c.thread l)),
               paths := [], deferred := [], bundles := 0, ord := 0, rerun := some r })).count b.core b.part 0x0F 0 1

/-! ### Dispositions (16 R373) -/

/-- A lane leaves the executing set without a fault. -/
def State.dropLane (s : State) (l : Nat) : State :=
  { s with cur := { s.cur with eset := s.cur.eset &&& ~~~ laneBit l } }

/-- A lane of the gang waits for a page: it commits nothing, and its request is kept until the bundle's checks are made. -/
def State.noteHold (s : State) (h : PageHold) : State :=
  let s := s.dropLane h.lane
  { s with cur := { s.cur with holds := s.cur.holds ++ [h] } }

/-- A lane of the gang is held for a page: the request is posted or joined, its replay bit is set, and its block begins
to be held (13 R318 to R320). -/
def State.holdLane (s : State) (p : PageHold) : State :=
  match s.gang? with
  | none => s
  | some (b, _) =>
    let (h, s) := s.pageRequest b.vf p.cause p.va p.ipa p.kind b.lid.toNat
    let s := s.modCrew s.cur.blk s.cur.crew (fun c =>
      let c := c.modThread p.lane (fun t => { t with hold := some h, heldAt := p.at_ })
      { c with core := { c.core with replay := c.core.replay ||| laneBit p.lane } })
    s.modBlock s.cur.blk (fun x => { x with faultAt := some (x.faultAt.getD s.gts) })

/-- The page requests of a bundle are posted in the order of its lanes (13 R318). -/
def State.postHolds (s : State) : State :=
  (sortBy (fun (a b : PageHold) => decide (a.lane < b.lane)) s.cur.holds).foldl State.holdLane
    { s with cur := { s.cur with holds := [] } }

/-- Watches of a core that sleepers hold: threads at a WAITA, contexts at a QWAIT (07 R176; 08 R199). -/
def State.watches (s : State) (core : Nat) : Nat :=
  ((s.blocks.filter (fun e => e.2.core == core)).map (fun e =>
    (e.2.threads.filter (fun t => match t.2.2.st with | .flag _ _ w => w | _ => false)).length
      + bit01 (e.2.loft.any (fun x => match x.wait with | .flag _ _ _ w => w | _ => false)))).sum

/-- WAITA puts a lane to sleep on its word, with one of the core's 256 watches if one is free (07 R176). -/
def State.sleepLane (s : State) (b : Block) (l ea : Nat) : State :=
  let w := decide (s.watches b.core < 256)
  (s.dropLane l).modThread s.cur.blk s.cur.crew l (fun t =>
    { t with st := .flag ea (s.gts + (if w then 1024 else 64)) w, since := if t.since = 0 then s.gts else t.since })

/-- A slot's verdict on a lane takes effect (16 R373). -/
def State.dispose (s : State) (b : Block) (l : Nat) : Verdict → State
  | .ok => s
  | .fault c a k => s.raiseLane l c a k
  | .hold c v i k a => s.noteHold ⟨l, c, v, i, k, a⟩
  | .sleep ea => s.sleepLane b l ea
  | .stall => s.dropLane l
  | .full => (s.dropLane l).modThread s.cur.blk s.cur.crew l (fun t => { t with since := 0 })
  | .barStall n =>
    (s.dropLane l).modThread s.cur.blk s.cur.crew l (fun t =>
      { t with st := .barWait n, stalled := true, since := if t.since = 0 then s.gts else t.since })
  | .ringFull =>
    (s.dropLane l).modThread s.cur.blk s.cur.crew l (fun t => { t with ringWait := some (t.ringWait.getD s.gts) })
  | .mismatch =>
    if s.cur.rolled then s else
    let s := s.detect s.cur.blk s.cur.crew l 0x060 s.cur.pc.toNat s.cur.slot (s.cur.units.getD s.cur.slot 1)
    { s with cur := { s.cur with eset := 0, rolled := true } }

/-- The words that a WAITA's lanes read, whether they go on or to sleep: they are counted in passes (07 R171). -/
def State.waitaWords (s : State) (m : Lanes) : Instr → List (Nat × Nat × Nat × Nat)
  | .waita f =>
    match s.gang? with
    | none => []
    | some (b, c) =>
      s.scratchNames
        (lanesWhere m (fun l => match verdict s b c l (.waita f) with | .ok => true | .sleep _ => true | _ => false))
        (fun _ => false) (f.flagAddr s) 4
  | _ => []

/-- A slot's checks are made in every lane of the gang where its guard holds, in lane order; a lane that fails any of
them commits no slot of the bundle (03 R43). In a bundle that a rerun repeats only CHK can find anything (16 R402). -/
def State.settleSlot (s : State) (i : Instr) : State :=
  let i := if s.cur.replay then (match i with | .chk _ => i | _ => .nop 0 0) else i
  let m := s.active i.guard
  ((laneList m).foldl (fun t l =>
    match t.gang? with
    | none => t
    | some (b, c) => if t.cur.eset.getLsbD l then t.dispose b l (verdict t b c l i) else t) s).countPasses (s.waitaWords m i)

/-- The checks of a slot that executes by itself; a bundle's issue has made those of all its slots before any acts, and says
so. -/
def State.settle (s : State) (i : Instr) : State := if s.cur.checked then s else (s.settleSlot i).postHolds

end Sys2Proof.Machine
end

