-- ==== Sys2Proof/Machine/UnitM.lean ====
section
/-! DEFINITION. Unit M: loads, stores, local atomics, WAITA, tags and the prefetch (07). Each lane that reaches an effect
has passed its checks (Verdict); lanes act in rising order. -/

namespace Sys2Proof.Machine

/-! ### What unit M and the home atomics share -/

/-- The agent of a lane of the crew that the step works for. -/
def State.agentOf (s : State) (l : Nat) : Agent := ⟨s.cur.blk, s.cur.crew, l⟩

/-- The newest pending fence that holds a lane's writes (12 R293). -/
def Crew.holdingFence (c : Crew) (l : Nat) : Option Nat := ((c.fencesOf l).getLast?).map (fun f => f.id)

/-- The pending fence that the current gang's lane stands behind. -/
def State.fenceOf (s : State) (l : Nat) : Option Nat :=
  match s.gang? with
  | none => none
  | some (_, c) => c.holdingFence l

/-- A line or tag read speculatively, recorded with its lane in every pending acquiring fence of the lane (12 R293). -/
def State.recordRead (s : State) (l line : Nat) : State :=
  s.modCrew s.cur.blk s.cur.crew (fun c =>
    { c with fences := c.fences.map (fun f =>
        if f.lanes.getLsbD l && f.kind != 1 then { f with lines := dedup (f.lines ++ [(line, l)]) } else f) })

/-- An access's comparison with a granule's tag recorded (07 R167 check 8, R178). -/
def State.recordTag (s : State) (l pa : Nat) (tg : Bool) : State := if tg then s.recordRead l (s.tagLine pa) else s

/-- The same for every granule of a range within a page. -/
def State.recordTags (s : State) (l pa n : Nat) (tg : Bool) : State :=
  (List.range (if n = 0 then 0 else (pa % 32 + n + 31) / 32)).foldl (fun s k => s.recordTag l (pa + 32 * k) tg) s

/-- The reads of a load recorded: its line, and on a page with tags the comparison. -/
def State.recordAccess (s : State) (l pa : Nat) (tg : Bool) : State :=
  (s.recordRead l (s.memKey pa / 64)).recordTag l pa tg

/-- Whether a lane's load is speculative past a fence at .quad or wider (12 R293). -/
def Crew.specWide (c : Crew) (l : Nat) : Bool := (c.fencesOf l).any (fun f => f.kind != 1 && decide (3 ≤ f.scope))

/-- The bytes of a small value extended into a register as SZ says (07 R169). -/
def extendBySz (sz : BitVec 4) (m : Nat) : Nat :=
  match sz.toNat with
  | 1 => wrapNat 32 (toSigned 8 m)
  | 3 => wrapNat 32 (toSigned 16 m)
  | _ => m

/-- Registers that SZ fills (07 R168). -/
def regsOfSz (sz : BitVec 4) : Nat := (sizeOf sz + 3) / 4

/-- The value that a store of SZ takes from D (07 R169). -/
def State.storeValue (s : State) (d : BitVec 8) (sz : BitVec 4) (l : Nat) : Nat :=
  match sizeOf sz with
  | 8 => s.src true d l
  | 16 => (s.srcQuad d l).foldr (fun w r => w + r * 2 ^ 32) 0
  | _ => s.src false d l % 2 ^ (8 * sizeOf sz)

/-- Whether some lane of a set that reads a physical address is speculative past a fence at .quad or wider: the lanes of one
load that name the same bytes read them in one place (07 R170; 12 R293). -/
def State.specAt (s : State) (c : Crew) (m : Lanes) (va : Nat → Nat) (pa : Nat) : Bool :=
  match s.gang? with
  | none => false
  | some (b, _) => (laneList m).any (fun j => c.specWide j &&
      (match translate s b.tctx (va j) 0 with | .ok p _ _ => p == pa | _ => false))

/-- A global or Larder load of one lane of a set: through the L1 or beyond it (07 R169, R170; 11 R258; 12 R293). -/
def State.loadGlobal (s : State) (m : Lanes) (addr : Nat → Nat) (l n ord scope : Nat) : Nat × State :=
  if s.cur.replay then s.laneInput l n 0 else
  match s.gang? with
  | none => (0, s)
  | some (b, c) =>
    let va := addr l
    match translate s b.tctx va 0 with
    | .ok pa e ups =>
      let home := e.larder || (ord != 0 && decide (3 ≤ scope)) || s.specAt c m addr pa
      let s := (s.useTrans b.tctx e ups).noteWatch b l (b.linear s.cur.crew l) 0 0 va n 0
      let r := if home then s.loadHome b.core b.part b.vf pa n else s.loadL1 b.core b.part b.vf pa n e.sc
      (r.2.recordAccess l pa e.tg).laneInput l n r.1
    | _ => (0, s)

/-- Lane values computed in rising lane order, the state threaded through. -/
def State.eachLane (s : State) (f : State → Nat → Nat × State) : List Nat → Map Nat × State
  | [] => ([], s)
  | l :: ls =>
    let (v, s1) := f s l
    let (r, s2) := s1.eachLane f ls
    ((l, v) :: r, s2)

/-- Lane effects in rising lane order. -/
def State.forLanes (s : State) (m : Lanes) (f : State → Nat → State) : State := (laneList m).foldl f s

/-- An acquire by the core that the step works for (11 R259). -/
def State.acquire (s : State) (scope : Nat) : State :=
  match s.gang? with
  | none => s
  | some (b, _) => s.l1Acquire b.core scope

/-- A load's lanes: each value read in lane order and written to D; an acquire then invalidates (07 R169). -/
def loadLanes (f : ArgsM) (read : State → Nat → Nat × State) (s : State) : State :=
  let m := s.active f.g
  let (vs, s1) := s.eachLane read (laneList m)
  let s2 := s1.writeReg m f.d (regsOfSz f.sz) (fun l => extendBySz f.sz (Map.get 0 vs l))
  if f.ord = 1 ∧ m ≠ 0 then s2.acquire f.scope.toNat else s2

/-! ### Stores into what a copy reads or writes (11 R272) -/

/-- The word offsets, from a base, at which bytes of a range fall into n bytes from the base. -/
def wordsMet (base n a k : Nat) : List Nat :=
  if a + k ≤ base ∨ base + n ≤ a then []
  else
    let lo := (max a base - base) / 4
    let hi := (min (a + k) (base + n) - base + 3) / 4
    (List.range (hi - lo)).map (fun i => 4 * (lo + i))

/-- Payload bytes of a copy as it was issued, and where a side of it began, without the tag bits. -/
def CopyReq.whole (c : CopyReq) : Nat := c.len + c.done
def CopyReq.srcBase (c : CopyReq) : Nat := if c.ssp then c.src - c.done else (c.src + 2 ^ 64 - c.done) % 2 ^ 57
def CopyReq.dstBase (c : CopyReq) : Nat := if c.dsp then c.dst - c.done else (c.dst + 2 ^ 64 - c.done) % 2 ^ 57

/-- The payload words whose copies a store to k bytes of a space makes undefined. -/
def CopyReq.struck (c : CopyReq) (scratch : Bool) (a k : Nat) : List Nat :=
  (if c.ssp == scratch then wordsMet c.srcBase c.whole a k else []) ++ (if c.dsp == scratch then wordsMet c.dstBase c.whole a k else [])

/-- A destination word of a copy made boundedly undefined (00 R3; log 8, DESIGN CHOICE). -/
def State.scramble (s : State) (b : Block) (c : CopyReq) (o : Nat) : State :=
  let (k, s) := s.takeFresh 4
  let bs := (List.range 4).map (fun i => Config.freeByte (k + i))
  if c.dsp then s.scratchWrite c.agent.blk (c.dstBase + o) bs
  else
    match translate s b.tctx (c.dstBase + o) 1 with
    | .ok pa _ _ => (s.performBytes pa bs ⟨some c.agent, some b.port⟩).l1DropAll (s.memKey pa) 4
    | _ => s

/-- A store by the issuer of copies that it has not seen complete by an acquire: the destination words it affects are
boundedly undefined, and so are its own bytes that fall into a destination (11 R272; log 65, DEDUCED). -/
def State.raceStore (s : State) (b : Block) (a : Agent) (scratch : Bool) (at_ : Nat) (bs : List Byte) : List Byte × State :=
  let k := s.core b.core
  let n := bs.length
  let own := fun (c : CopyReq) => c.agent == a && !(c.struck scratch at_ n).isEmpty
  if !(k.copies ++ k.ended).any own then (bs, s) else
  let s := s.modCore b.core (fun k => { k with copies := k.copies.map (fun c =>
    if own c then { c with raced := dedup (c.raced ++ c.struck scratch at_ n) } else c) })
  -- a copy that still runs has words to come, which are undefined when it writes them
  let s := (k.ended ++ k.copies |>.filter own).foldl (fun s c =>
    ((dedup (c.struck scratch at_ n)).filter (fun o => decide (o < c.done))).foldl (fun s o => s.scramble b c o) s) s
  let (f, s) := s.takeFresh n
  ((indexed bs).map (fun x =>
    if (k.copies ++ k.ended).any (fun c => own c && c.dsp == scratch && decide (c.dstBase ≤ at_ + x.1) && decide (at_ + x.1 < c.dstBase + c.whole))
    then Config.freeByte (f + x.1) else x.2), s)

/-- An agent reads a word of its block's scratchpad that may be the completion word of an ended copy of its own: by an
acquire, the copy's words are its own again (11 R272). -/
def State.readFlag (s : State) (core : Nat) (a : Agent) (off n : Nat) (acq : Bool) : State :=
  s.modCore core (fun k => { k with ended := k.ended.filterMap (fun c =>
    if c.agent == a && c.fw && rangesMeet (c.flag, 4) (off, n) then (if acq then none else some { c with seen := true }) else some c) })

/-- A fence acquires what its lanes have read before it (12 R287). -/
def State.fenceFlags (s : State) (core : Nat) (own : Agent → Bool) : State :=
  s.modCore core (fun k => { k with ended := k.ended.filter (fun c => !(c.seen && own c.agent)) })

/-- A global or Larder store of one lane: posted, with the core's own L1 copy updated unless a fence holds the store
(07 R169; 11 R258; 12 R459). -/
def State.storeGlobal (s : State) (l va n value ord scope : Nat) : State :=
  if s.cur.replay then (s.laneOutput l n va value).2 else
  match s.gang? with
  | none => s
  | some (b, _) =>
    match translate s b.tctx va 1 with
    | .ok pa e ups =>
      let s := (s.useTrans b.tctx e ups).noteWatch b l (b.linear s.cur.crew l) 0 0 va n 1
      let s := (s.laneOutput l n va value).2
      let h := s.fenceOf l
      let (bs, s) := s.raceStore b (s.agentOf l) false (va % 2 ^ 57) (toBytesLE n value)
      let s := s.recordTag l pa e.tg
      let s := if h.isSome || e.larder then s else s.l1Write b.port pa bs (s.agentOf l)
      s.post b.core (s.agentOf l) b.vf pa va (.store bs) (ord == 1) scope h
    | _ => s

/-- A scratchpad request of the core not performed yet touches a block's bytes: it is performed first (12 R459). -/
def State.drainScratch (s : State) (core blk off n : Nat) : State :=
  s.drain core (fun p => match p.op with
    | .scratch b bs => b == blk && decide (p.addr < off + n) && decide (off < p.addr + bs.length)
    | _ => false)

/-- A scratchpad or window load of one lane. -/
def State.loadScratch (s : State) (l : Nat) (window : Bool) (o : Option Nat) (n : Nat) (acq : Bool) : Nat × State :=
  if s.cur.replay then s.laneInput l n 0 else
  match s.gang?, o with
  | some (b, _), some a =>
    match s.scratchTarget s.cur.blk b window a with
    | .inr (t, _, off) =>
      let s := s.drainScratch b.core t off n
      let s := if t = s.cur.blk then s.readFlag b.core (s.agentOf l) off n acq else s
      match s.block? t with
      | none => (0, s)
      | some x => (s.noteNamed b l (b.linear s.cur.crew l) 1 x.index off a n 0).laneInput l n (x.scratchNum off n)
    | .inl _ => (0, s)
  | _, _ => (0, s)

/-- A scratchpad or window store of one lane: performed at once, or posted where it is a release, a fence holds it, or
an earlier request to its bytes is still held (07 R169; 12 R293, R459). -/
def State.storeScratch (s : State) (l : Nat) (window : Bool) (o : Option Nat) (n value ord scope : Nat) : State :=
  if s.cur.replay then (s.laneOutput l n (o.getD 0) value).2 else
  match s.gang?, o with
  | some (b, _), some a =>
    match s.scratchTarget s.cur.blk b window a with
    | .inr (t, _, off) =>
      match s.block? t with
      | none => s
      | some x =>
        let s := s.noteNamed b l (b.linear s.cur.crew l) 1 x.index off a n 1
        let s := (s.laneOutput l n a value).2
        let h := s.fenceOf l
        let (bs, s) := if t = s.cur.blk then s.raceStore b (s.agentOf l) true off (toBytesLE n value) else (toBytesLE n value, s)
        let s := s.drainScratch b.core t off n
        if h.isSome || ord == 1 || s.heldScratch b.core t off n then
          s.post b.core (s.agentOf l) b.vf off off (.scratch t bs) (ord == 1) scope h
        else s.scratchWrite t off bs
    | .inl _ => s
  | _, _ => s

/-! ### Loads and stores (07 R168 to R170) -/

/-- LD.G, LD.L. -/
def globalLoad (f : ArgsM) (s : State) : State :=
  loadLanes f (fun t l => t.loadGlobal (s.active f.g) (f.va s (sizeOf f.sz)) l (sizeOf f.sz) f.ord.toNat f.scope.toNat) s

/-- ST.G, ST.L. -/
def globalStore (f : ArgsM) (s : State) : State :=
  s.forLanes (s.active f.g) (fun t l =>
    t.storeGlobal l (f.va s (sizeOf f.sz) l) (sizeOf f.sz) (s.storeValue f.d f.sz l) f.ord.toNat f.scope.toNat)

/-- LD.S, LD.Q. -/
def scratchLoad (window : Bool) (f : ArgsM) (s : State) : State :=
  (loadLanes f (fun t l => t.loadScratch l window (f.small s l) (sizeOf f.sz) (f.ord == 1)) s).countPasses
    (s.scratchNames (s.active f.g) (fun _ => window) (f.small s) (sizeOf f.sz))

/-- ST.S, ST.Q. -/
def scratchStore (window : Bool) (f : ArgsM) (s : State) : State :=
  (s.forLanes (s.active f.g) (fun t l =>
    t.storeScratch l window (f.small s l) (sizeOf f.sz) (s.storeValue f.d f.sz l) f.ord.toNat f.scope.toNat)).countPasses
    (s.scratchNames (s.active f.g) (fun _ => window) (f.small s) (sizeOf f.sz))

/-- LD_G (07 R169). -/
def execLdG (f : ArgsM) (s : State) : Host.Outcome State Fault Refusal := .next (globalLoad f (s.settle (.ldG f)))

/-- ST_G (07 R169). -/
def execStG (f : ArgsM) (s : State) : Host.Outcome State Fault Refusal := .next (globalStore f (s.settle (.stG f)))

/-- LD_S (07 R169). -/
def execLdS (f : ArgsM) (s : State) : Host.Outcome State Fault Refusal := .next (scratchLoad false f (s.settle (.ldS f)))

/-- ST_S (07 R169). -/
def execStS (f : ArgsM) (s : State) : Host.Outcome State Fault Refusal := .next (scratchStore false f (s.settle (.stS f)))

/-- LD_L (07 R169). -/
def execLdL (f : ArgsM) (s : State) : Host.Outcome State Fault Refusal := .next (globalLoad f (s.settle (.ldL f)))

/-- ST_L (07 R169). -/
def execStL (f : ArgsM) (s : State) : Host.Outcome State Fault Refusal := .next (globalStore f (s.settle (.stL f)))

/-- LD_Q (07 R162, R169). -/
def execLdQ (f : ArgsM) (s : State) : Host.Outcome State Fault Refusal := .next (scratchLoad true f (s.settle (.ldQ f)))

/-- ST_Q (07 R162, R169). -/
def execStQ (f : ArgsM) (s : State) : Host.Outcome State Fault Refusal := .next (scratchStore true f (s.settle (.stQ f)))

/-- A cubby load of one lane: its own thread's bytes (07 R165); memory, so that a rerun takes the logged value
(16 R402). -/
def State.loadCubby (s : State) (l : Nat) (o : Option Nat) (n : Nat) : Nat × State :=
  match s.gang?, o with
  | some (_, c), some a => s.laneInput l n (ofBytesLE (Map.bytes 0 (c.thread l).cubby a n))
  | _, _ => (0, s)

/-- A cubby store of one lane, which a rerun compares and does not make again (07 R165; 16 R402). -/
def State.storeCubby (s : State) (l : Nat) (o : Option Nat) (n value : Nat) : State :=
  match o with
  | none => s
  | some a =>
    let r := s.laneOutput l n a value
    if r.1 then r.2.modThread s.cur.blk s.cur.crew l (fun t =>
      { t with cubby := Map.setBytes 0 t.cubby a (toBytesLE n value), spoilt := spared t.spoilt a n })
    else r.2

/-- LD_C (07 R169). -/
def execLdC (f : ArgsM) (s : State) : Host.Outcome State Fault Refusal :=
  let s := s.settle (.ldC f)
  .next (loadLanes f (fun t l => t.loadCubby l (f.small s l) (sizeOf f.sz)) s)

/-- ST_C (07 R169). -/
def execStC (f : ArgsM) (s : State) : Host.Outcome State Fault Refusal :=
  let s := s.settle (.stC f)
  .next (s.forLanes (s.active f.g) (fun t l => t.storeCubby l (f.small s l) (sizeOf f.sz) (s.storeValue f.d f.sz l)))

/-! ### Atomics (07 R172 to R174) -/

/-- The groups that lanes form: for each half of the crew and each word, its lanes in rising order (07 R174). -/
def groupLanes (ls : List Nat) (key : Nat → Nat) : List (List Nat) :=
  (dedup (ls.map (fun l => (l / 32, key l)))).map (fun k => ls.filter (fun l => decide ((l / 32, key l) = k)))

/-- What an atomic's lanes bring: the operand, and for a compare-and-swap the value compared. -/
def atOperand (f : ArgsAt) (s : State) (cas : Bool) (l : Nat) : Nat × Nat :=
  (if cas then s.src f.aw f.b l else 0, s.src f.aw f.d l)

/-- A group performed on a word's value: the value after, and each lane's old value (07 R174). -/
def atGroup (f : ArgsAt) (s : State) (cas : Bool) (cur : Nat) (ls : List Nat) : Nat × List Nat :=
  if cas then casGroup cur (ls.map (atOperand f s true)) else atomGroup f.aop.toNat (8 * f.bytes) cur (ls.map (fun l => (atOperand f s false l).2))

/-- What each lane of a group performs and receives, in the crew's log (16 R402). -/
def State.groupLog (s : State) (n : Nat) (addr value old : Nat → Nat) (ls : List Nat) : State :=
  ls.foldl (fun s l => ((s.laneOutput l n (addr l) (value l)).2.laneInput l n (old l)).2) s

/-- A group of lanes divided by the fence that each stands behind (12 R293; log 79, DESIGN CHOICE). -/
def State.byFence (s : State) (ls : List Nat) : List (List Nat) :=
  (dedup (ls.map s.fenceOf)).map (fun h => ls.filter (fun l => s.fenceOf l == h))

/-- The old values of a group's lanes as a map. -/
def zipLanes (ls : List Nat) (vs : List Nat) : Map Nat := ls.zip vs

/-- The groups of a local atomic performed in turn (07 R172, R174). -/
def localGroups (f : ArgsAt) (cas : Bool) (s0 : State) (names : Map (Nat × Nat)) (s : State) : List (List Nat) → Map Nat × State
  | [] => ([], s)
  | g :: gs =>
    match s.gang?, Map.find? names (g.headD 0) with
    | some (b, _), some (t, off) =>
      let s := s.drainScratch b.core t off f.bytes
      match s.block? t with
      | none => localGroups f cas s0 names s gs
      | some x =>
        let s := if t = s.cur.blk then g.foldl (fun s l => s.readFlag b.core (s.agentOf l) off f.bytes (f.ord == 1)) s else s
        let s := g.foldl (fun s l => s.noteNamed b l (b.linear s.cur.crew l) 1 x.index off ((f.small s0 cas l).getD 0) f.bytes 2) s
        let r := atGroup f s0 cas (x.scratchNum off f.bytes) g
        let s := s.groupLog f.bytes (fun l => (f.small s0 cas l).getD 0) (fun l => (atOperand f s0 cas l).2)
          (Map.get 0 (zipLanes g r.2)) g
        let s := s.scratchWrite t off (toBytesLE f.bytes r.1)
        let (m2, s) := localGroups f cas s0 names s gs
        (zipLanes g r.2 ++ m2, s)
    | _, _ => localGroups f cas s0 names s gs

/-- ATOM.S, CAS.S: an ordered one first performs every earlier request of the core, and then acquires (07 R172;
12 R286, R459). -/
def localAtomic (f : ArgsAt) (cas : Bool) (s : State) : State :=
  let m := s.active f.g
  let win := fun l => match f.small s cas l with | some a => natBit a 31 | none => false
  let names := s.scratchNames m win (f.small s cas) f.bytes
  let nm : Map (Nat × Nat) := names.map (fun x => (x.1, (x.2.1, x.2.2.1)))
  let gs := groupLanes (nm.map Prod.fst) (fun l => match Map.find? nm l with | some (t, off) => t * 2 ^ 20 + off | none => 0)
  let s1 := if f.ord = 1 then (match s.gang? with | some (b, _) => s.drain b.core (fun _ => true) | none => s) else s
  let (old, s2) := if s.cur.replay then
      s1.replayLanes f.bytes (fun l => (f.small s cas l).getD 0) (fun l => (atOperand f s cas l).2) true (laneCount m)
    else localGroups f cas s nm s1 gs
  let s3 := s2.writeReg m f.d (regCount f.aw) (Map.get 0 old)
  (if f.ord = 1 ∧ m ≠ 0 then s3.acquire f.scope.toNat else s3).countPasses
    (gs.filterMap (fun g => names.find? (fun x => x.1 == g.headD 0)))

/-- ATOM_S (07 R172). -/
def execAtomS (f : ArgsAt) (s : State) : Host.Outcome State Fault Refusal := .next (localAtomic f false (s.settle (.atomS f)))

/-- CAS_S (07 R172). -/
def execCasS (f : ArgsAt) (s : State) : Host.Outcome State Fault Refusal := .next (localAtomic f true (s.settle (.casS f)))

/-! ### WAITA, tags, prefetch (07 R175 to R180) -/

/-- WAITA: in lanes whose read satisfies the condition, D takes the word; the others sleep (07 R176). -/
def execWaita (f : ArgsM) (s : State) : Host.Outcome State Fault Refusal :=
  let s := s.settle (.waita f)
  let m := s.active f.g
  let (vs, s1) := s.eachLane (fun t l => t.loadScratch l false (f.flagAddr s l) 4 (f.ord == 1)) (laneList m)
  let s2 := s1.writeReg m f.d 1 (Map.get 0 vs)
  .next (if f.ord = 1 ∧ m ≠ 0 then s2.acquire f.scope.toNat else s2)

/-- TAGR (07 R178). -/
def execTagr (f : ArgsM) (s : State) : Host.Outcome State Fault Refusal :=
  let s := s.settle (.tagr f)
  let m := s.active f.g
  let (vs, s1) := s.eachLane (fun t l =>
    if t.cur.replay then t.laneInput l 1 0 else
    match t.gang? with
    | none => (0, t)
    | some (b, _) =>
      match translate t b.tctx (f.va s 32 l / 32 * 32 % 2 ^ 60) 0 with
      | .ok pa e ups => ((t.useTrans b.tctx e ups).recordRead l (t.tagLine pa)).laneInput l 1 (if e.tg then (t.tag pa).toNat else 0)
      | _ => (0, t)) (laneList m)
  let s2 := s1.writeReg m f.d 1 (Map.get 0 vs)
  .next (if f.ord = 1 ∧ m ≠ 0 then s2.acquire f.scope.toNat else s2)

/-- TAGW of one lane: the tag is written at once, after the core's earlier requests where it is a release; a pending
fence holds it (07 R178; 12 R293). -/
def State.writeTag (s : State) (l va tg : Nat) (release : Bool) : State :=
  if s.cur.replay then (s.laneOutput l 1 va tg).2 else
  match s.gang? with
  | none => s
  | some (b, _) =>
    match translate s b.tctx va 1 with
    | .ok pa e ups =>
      let s := ((s.useTrans b.tctx e ups).laneOutput l 1 va tg).2
      match s.fenceOf l with
      | some h => s.post b.core (s.agentOf l) b.vf pa va (.tag (BitVec.ofNat 4 tg)) false 0 (some h)
      | none => (if release then s.drain b.core (fun _ => true) else s).tagWritten pa (BitVec.ofNat 4 tg)
          ⟨some (s.agentOf l), some b.port⟩
    | _ => s

/-- TAGW (07 R178). -/
def execTagw (f : ArgsM) (s : State) : Host.Outcome State Fault Refusal :=
  let s := s.settle (.tagw f)
  .next (s.forLanes (s.active f.g) (fun t l =>
    t.writeTag l (f.va s 32 l % 2 ^ 60) (s.src false f.d l % 16) (f.ord == 1)))

/-- PREF changes no architectural state and never faults (07 R180). -/
def execPref (_ : ArgsM) (s : State) : Host.Outcome State Fault Refusal := .next s

end Sys2Proof.Machine
end

