-- ==== Sys2Proof/Machine/UnitC.lean ====
section
/-! DEFINITION. Unit C: control transfer, masks, barriers, fences, and the instructions of gates, safe points, debugging,
time and events (04 R85 to R97; 08 R184, R185, R209; 12 R292; 15 R359; 16 R381 to R383; 17 R415 to R418). What comes
about at the end of a cycle (R81) is Issue's. -/

namespace Sys2Proof.Machine

/-! ### Control transfer (04 R88, R89) -/

/-- The threads of a lane set changed. -/
def State.onThreads (s : State) (m : Lanes) (f : Nat → Thread → Thread) : State := s.onCrew (fun p => p.mapLanes m f)

/-- How many lanes of the gang leave their path because its lanes obtained different next PCs: all but those at the most
populous one (04 R77). -/
def leavingLanes (p : CrewCore) (m : Lanes) : Nat :=
  let pcs := (laneList m).map (fun l => ((Map.find? p.threads l).getD {}).pc)
  pcs.length - (dedup pcs).foldl (fun n x => max n (pcs.filter (fun y => y = x)).length) 0

/-- A branch's events: its hint missed, lanes diverged at the mask its hint names (04 R89; 17 R412). -/
def State.countBranch (s : State) (u : Bool) (hint : Nat) : State :=
  match s.gang? with
  | none => s
  | some (b, c) =>
    let n := leavingLanes c.core s.cur.eset
    (s.count b.core b.part 0x04 0 (if u && decide (0 < n) then 1 else 0)).count b.core b.part 0x05 hint n

/-- A transfer of the lanes where the guard holds to the PC that each finds. -/
def State.transfer (s : State) (m : Lanes) (target : Nat → DWord) (u : Bool) (hint : Nat) : State :=
  (s.onThreads m (fun l t => { t with pc := target l })).countBranch u hint

/-- The link pair written with the address of the next bundle (04 R88). -/
def State.link (s : State) (m : Lanes) (d : BitVec 8) : State := s.writeReg m d 2 (fun _ => s.cur.npc.toNat)

/-- An event counted once for a gang. -/
def State.countGang (s : State) (m : Lanes) (ev : Nat) : State :=
  match s.gang? with
  | none => s
  | some (b, _) => s.count b.core b.part ev 0 (if m = 0 then 0 else 1)

/-- BRA (04 R88). -/
def execBra (f : ArgsJ) (s : State) : Host.Outcome State Fault Refusal :=
  .next (s.transfer (s.active f.g) (fun _ => jumpTarget s.cur.pc f.off) f.u f.hint.toNat)

/-- CALL (04 R88). -/
def execCall (f : ArgsJ) (s : State) : Host.Outcome State Fault Refusal :=
  let m := s.active f.g
  .next (((s.link m f.d).transfer m (fun _ => jumpTarget s.cur.pc f.off) f.u f.hint.toNat).countGang m 0x06)

/-- BRX: a target whose bundle is no safe point, or misaligned, faults at the branch (04 R88; 15 R359). -/
def execBrx (f : ArgsR) (s : State) : Host.Outcome State Fault Refusal :=
  let s := s.settle (.brx f)
  .next (s.transfer (s.active f.g) (fun l => pcMask (s.src true f.a l)) (f.x.getLsbD 0) 0)

/-- CALLX (04 R88). -/
def execCallx (f : ArgsR) (s : State) : Host.Outcome State Fault Refusal :=
  let s := s.settle (.callx f)
  let m := s.active f.g
  .next (((s.link m f.d).transfer m (fun l => pcMask (s.src true f.a l)) (f.x.getLsbD 0) 0).countGang m 0x06)

/-- RET (04 R88). -/
def execRet (f : ArgsR) (s : State) : Host.Outcome State Fault Refusal :=
  let s := s.settle (.ret f)
  let m := s.active f.g
  .next ((s.transfer m (fun l => pcMask (s.src true f.a l)) false 0).countGang m 0x07)

/-- EXIT: the thread ends; what that clears is cleared at the end of the cycle (04 R90). -/
def execExit (f : ArgsR) (s : State) : Host.Outcome State Fault Refusal :=
  let s := s.settle (.exit f)
  .next (s.onThreads (s.active f.g) (fun _ t => { t with st := .exited }))

/-! ### Masks (04 R85 to R87) -/

/-- The live mask m0: lanes that hold a thread that has not exited. -/
def CrewCore.live (p : CrewCore) : Lanes :=
  lanesWhere (BitVec.allOnes 64) (fun l => match Map.find? p.threads l with
    | some t => t.st != .exited
    | none => false)

/-- A mask as it stands: m0 is the live mask. -/
def CrewCore.mask (p : CrewCore) (m : Nat) : Lanes := if m = 0 then p.live else Map.get 0 p.masks m

/-- Bits of a mask replaced within a lane set. -/
def CrewCore.setMask (p : CrewCore) (m : Nat) (within v : Lanes) : CrewCore :=
  { p with masks := Map.set 0 p.masks m ((Map.get 0 p.masks m &&& ~~~ within) ||| (v &&& within)) }

/-- JOIN (04 R87). -/
def execJoin (f : ArgsR) (s : State) : Host.Outcome State Fault Refusal :=
  .next (s.onCrew (fun p => p.setMask f.d.toNat (s.active f.g) (BitVec.allOnes 64)))

/-- LEAVE (04 R87). -/
def execLeave (f : ArgsR) (s : State) : Host.Outcome State Fault Refusal :=
  .next (s.onCrew (fun p => p.setMask f.d.toNat (s.active f.g) 0))

/-- WAITM: a member arrives and waits; a non-member goes on (04 R87). -/
def execWaitm (f : ArgsR) (s : State) : Host.Outcome State Fault Refusal :=
  let s := s.settle (.waitm f)
  let m := s.active f.g &&& s.pre.mask f.a.toNat &&& s.pre.live
  .next (s.onCrew (fun p =>
    let q := p.mapLanes m (fun _ t => { t with st := .maskWait f.a.toNat, since := s.gts })
    { q with arrived := Map.set 0 q.arrived f.a.toNat (Map.get 0 q.arrived f.a.toNat ||| m) }))

/-- The width of the kernel's logical crews. -/
def State.crewWidth (s : State) : Nat := match s.gang? with | some (b, _) => b.width | none => 32

/-- MSET: in each logical crew the value of its lowest executing lane (04 R87). -/
def execMset (f : ArgsR) (s : State) : Host.Outcome State Fault Refusal :=
  let w := s.crewWidth
  .next ((s.execSets f.g true).foldl (fun t e =>
    match lowLane e.2 with
    | none => t
    | some l => t.onCrew (fun p =>
        p.setMask f.d.toNat (subCrew w e.1) (BitVec.ofNat 64 ((s.src (decide (w = 64)) f.a l % 2 ^ w) * 2 ^ (w * e.1))))) s)

/-- The masks that MOP combines (04 R87). -/
def mopOf (op : Nat) (a b : Lanes) : Lanes :=
  match op with
  | 0 => a &&& b
  | 1 => a ||| b
  | 2 => a ^^^ b
  | 3 => a &&& ~~~ b
  | 4 => a
  | _ => ~~~ a

/-- MOP: once in each logical crew that executes it (04 R87). -/
def execMop (f : ArgsR) (s : State) : Host.Outcome State Fault Refusal :=
  let w := s.crewWidth
  .next ((s.execSets f.g true).foldl (fun t e =>
    t.onCrew (fun p => p.setMask f.d.toNat (subCrew w e.1)
      (mopOf (natBits f.x.toNat 2 0) (s.pre.mask f.a.toNat) (s.pre.mask f.b.toNat)))) s)

/-- MRD: the mask of the lane's own logical crew (04 R87). -/
def execMrd (f : ArgsR) (s : State) : Host.Outcome State Fault Refusal :=
  let w := s.crewWidth
  .next (s.writeReg (s.active f.g) f.d (regCount (decide (w = 64)))
    (fun l => (s.pre.mask f.a.toNat).toNat / 2 ^ (w * (l / w)) % 2 ^ w))

/-- MWR: each lane writes its own bit (04 R87). -/
def execMwr (f : ArgsR) (s : State) : Host.Outcome State Fault Refusal :=
  .next (s.onCrew (fun p => p.setMask f.d.toNat (s.active f.g)
    (lanesWhere (s.active f.g) (fun l => s.src false f.a l % 2 == 1))))

/-! ### Barriers (04 R91, R92) -/

/-- A thread arrives at a barrier: into the arrival set, or when already there into the early set. -/
def Barrier.arrive (r : Barrier) (t : Nat) : Barrier :=
  if r.arr.getLsbD t then { r with early := r.early ||| BitVec.ofNat 1024 (2 ^ t) }
  else { r with arr := r.arr ||| BitVec.ofNat 1024 (2 ^ t) }

/-- BAR: each lane arrives; without `.arrive` it waits. A lane already in the early set has stalled at its checks
(04 R91). -/
def execBar (f : ArgsR) (s : State) : Host.Outcome State Fault Refusal :=
  let s := s.settle (.bar f)
  let n := natBits f.x.toNat 3 0
  let m := s.active f.g
  match s.gang? with
  | none => .next s
  | some (b, _) =>
    let arrivals := fun (r : Barrier) => (laneList m).foldl (fun r l => r.arrive (b.linear s.cur.crew l)) r
    let s1 := s.modBlock s.cur.blk (fun x =>
      { x with bars := Map.insert x.bars n (arrivals ((Map.find? x.bars n).getD {})) })
    let s2 := if s.cur.replay then s else s1
    .next (if f.x.getLsbD 4 then s2
      else s2.onThreads m (fun _ t => { t with st := .barWait n, since := s.gts }))

/-- SBAR: each lane's thread has executed it in this phase; every earlier access of its core is performed first, for the
arrival is a release (04 R92; 12 R286). -/
def execSbar (f : ArgsR) (s : State) : Host.Outcome State Fault Refusal :=
  let s := s.settle (.sbar f)
  let sc := natBits f.x.toNat 2 0
  let m := s.active f.g
  match s.gang? with
  | none => .next s
  | some (b, _) =>
    let s0 := if m = 0 || s.cur.replay then s else s.drain b.core (fun _ => true)
    let arrivals := fun (r : BitVec 1024) => (laneList m).foldl (fun r l => r ||| BitVec.ofNat 1024 (2 ^ b.linear s.cur.crew l)) r
    let s1 := if s.cur.replay then s0 else s0.modBlock s.cur.blk (fun x =>
      { x with sarr := Map.insert x.sarr sc (arrivals ((Map.find? x.sarr sc).getD 0)) })
    .next (if m = 0 then s else if f.x.getLsbD 3 then s1
      else s1.onThreads m (fun _ t => { t with st := .sbarWait sc, since := s.gts }))

/-- YIELD: out of issue until the second regroup point (04 R95). -/
def execYield (f : ArgsR) (s : State) : Host.Outcome State Fault Refusal :=
  .next (s.onThreads (s.active f.g) (fun _ t => { t with st := .yielded 2, age := 0 }))

/-- NSLEEP: each lane for its own duration; 0 acts as YIELD (04 R95). -/
def execNsleep (f : ArgsR) (s : State) : Host.Outcome State Fault Refusal :=
  .next (s.onThreads (s.active f.g) (fun l t =>
    let d := s.src false f.a l
    if d = 0 then { t with st := .yielded 2, age := 0 } else { t with st := .sleep (s.gts + min d 1048575) }))

/-! ### FENCE (12 R292, R293) -/

/-- FENCE: an acquiring fence invalidates; a releasing one is pending while a request that its core posted before it is
still to be performed, and its lanes go on speculatively (12 R292, R293). -/
def execFence (f : ArgsR) (s : State) : Host.Outcome State Fault Refusal :=
  let s := s.settle (.fence f)
  let m := s.active f.g
  let kind := natBits f.x.toNat 1 0
  let scope := natBits f.x.toNat 4 2
  match s.gang? with
  | none => .next s
  | some (b, c) =>
    if m = 0 ∨ s.cur.replay then .next s
    else
      let s1 := if kind = 1 then s else (s.l1Acquire b.core scope).fenceFlags b.core (fun a =>
        a.blk == s.cur.blk && a.crew == s.cur.crew && m.getLsbD a.lane)
      if kind = 0 ∨ ((s.core b.core).posted.isEmpty ∧ c.fences.isEmpty) then .next s1
      else
        let (i, s2) := s1.takeId
        .next (s2.modCrew s.cur.blk s.cur.crew (fun x =>
          { x with fences := x.fences ++ [⟨i, m, kind, scope, i, x.core, [], x.log.length, x.bundles, x.ord, []⟩] }))

/-! ### Gates, safe points, debugging, time (08 R184, R185, R209; 15 R359; 16 R381 to R383; 17 R415 to R418) -/

/-- HATCH: the thread waits in the gate; the first HATCH of an epoch sets the gate PC, a thread at another PC faults at
its checks (08 R185). -/
def execHatch (f : ArgsR) (s : State) : Host.Outcome State Fault Refusal :=
  let s := s.settle (.hatch f)
  let m := s.active f.g
  let s1 := if s.cur.replay then s else s.modBlock s.cur.blk (fun b =>
    { b with gatePc := some (b.gatePc.getD s.cur.pc), gateMap := natBits f.x.toNat 5 0, gateLen := max 1 s.cur.units.length, gateSlot := s.cur.slot })
  .next (if m = 0 then s else s1.onThreads m (fun _ t => { t with st := .gate, since := s.gts }))

/-- A crew takes a checkpoint: its state, and an empty log; a rerun under way has reached the next checkpoint
(16 R402, R403). -/
def Crew.takeCheckpoint (c : Crew) : Crew :=
  { c with checkpoint := c.core, log := [], bundles := 0, ord := 0, rerun := c.rerun.map (fun r => { r with reached := true }) }

/-- SAFEPT: the crew takes a checkpoint (15 R359; 16 R402). -/
def execSafept (f : ArgsR) (s : State) : Host.Outcome State Fault Refusal :=
  let s := s.settle (.safept f)
  let m := s.active f.g
  .next (if m = 0 then s else s.modCrew s.cur.blk s.cur.crew (fun c =>
    { c.takeCheckpoint with ckLanes := if c.bundles = 0 && c.ckPc == s.cur.pc.toNat then c.ckLanes ||| m else m, ckPc := s.cur.pc.toNat }))

/-- SHELF declares the slots after its bundle a loop body, which the column may hold; a guard that holds in no lane
declares nothing (08 R209, R210; 15 R363). -/
def execShelf (f : ArgsR) (s : State) : Host.Outcome State Fault Refusal :=
  match s.gang? with
  | none => .next s
  | some (b, c) =>
    .next (if s.active f.g = 0 then s else
      (s.modCrew s.cur.blk s.cur.crew (fun x => { x with shelf := some (s.cur.npc.toNat, 8 * (f.x.toNat + 1)) })).holdBody b.core
        ⟨c.column, b.vf, s.cur.npc.toNat, f.x.toNat + 1⟩)

/-- TRAP: without `.c` the lane has faulted at its checks; with it, one record a lane, and the thread goes on
(16 R382). -/
def execTrap (f : ArgsR) (s : State) : Host.Outcome State Fault Refusal :=
  let s := s.settle (.trap f)
  .next (s.forLanes (if s.cur.replay then 0 else s.active f.g) (fun t l =>
    match t.gang? with
    | none => t
    | some (b, c) =>
      t.trap (threadRecord t b t.cur.crew c l t.cur.pc.toNat (0x1E0 + natBits f.x.toNat 4 0)
        (if f.x.getLsbD 6 then s.src (f.x.getLsbD 7) f.a l else 0) 15 (2 ^ t.cur.slot) 3)))

/-- BKPT: with a debugger attached, one record a lane and the crew stops after the bundle; else no effect (16 R383;
17 R429; log 20, DEDUCED). -/
def execBkpt (f : ArgsR) (s : State) : Host.Outcome State Fault Refusal :=
  let s := s.settle (.bkpt f)
  let m := s.active f.g
  match s.gang? with
  | none => .next s
  | some (b, _) =>
    if s.attachedAt b s.cur.pc.toNat ∧ m ≠ 0 ∧ !s.cur.replay then
      .next ((s.forLanes m (fun t l =>
        match t.gang? with
        | none => t
        | some (b, c) =>
          t.trap (threadRecord t b t.cur.crew c l t.cur.pc.toNat 0x182 (natBits f.x.toNat 7 0) 15 (2 ^ t.cur.slot) 3))).modCrew
        s.cur.blk s.cur.crew (fun c => { c with stop := { c.stop with stopped := true } }))
    else .next s

/-- GTS: the time of issue (17 R417). -/
def execGts (f : ArgsR) (s : State) : Host.Outcome State Fault Refusal :=
  let m := s.active f.g
  let (vs, s1) := s.eachLane (fun t l => t.laneInput l 8 s.gts) (laneList m)
  .next (s1.writeReg m f.d 2 (Map.get 0 vs))

/-- What CNT reads: a counter of the partition, zero beyond its share, or the partition's identity (17 R415). -/
def cntValue (s : State) (b : Block) (n : Nat) : Nat :=
  let mode := s.mode b.core
  if n < modeShare mode then (Map.get 0 (s.core b.core).ctr (16 * b.part + n)).toNat
  else if n ≤ 15 then 0
  else mode + b.part * 4 + modeShare mode * 16

/-- CNT (17 R415). -/
def execCnt (f : ArgsR) (s : State) : Host.Outcome State Fault Refusal :=
  let m := s.active f.g
  match s.gang? with
  | none => .next s
  | some (b, _) =>
    let (vs, s1) := s.eachLane (fun t l => t.laneInput l 8 (cntValue s b (natBits f.x.toNat 4 0))) (laneList m)
    .next (s1.writeReg m f.d 2 (Map.get 0 vs))

/-- EVT: one trace record for the gang, and one USER_EVT for each lane (17 R418). A bundle that a rerun
repeats writes none again (16 R402). Its mask is that of the lowest lane's half (17 R425; log 83, DEDUCED). -/
def execEvt (f : ArgsR) (s : State) : Host.Outcome State Fault Refusal :=
  let s := s.settle (.evt f)
  let m := s.active f.g
  match s.gang?, lowLane m with
  | some (b, c), some l =>
    let id := natBits f.x.toNat 7 0
    if s.cur.replay then .next s
    else
      .next ((s.traceThread b s.cur.crew c l s.cur.pc.toNat 0
        (field (s.src false f.a l) 0 32 + field id 32 8 + field (m.toNat / 2 ^ (32 * (l / 32))) 40 32)).count b.core b.part 0x10 id (laneList m).length)
  | _, _ => .next s

end Sys2Proof.Machine
end

