-- ==== Sys2Proof/Machine/Home.lean ====
section
/-! DEFINITION. Home atomics, range updates at the Larder, and the queueing of copies (11 R263 to R274). -/

namespace Sys2Proof.Machine

/-- The lanes of a home atomic with the physical word that each names. -/
def homeNames (f : ArgsAt) (cas : Bool) (s : State) (m : Lanes) : Map (Nat × Nat) :=
  match s.gang? with
  | none => []
  | some (b, _) =>
    (laneList m).filterMap (fun l =>
      match translate s b.tctx (f.va s cas l) 2 with
      | .ok pa _ _ => some (l, (pa, f.va s cas l))
      | _ => none)

/-- The translations' effects and the watchpoints of a home atomic's lanes (13 R310; 17 R428). -/
def homeTouch (f : ArgsAt) (cas : Bool) (s0 : State) (m : Lanes) (s : State) : State :=
  s.forLanes m (fun t l =>
    match t.gang? with
    | none => t
    | some (b, _) =>
      match translate t b.tctx (f.va s0 cas l) 2 with
      | .ok pa e ups => ((t.useTrans b.tctx e ups).recordTag l pa e.tg).noteWatch b l (b.linear t.cur.crew l) 0 0 (f.va s0 cas l) f.bytes 2
      | _ => t)

/-- A home atomic's groups performed in turn, each after the core's earlier requests to its word (11 R265; 12 R459). -/
def homeGroups (f : ArgsAt) (cas : Bool) (s0 : State) (names : Map (Nat × Nat)) (s : State) : List (List Nat) → Map Nat × State
  | [] => ([], s)
  | g :: gs =>
    match s.gang?, Map.find? names (g.headD 0) with
    | some (b, _), some (pa, _) =>
      let s := s.drain b.core (fun p => p.touches pa f.bytes)
      let r := atGroup f s0 cas (s.num pa f.bytes) g
      let s := s.groupLog f.bytes (f.va s0 cas) (fun l => (atOperand f s0 cas l).2) (Map.get 0 (zipLanes g r.2)) g
      let s := ((s.performBytes pa (toBytesLE f.bytes r.1) ⟨some (s.agentOf (g.headD 0)), some b.port⟩).dropOwn b.core pa).countHome b.vf pa
      let (m2, s) := homeGroups f cas s0 names s gs
      (zipLanes g r.2 ++ m2, s)
    | _, _ => homeGroups f cas s0 names s gs

/-- ATOM.H, CAS.H: an ordered one first performs every earlier request of the core, and then acquires (11 R264, R265). -/
def homeAtomic (f : ArgsAt) (cas : Bool) (s : State) : State :=
  let m := s.active f.g
  let operand := fun l => (atOperand f s cas l).2
  let (old, s3) := if s.cur.replay then s.replayLanes f.bytes (f.va s cas) operand true (laneCount m) else
    let names := homeNames f cas s m
    let gs := groupLanes (names.map Prod.fst) (fun l => ((Map.find? names l).getD (0, 0)).1)
    let s1 := homeTouch f cas s m s
    let s2 := if f.ord = 1 then (match s.gang? with | some (b, _) => s1.drain b.core (fun _ => true) | none => s1) else s1
    homeGroups f cas s names s2 gs
  let s4 := s3.writeReg m f.d (regCount f.aw) (Map.get 0 old)
  if f.ord = 1 ∧ m ≠ 0 then s4.acquire f.scope.toNat else s4

/-- ATOM_H (11 R264). -/
def execAtomH (f : ArgsAt) (s : State) : Host.Outcome State Fault Refusal := .next (homeAtomic f false (s.settle (.atomH f)))

/-- CAS_H (11 R264). -/
def execCasH (f : ArgsAt) (s : State) : Host.Outcome State Fault Refusal := .next (homeAtomic f true (s.settle (.casH f)))

/-- RED.H: each group is posted, returning nothing; lanes that stand behind different fences form groups apart, each held
by its own (11 R264, R265; 12 R293; log 79, DESIGN CHOICE). The core's own copy of the line leaves its L1 when the group is
performed (State.perform). -/
def execRedH (f : ArgsAt) (s : State) : Host.Outcome State Fault Refusal :=
  let s := s.settle (.redH f)
  let m := s.active f.g
  let operand := fun l => (atOperand f s false l).2
  .next (if s.cur.replay then (s.replayLanes f.bytes (f.va s false) operand false (laneCount m)).2 else
    let names := homeNames f false s m
    let gs := (groupLanes (names.map Prod.fst) (fun l => ((Map.find? names l).getD (0, 0)).1)).flatMap s.byFence
    gs.foldl (fun t g =>
      match t.gang?, Map.find? names (g.headD 0) with
      | some (b, _), some (pa, va) =>
        let t := g.foldl (fun t l => (t.laneOutput l f.bytes (f.va s false l) (operand l)).2) t
        t.post b.core (t.agentOf (g.headD 0)) b.vf pa va (.group f.aop.toNat f.aw (g.map (fun l => BitVec.ofNat 64 (operand l))))
          (f.ord == 1) f.scope.toNat (t.fenceOf (g.headD 0))
      | _, _ => t) (homeTouch f false s m s))

/-- LOP of one lane: its range update is posted, one request for each page that the range reaches into (11 R267, R268). -/
def State.postLop (s : State) (l va op n c : Nat) (w64 release : Bool) (scope : Nat) : State :=
  let w := if w64 then 8 else 4
  let s1 := (s.laneOutput l w va (c + n * 2 ^ 64)).2
  if s.cur.replay then s1 else
  match s.gang? with
  | none => s
  | some (b, _) =>
    (lopPieces va (n * w)).foldl (fun s p =>
      match translate s b.tctx (p.1 % 2 ^ 64) 2 with
      | .ok pa e ups =>
        let s := ((s.useTrans b.tctx e ups).recordTags l pa p.2 e.tg)
        s.post b.core (s.agentOf l) b.vf pa (p.1 % 2 ^ 64) (.lop op w64 (p.2 / w) (BitVec.ofNat 64 c)) release scope (s.fenceOf l)
      | _ => s) (s1.noteWatch b l (b.linear s.cur.crew l) 0 0 va (max 1 (n * w)) 2)

/-- LOP (11 R267, R268). -/
def execLop (f : ArgsR) (s : State) : Host.Outcome State Fault Refusal :=
  let s := s.settle (.lop f)
  let w64 := f.x.getLsbD 4
  .next (s.forLanes (s.active f.g) (fun t l =>
    t.postLop l (s.src true f.a l) (natBits f.x.toNat 3 0) (s.src false f.b l) (s.src w64 f.c l) w64 (f.x.getLsbD 5)
      (natBits f.x.toNat 8 6)))

/-- How long a queued copy waits at most before the engine runs it (12 R291; log 5, DESIGN CHOICE). -/
def copyDelay : Nat := 64

/-- A copy request queued on a block's core (11 R269, R272; 12 R295). -/
def State.queueCopy (s : State) (b : Block) (a : Agent) (thread : Nat) (d : CopyDesc) (pc lpc : DWord) (fence : Option Nat) : State :=
  s.modCore b.core (fun c => { c with copies := c.copies ++
    [⟨a, thread, d.src, d.dst, d.len, d.flag, BitVec.ofNat 32 d.value, d.ssp, d.dsp, d.fw, d.acq, d.rel, d.scope, false, pc, lpc,
      fence, none, s.gts + copyDelay, s.cur.slot, false, 0, [], false⟩] })

/-- CP: each lane's request is queued, in lane order (11 R270 to R272). -/
def execCp (f : ArgsR) (s : State) : Host.Outcome State Fault Refusal :=
  let s := s.settle (.cp f)
  .next (s.forLanes (s.active f.g) (fun t l =>
    match t.gang? with
    | none => t
    | some (b, _) =>
      let d := cpDesc s f l
      let (go, t) := t.laneOutput l 4 d.dst (d.src + d.len * 2 ^ 64)
      if go then t.queueCopy b (t.agentOf l) (b.linear t.cur.crew l) d t.cur.pc 0 (t.fenceOf l) else t))

end Sys2Proof.Machine
end

