-- ==== Sys2Proof/Machine/Loft.lean ====
section
/-! DEFINITION. What the units of the Loft share: engines in flight, the checks that stand before a Loft bundle's commit,
the Loft's accesses, and what a fault or a hold does to the context (08 R192 to R207; 13 R321). -/

namespace Sys2Proof.Machine

/-! ### The log of a checkpointed run -/

/-- A Loft context's log appended to in a live run. -/
def LoftCtx.append (x : LoftCtx) (e : LogEntry) : LoftCtx :=
  { x with log := x.log ++ [e], rerun := x.rerun.map (fun r => { r with pos := x.log.length + 1 }) }

/-- The entry that a Loft context's rerun has come to. -/
def LoftCtx.nextEntry (x : LoftCtx) : Option LogEntry :=
  match x.rerun with
  | none => none
  | some r => x.log[r.pos]?

/-- A rerun one entry further, with whether what it did there differed from the first run. -/
def LoftCtx.advance (x : LoftCtx) (differs : Bool) : LoftCtx :=
  { x with rerun := x.rerun.map (fun r => { r with pos := r.pos + 1, mismatch := r.mismatch || differs }) }

/-- A value that the context receives: logged, or in a bundle that a rerun repeats taken from the log (16 R402). -/
def State.loftInput (s : State) (size value : Nat) : Nat × State :=
  match s.loft? with
  | none => (value, s)
  | some (_, x) =>
    if s.cur.replay then
      ((match x.nextEntry with
        | some e => if e.kind = 0 then e.value else value
        | none => value), s.modLoft s.cur.blk (fun x => x.advance false))
    else (value, s.modLoft s.cur.blk (fun x => x.append ⟨0, 0, s.cur.slot, size, x.bundles, 0, value⟩))

/-- A value that the context performs: logged, or in a bundle that a rerun repeats compared and not performed again
(16 R402, R403). -/
def State.loftOutput (s : State) (size addr value : Nat) : Bool × State :=
  match s.loft? with
  | none => (true, s)
  | some (_, x) =>
    if s.cur.replay then
      let same := match x.nextEntry with
        | some f => f.kind = 1 && f.size = size && f.addr = addr && f.value = value
        | none => false
      (false, s.modLoft s.cur.blk (fun x => x.advance (!same)))
    else (true, s.modLoft s.cur.blk (fun x => x.append ⟨1, 0, s.cur.slot, size, x.bundles, addr, value⟩))

/-! ### Whether a slot acts -/

/-- Whether the Loft bundle still commits and a slot's guard holds (03 R45). -/
def State.loftActs (s : State) (g : Guard) : Bool := s.cur.loft && s.cur.eset.getLsbD 0 && s.loftGuard g

/-! ### Accesses (08 R202, R207) -/

/-- The checks of a scratchpad access of the Loft; an offset above 32 bits is out of range (07 R167; 08 R199, R202). -/
def State.loftScratch (s : State) (b : Block) (a n align : Nat) (windows : Bool) : Verdict :=
  if 2 ^ 32 ≤ a then .fault 0x090 a 7
  else
    match s.scratchTarget s.cur.blk b (windows && natBit a 31) a with
    | .inl c => .fault c a 7
    | .inr (t, size, off) =>
      if size < off + n then .fault 0x090 a 7
      else if off % align ≠ 0 then .fault 0x088 a 7
      else if s.heldScratch b.core t off n then .stall else .ok

/-- The checks of a global access of the Loft, page by page, tags by granule (07 R167; 08 R202). -/
def State.loftGlobal (s : State) (b : Block) (x : LoftCtx) (va n : Nat) (write : Bool) : Verdict :=
  if natBits va 59 57 ≠ 0 then .fault 0x089 va 7
  else if va % 16 ≠ 0 then .fault 0x088 va 7
  else
    firstBad ((pages va n).map (fun p =>
      let a := p.1 % 2 ^ 64
      if natBits a 59 57 ≠ 0 then .fault 0x089 a 7
      else if x.refused = some (s.transKey a) then .fault 0x086 a 7
      else
        match translate s b.tctx a (if write then 1 else 0) with
        | .wait => .stall
        | .fail c v i _ =>
          (match s.transVerdict b.vf c v i 7 (s.transKey a) with
           | .fault c2 _ _ => .fault c2 a 7
           | r => r)
        | .ok pa e _ =>
          if s.isFrozen pa || s.heldTag b.core pa p.2 || s.heldBytes b.core pa p.2 then .stall
          else if e.tg && s.tagDiffers va pa p.2 then .fault 0x08A a 7
          else if !write && s.consumes b.core pa p.2 (if e.larder then none else some b.part) then .fault 0x095 a 7
          else .ok))

/-- A scratchpad access of the Loft that reads, and has passed its checks, raises 0x095 where it consumes poison
(16 R401). -/
def State.loftSound (s : State) (b : Block) (a n : Nat) (windows : Bool) (v : Verdict) : Verdict :=
  match v, s.scratchTarget s.cur.blk b (windows && natBit a 31) a with
  | .ok, .inr (t, _, off) => if s.spoiltScratch t off n then .fault 0x095 a 7 else .ok
  | v, _ => v

/-- Whether a Loft access hits a watchpoint; its accessor is the entering thread (17 R428). -/
def State.loftWatch (s : State) (space target addr named n kind : Nat) : State :=
  match s.loft? with
  | none => s
  | some (b, x) => s.noteNamed b (x.frame.thread % b.crewLanes) x.frame.thread space target addr named n kind

/-- The agent of a Loft context. -/
def State.loftAgent (s : State) : Agent := ⟨s.cur.blk, 64, 0⟩

/-- A list divided into parts of n, the last of what is left. -/
def chunks (n : Nat) : Nat → List α → List (List α)
  | 0, _ => []
  | fuel + 1, l => if l.isEmpty then [] else l.take n :: chunks n fuel (l.drop n)

/-- The words of scratchpad accesses of the Loft counted in passes, as many at a time as a beat moves, under the row of the
requester: 4 unit X, 5 the gathers and nests; words of another core's scratchpad at its port (07 R171; 08 R206; 17 R422;
log 67, DEDUCED). -/
def State.loftPasses (s : State) (row : Nat) (pieces : List (Nat × Nat)) : State :=
  if s.cur.replay then s else
  match s.loft? with
  | none => s
  | some (b, _) =>
    let words : List (Nat × Nat) := pieces.flatMap (fun p =>
      match s.scratchTarget s.cur.blk b (natBit p.1 31) p.1 with
      | .inl _ => []
      | .inr (t, _, off) => (List.range ((off % 4 + p.2 + 3) / 4)).map (fun i => (t, off / 4 + i)))
    (chunks 32 words.length words).foldl (fun s ws =>
      (dedup (ws.map Prod.fst)).foldl (fun s t =>
        match s.block? t with
        | none => s
        | some y =>
          let r := if y.core = b.core then row else 7 + (b.core % 4 + 4 - y.core % 4) % 4
          s.bankPasses y.core y.part r ((ws.filter (fun w => w.1 == t)).map Prod.snd)) s) s

/-- n bytes that the Loft reads from the scratchpad or a window, as a number; acq where the read acquires (08 R199). -/
def State.loftReadScratch (s : State) (a n : Nat) (acq : Bool) : Nat × State :=
  if s.cur.replay then s.loftInput n 0 else
  match s.loft? with
  | none => (0, s)
  | some (b, _) =>
    match s.scratchTarget s.cur.blk b (natBit a 31) a with
    | .inl _ => (0, s)
    | .inr (t, _, off) =>
      let s := s.drainScratch b.core t off n
      let s := if t = s.cur.blk then s.readFlag b.core s.loftAgent off n acq else s
      match s.block? t with
      | none => (0, s)
      | some y => (s.loftWatch 1 y.index off a n 0).loftInput n (y.scratchNum off n)

/-- n bytes that the Loft reads from global memory, as a number, through the L1 or the Larder (11 R258, R262). -/
def State.loftReadGlobal (s : State) (va n : Nat) : Nat × State :=
  if s.cur.replay then s.loftInput n 0 else
  match s.loft? with
  | none => (0, s)
  | some (b, _) =>
    let r := (lines va n).foldl (fun (r : Nat × Nat × State) p =>
      match translate r.2.2 b.tctx (p.1 % 2 ^ 64) 0 with
      | .ok pa e ups =>
        let t := r.2.2.useTrans b.tctx e ups
        let q := if e.larder then t.loadHome b.core b.part b.vf pa p.2 else t.loadL1 b.core b.part b.vf pa p.2 e.sc
        (r.1 + q.1 * 2 ^ (8 * r.2.1), r.2.1 + p.2, q.2)
      | _ => r) (0, 0, s.loftWatch 0 0 va va n 0)
    r.2.2.loftInput n r.1

/-- n bytes stored by the Loft to the scratchpad or a window. -/
def State.loftWriteScratch (s : State) (a n value : Nat) : State :=
  if s.cur.replay then (s.loftOutput n a value).2 else
  match s.loft? with
  | none => s
  | some (b, _) =>
    match s.scratchTarget s.cur.blk b (natBit a 31) a with
    | .inl _ => s
    | .inr (t, _, off) =>
      match s.block? t with
      | none => s
      | some y =>
        let s := ((s.loftWatch 1 y.index off a n 1).loftOutput n a value).2
        let (bs, s) := if t = s.cur.blk then s.raceStore b s.loftAgent true off (toBytesLE n value) else (toBytesLE n value, s)
        (s.drainScratch b.core t off n).scratchWrite t off bs

/-- n bytes stored by the Loft to global memory: performed in issue order, with the core's own L1 copy updated
(08 R207; 11 R258). -/
def State.loftWriteGlobal (s : State) (va n value : Nat) : State :=
  if s.cur.replay then (s.loftOutput n va value).2 else
  match s.loft? with
  | none => s
  | some (b, _) =>
    ((lines va n).foldl (fun (r : Nat × State) p =>
      match translate r.2 b.tctx (p.1 % 2 ^ 64) 1 with
      | .ok pa e ups =>
        let t := (r.2.useTrans b.tctx e ups).drain b.core (fun q => q.touches pa p.2)
        let (bs, t) := t.raceStore b s.loftAgent false (p.1 % 2 ^ 57) (toBytesLE p.2 (value / 2 ^ (8 * r.1)))
        let t := (t.performBytes pa bs ⟨some s.loftAgent, some b.port⟩).l1Write b.port pa bs s.loftAgent
        (r.1 + p.2, t.countHome b.vf pa)
      | _ => r) (0, ((s.loftWatch 0 0 va va n 1).loftOutput n va value).2)).2

/-! ### Engines in flight (08 R194, R195) -/

/-- The clock until which an engine is busy. -/
def LoftCtx.busyUntil (x : LoftCtx) (e : Nat) : Nat := Map.get 0 x.busy e

/-- An engine instruction issued with its beats: the engine is busy for them, and its writes land after them. -/
def State.fly (s : State) (engine beats : Nat) (ws : List EngWrite) (nest : Option Nest) : State :=
  s.modLoft s.cur.blk (fun x =>
    { x with busy := Map.set 0 x.busy engine (x.clk + beats),
             flights := x.flights ++ [⟨engine, x.clk, x.clk + beats, ws, nest, s.cur.pc.toNat, s.cur.slot⟩] })

/-- The clock by which every instruction of the engines of a mask has run out its beats and written its destination
(08 R200). -/
def LoftCtx.idleAt (x : LoftCtx) (mask : Nat) : Nat :=
  listMax (((List.range 3).filter (fun e => natBit mask e)).map (fun e =>
    max (x.busyUntil (e + 1)) (listMax ((x.flights.filter (fun f => f.engine == e + 1)).map (fun f => f.ready)))))

/-- The schedule check of an engine slot (08 R195). -/
def LoftCtx.scheduled (x : LoftCtx) (engine : Nat) (v : Verdict) : Verdict :=
  if x.clk < x.busyUntil engine then .fault 0x041 0 15 else v

/-- A cause that a slot's own check reports, with no address. -/
def ofCause : Option Nat → Verdict
  | none => .ok
  | some c => .fault c 0 15

/-- The format slot that an instruction names. -/
def State.fslot (s : State) (n : Nat) : DWord :=
  match s.loft? with
  | none => 0
  | some (b, _) => recSlot b.record n

/-- The stochastic-rounding value of a destination element of the Loft (02 R33). -/
def State.loftRandom (s : State) (i : Nat) : Nat :=
  match s.loft? with
  | none => 0
  | some (b, _) => srRandom (s.loftBase b) b.loftSrn (BitVec.ofNat 32 i)

/-- The Loft's sequence number advanced after an instruction that used SR (02 R33). -/
def State.advanceLoftSrn (s : State) (rm : Nat) : State :=
  if rm = 5 then s.modBlock s.cur.blk (fun b => { b with loftSrn := b.loftSrn + 1 }) else s

/-! ### Dispositions -/

/-- The Loft bundle commits no slot. -/
def State.dropLoft (s : State) : State := { s with cur := { s.cur with eset := 0 } }

/-- A slot's verdict on the context takes effect: a fault traps under the gate frame, and no slot of its bundle takes effect,
the engines' and the Q unit's alike (log 78, DESIGN CHOICE); a recoverable one holds the whole context; an unsatisfied QWAIT
waits, with one of the core's watches if one is free (08 R192, R193, R199; 13 R321). -/
def State.loftDispose (s : State) (b : Block) : Verdict → State
  | .ok => s
  | .fault c a k => s.dropLoft.loftTrap c a k
  | .hold c v i k a =>
    let (h, s) := s.dropLoft.pageRequest b.vf c v i k b.lid.toNat
    (s.modLoft s.cur.blk (fun x => { x with wait := .page h.1 h.2, heldAt := a })).modBlock s.cur.blk (fun y =>
      { y with faultAt := some (y.faultAt.getD s.gts) })
  | .sleep ea =>
    let w := decide (s.watches b.core < 256)
    s.dropLoft.modLoft s.cur.blk (fun x =>
      { x with wait := .flag ea (s.gts + (if w then 1024 else 64)) s.gts w, waitFrom := some (x.waitFrom.getD s.gts) })
  | _ => s.dropLoft

/-! ### A detected error (16 R402; 09 R232) -/

/-- A tile of boundedly undefined contents (00 R3; log 8, DESIGN CHOICE). -/
def freeTile (n : Nat) : Tile :=
  ⟨BitVec.ofNat 32768 (((List.range 1024).map (fun i => (Config.freeWord (n + i)).toNat * 2 ^ (32 * i))).sum),
   BitVec.ofNat 4096 (((List.range 128).map (fun i => (Config.freeWord (n + 1024 + i)).toNat * 2 ^ (32 * i))).sum)⟩

/-- The low n registers of a file with those outside a live list, from a code of theirs on, given other values. -/
def outside {α : Type} [DecidableEq α] (d : α) (m : Map α) (live code n : Nat) (f : Nat → α) : Map α :=
  (List.range n).foldl (fun m r => if natBit live (code + r) then m else Map.set d m r (f r)) m

/-- A free 64-bit value. -/
def freeDWord (n : Nat) : DWord := Config.freeWord n ++ Config.freeWord (n + 1)

/-- A Loft context's registers with those outside a live list boundedly undefined: q, lc, lf, the latches, es, and the
shadows of hatch tiles, by their register codes (03 R55; 15 R360; log 8, DESIGN CHOICE). -/
def LoftRegs.undefinedOutside (p : LoftRegs) (live fresh : Nat) : LoftRegs :=
  { p with
    lf := outside 0 p.lf live 36 4 (fun r => (Config.freeByte (fresh + 100 + r)).setWidth 4),
    es := outside 0 p.es live 56 8 (fun r => freeDWord (fresh + 110 + 2 * r)),
    g0 := if natBit live 40 then p.g0 else (freeTile (fresh + 140000)).data,
    g1 := if natBit live 41 then p.g1 else (freeTile (fresh + 142048)).data,
    shadow := Map.mapVals (fun h t => if natBit live (128 + h) then t else freeTile (fresh + 144096 + 2048 * h)) p.shadow,
    q := outside 0 p.q live 0 32 (fun r => freeDWord (fresh + 2 * r)),
    lc := outside 0 p.lc live 32 4 (fun r => Config.freeWord (fresh + 64 + r)) }

/-- Tiles with those outside a live list boundedly undefined. -/
def tilesOutside (n : Nat) (tiles : Map Tile) (live fresh : Nat) : Map Tile :=
  outside Tile.zero tiles live 64 n (fun i => freeTile (fresh + 2048 * i))

/-- A Loft context that detected an error rolls back to its checkpoint: registers, tiles and engines as they stood, with
what was in flight abandoned; registers outside the live list of the QSAFE are boundedly undefined (15 R360; log 8, DESIGN CHOICE). -/
def State.detectLoft (s : State) (blk cause pc slot unit addr : Nat) : State :=
  match s.block? blk with
  | none => s
  | some b =>
    match b.loft with
    | none => s
    | some x =>
      let (n, s) := s.takeFresh (2 ^ 18)
      let live := if x.ckPc = 0 then none else s.liveMap b x.ckPc true
      let regs := match live with
        | none => x.checkpoint
        | some m => x.checkpoint.undefinedOutside m n
      let tiles := match live with
        | none => x.ckTiles
        | some m => tilesOutside (recTiles b.record) x.ckTiles m (n + 4096)
      let r : Rerun := match x.rerun with
        | none => ⟨2, 0, [x.bundles], false, false, cause, s.gts, x.frame.thread, pc, slot, unit, addr⟩
        | some r => { r with run := r.run + 1, pos := 0, reached := false, detectedAt := r.detectedAt ++ [x.bundles] }
      (s.modBlock blk (fun b =>
        { b with tiles := tiles, loftSrn := x.ckSrn,
                 loft := some { x with regs := regs, clk := x.ckClk, busy := x.ckBusy, flights := x.ckFlights, wait := .none, waitFrom := none,
                                       bundles := 0, rerun := some r } })).count b.core b.part 0x0F 0 1

end Sys2Proof.Machine
end

