-- ==== Sys2Proof/Machine/Nest.lean ====
section
/-! DEFINITION. The loop nests of TGEMM and TRESUME: descriptors, beats, where a nest stands after some of them, and what
its accumulators then hold (09 R217, R221 to R228). -/

namespace Sys2Proof.Machine

/-- An operand of a nest (09 R221). -/
structure GemmOp where
  tiles : Nat
  sc : Bool
  qw : Bool
  rank : Nat
  base : Nat
  xstr : Nat
  kstr : Nat
deriving DecidableEq, Repr

/-- The fields of an operand descriptor that both share. -/
def gemmOp (d : DWord) : GemmOp :=
  ⟨natBits d.toNat 55 52 + 1, d.getLsbD 51, d.getLsbD 50, natBits d.toNat 49 48, natBits d.toNat 38 26,
    natBits d.toNat 25 13, natBits d.toNat 12 0⟩

/-- Depth steps of a nest, from operand A's descriptor. -/
def gemmKt (d : DWord) : Nat := natBits d.toNat 63 56 + 1

/-- The reserved bits of the two descriptors are zero, and RANK is 0 without QW (check 1 of 09 R222). -/
def gemmReserved (qa qb : DWord) : Bool :=
  natBits qa.toNat 45 39 == 0 && natBits qb.toNat 63 56 == 0 && natBits qb.toNat 47 39 == 0
    && (qa.getLsbD 50 || natBits qa.toNat 49 48 == 0) && (qb.getLsbD 50 || natBits qb.toNat 49 48 == 0)

/-- Scratchpad offset of tile (x, k) of an operand (09 R221). -/
def GemmOp.at_ (o : GemmOp) (x k : Nat) : Nat := 128 * (o.base + x * o.xstr + k * o.kstr)

/-- Whether operand A is the narrower, operand B (09 R213). -/
def narrowerA (sl : Slot) : Bool := decide (kindBits sl.ak < kindBits sl.bk)
def narrowerB (sl : Slot) : Bool := decide (kindBits sl.bk < kindBits sl.ak)

/-- The tile index along K that an operand uses at depth step k (09 R221). -/
def kTile (narrower : Bool) (rho k : Nat) : Nat := if narrower then k / rho else k

/-- How many tiles along K an operand has. -/
def kTiles (narrower : Bool) (rho kt : Nat) : Nat := if narrower then (kt + rho - 1) / rho else kt

/-- Beats of one tile step in whole mode (09 R216). -/
def stepOf (sl : Slot) : Nat := if kindBits sl.ak = 32 ∨ kindBits sl.bk = 32 then 16 else 4

/-! ### Needs (09 R225) -/

/-- Beats to fetch an operand's tiles. -/
def opFetch (o : GemmOp) : Nat := o.tiles * (if o.sc then 36 else 32)

/-- fetch(k) of 09 R225, in whole mode. -/
def gemmFetch (sl : Slot) (qa qb : DWord) (k : Nat) : Nat :=
  let rho := sliceRatio sl.ak sl.bk
  if k = gemmKt qa then 0
  else (if !narrowerA sl || k % rho == 0 then opFetch (gemmOp qa) else 0)
    + (if !narrowerB sl || k % rho == 0 then opFetch (gemmOp qb) else 0)

/-- Compute beats of depth step k in whole mode, less the whole groups done before a nest's start (09 R225, R228). -/
def gemmCompute (sl : Slot) (qa qb : DWord) (start : NestPos) (k : Nat) : Nat :=
  let nt := (gemmOp qb).tiles
  let c := (gemmOp qa).tiles * nt * stepOf sl
  if k = start.k then c - (((start.m * nt + start.n) * 4 + start.g) * (stepOf sl / 4)) else c

/-- Beats from depth step k to the end, n of them left. -/
def gemmTail (sl : Slot) (qa qb : DWord) (start : NestPos) : Nat → Nat → Nat
  | 0, _ => 0
  | n + 1, k => max (gemmCompute sl qa qb start k) (gemmFetch sl qa qb (k + 1)) + gemmTail sl qa qb start n (k + 1)

/-- The need of a nest from where it starts, in a partition mode of multiple m (09 R225, R228). -/
def nestNeed (sl : Slot) (qa qb : DWord) (start : NestPos) (m : Nat) : Nat :=
  m * (gemmFetch sl qa qb start.k + gemmTail sl qa qb start (gemmKt qa - start.k) start.k)

/-! ### Where a nest stands (09 R217, R226) -/

/-- A position from a count of K groups done in a depth step, with the rows of the next one. -/
def posOf (mt nt k groups rows : Nat) : NestPos :=
  if mt * nt * 4 ≤ groups then ⟨k + 1, 0, 0, 0, 0⟩ else ⟨k, groups / 4 / nt, groups / 4 % nt, groups % 4, rows⟩

/-- The position after e beats of the depth steps from k on, n of them left. -/
def posFrom (t : Nest) (m : Nat) : Nat → Nat → Nat → NestPos
  | 0, k, _ => ⟨k, 0, 0, 0, 0⟩
  | n + 1, k, e =>
    let sl := slotOf t.slot
    let mt := (gemmOp t.descA).tiles
    let nt := (gemmOp t.descB).tiles
    let c := m * gemmCompute sl t.descA t.descB t.start k
    let period := max c (m * gemmFetch sl t.descA t.descB (k + 1))
    if period ≤ e then posFrom t m n (k + 1) (e - period)
    else
      let x := min e c
      let per := max 1 (m * stepOf sl / 4)
      let first := k = t.start.k
      let g0 := if first then (t.start.m * nt + t.start.n) * 4 + t.start.g else 0
      let prefix_ := 2 ^ (x % per * 32 / per) - 1
      posOf mt nt k (g0 + x / per) (if first ∧ x / per = 0 then prefix_ ||| t.start.rows else prefix_)

/-- Where a nest stands after e beats. -/
def Nest.posAt (t : Nest) (m e : Nat) : NestPos :=
  let f := m * gemmFetch (slotOf t.slot) t.descA t.descB t.start.k
  if e ≤ f then t.start else posFrom t m (gemmKt t.descA - t.start.k) t.start.k (e - f)

/-! ### What its accumulators hold (09 R223, R228) -/

/-- A tile with the rows of a set zeroed. -/
def zeroRows (rows : Nat → Bool) (d : Tile) : Tile :=
  tileOf 32 ((indexed (d.elems 32)).map (fun r => if rows r.1 then r.2.map (fun _ => 0) else r.2)) d.side

/-- Groups lo to lo+n-1 of the tile step of linear number L, in the rows of a set. -/
def Nest.step (t : Nest) (L : Nat) (rows : Nat → Bool) (lo n : Nat) (accs : List Tile) : List Tile :=
  if n = 0 then accs else
  let sl := slotOf t.slot
  let nt := (gemmOp t.descB).tiles
  let mt := (gemmOp t.descA).tiles
  let rho := sliceRatio sl.ak sl.bk
  let k := L / (mt * nt)
  let mi := L / nt % mt
  let ni := L % nt
  let kt := gemmKt t.descA
  let ta := t.opA.getD (mi * kTiles (narrowerA sl) rho kt + kTile (narrowerA sl) rho k) Tile.zero
  let tb := t.opB.getD (ni * kTiles (narrowerB sl) rho kt + kTile (narrowerB sl) rho k) Tile.zero
  let i := mi * nt + ni
  let d := accs.getD i Tile.zero
  let d := if t.descA.getLsbD 47 && decide (k = 0) && decide (lo = 0) then zeroRows rows d else d
  accs.set i (productRun (productOf sl (t.descA.getLsbD 46) (k % rho) ta tb) rows lo n d)

/-- The linear number of a position's tile step. -/
def NestPos.linear (p : NestPos) (mt nt : Nat) : Nat := (p.k * mt + p.m) * nt + p.n

/-- Whether a row of a set given as a number is in it. -/
def inRows (rows r : Nat) : Bool := natBit rows r

/-- The accumulators of a nest that has run from its start to a position. -/
def Nest.accsAt (t : Nest) (p : NestPos) : List Tile :=
  let mt := (gemmOp t.descA).tiles
  let nt := (gemmOp t.descB).tiles
  let l0 := t.start.linear mt nt
  let l1 := p.linear mt nt
  let outside := fun r => !inRows t.start.rows r
  let all := fun (_ : Nat) => true
  if l0 = l1 then
    if t.start.g = p.g then t.step l0 (fun r => outside r && inRows p.rows r) p.g (if p.rows = t.start.rows then 0 else 1) t.old
    else
      t.step l0 (inRows p.rows) p.g (if p.rows = 0 then 0 else 1)
        (t.step l0 all (t.start.g + 1) (p.g - t.start.g - 1) (t.step l0 outside t.start.g 1 t.old))
  else
    let first := t.step l0 all (t.start.g + 1) (3 - t.start.g) (t.step l0 outside t.start.g 1 t.old)
    let mid := (List.range (l1 - l0 - 1)).foldl (fun a i => t.step (l0 + 1 + i) all 0 4 a) first
    t.step l1 (inRows p.rows) p.g (if p.rows = 0 then 0 else 1) (t.step l1 all 0 p.g mid)

/-- The position of a nest that has completed (09 R226). -/
def Nest.finish (t : Nest) : NestPos := ⟨gemmKt t.descA, 0, 0, 0, 0⟩

/-- The engine state registers of a nest at a position: whether it is stopped, beats run, partition mode, and the time
of the stop (09 R226). -/
def Nest.esAt (t : Nest) (p : NestPos) (stopped : Bool) (done mode gts : Nat) : List (Nat × DWord) :=
  [(0, t.descA), (1, t.descB),
   (2, BitVec.ofNat 64 (field p.k 16 9 + field p.m 8 4 + field p.n 0 4)),
   (3, BitVec.ofNat 64 (field t.stated 32 17 + field done 0 32)),
   (4, BitVec.ofNat 64 (field t.fs 13 3 + field mode 11 2 + field t.acc 0 8)),
   (5, BitVec.ofNat 64 gts),
   (6, BitVec.ofNat 64 (field p.g 32 2 + field p.rows 0 32)),
   (7, if stopped then 1 else 0)]

/-- The writes of a nest at a position: its accumulators, and the engine state. -/
def Nest.writesAt (t : Nest) (p : NestPos) (stopped : Bool) (done mode gts : Nat) : List EngWrite :=
  (indexed (t.accsAt p)).map (fun a => .tile (t.acc + a.1) a.2) ++ (t.esAt p stopped done mode gts).map (fun e => .es e.1 e.2)

/-! ### The checks of a nest (09 R222) -/

/-- The scratchpad ranges that a nest's operand reads, offset and length: the rows of a tile, then its sidecar, tile by tile
along x and for each x along K. Of several addresses that fail check 3 the record names the first of this order, operand A's
before operand B's (09 R222; log 68, DESIGN CHOICE). -/
def GemmOp.ranges (o : GemmOp) (ks : Nat) : List (Nat × Nat) :=
  (List.range o.tiles).flatMap (fun x => (List.range ks).flatMap (fun k =>
    (List.range 32).map (fun i => (o.at_ x k + 128 * i, 128)) ++ (if o.sc then [(o.at_ x k + 4096, 512)] else [])))

/-- The address by which a program names an offset of an operand's window (07 R162; 09 R221). -/
def GemmOp.addr (o : GemmOp) (off : Nat) : Nat := if o.qw then 2 ^ 31 + o.rank * 2 ^ 20 + off else off

/-- The block whose window an operand lies in, with its `.scratch`. -/
def State.gemmBlock (s : State) (b : Block) (o : GemmOp) : Option (Nat × Nat) :=
  if o.qw then
    if !recQuad b.record then none else (s.windowBlock b o.rank).map (fun x => (x.1, hdrScratch x.2.header))
  else some (s.cur.blk, hdrScratch b.header)

/-- The checks of one operand's addresses (check 3 of 09 R222). -/
def State.gemmRange (s : State) (b : Block) (o : GemmOp) (ks : Nat) : Verdict :=
  match s.gemmBlock b o with
  | none => .fault 0x092 (o.addr (o.at_ 0 0)) 7
  | some (t, size) =>
    match (o.ranges ks).find? (fun r => decide (size < r.1 + r.2)) with
    | some r => .fault 0x090 (o.addr r.1) 7
    | none =>
      if (o.ranges ks).any (fun r => s.heldScratch b.core t r.1 r.2) then .stall
      else
        match (o.ranges ks).find? (fun r => s.spoiltScratch t r.1 r.2) with
        | some r => .fault 0x095 (o.addr r.1) 7
        | none => .ok

/-- Whether an operand's sidecar is there where its kind needs it (check 1 of 09 R222). -/
def sidecarOk (sl : Slot) (k : Nat) (sc : Bool) : Bool :=
  sc || !(blockKind k || (sl.sk != 0 && decide (3 ≤ k) && decide (k ≤ 12)))

/-- The checks of a nest after the slot's own (09 R222, checks 1 to 3). SAT outside the integer class raises 0x142, as check 1
says, also where the slot has SK = 0 and R215 would give 0x143 (log 64, DESIGN CHOICE). -/
def State.gemmCheck (s : State) (b : Block) (f : DWord) (acc : Nat) (qa qb : DWord) : Verdict :=
  let sl := slotOf f
  let sat := qa.getLsbD 46
  let a := gemmOp qa
  let o := gemmOp qb
  let rho := sliceRatio sl.ak sl.bk
  match tensorCheck f 0 false false with
  | some c => .fault c 0 15
  | none =>
    if !gemmReserved qa qb || !sidecarOk sl sl.ak a.sc || !sidecarOk sl sl.bk o.sc
        || (sat && !(kindInteger sl.ak && sl.sk == 0)) then .fault 0x142 0 15
    else if 64 + recTiles b.record < acc + a.tiles * o.tiles then .fault 0x144 0 15
    else firstBad [s.gemmRange b a (kTiles (narrowerA sl) rho (gemmKt qa)), s.gemmRange b o (kTiles (narrowerB sl) rho (gemmKt qa))]

/-- One tile of an operand read from its window, with its sidecar: accesses of the Loft context, their passes charged to the
gather row (09 R221, R224). -/
def State.gemmTile (s : State) (o : GemmOp) (off : Nat) : Tile × State :=
  let ps := (o.addr off, 4096) :: (if o.sc then [(o.addr (off + 4096), 512)] else [])
  let s := s.loftPasses 5 ps
  let (d, s) := s.loftReadScratch (o.addr off) 4096 false
  let (c, s) := if o.sc then s.loftReadScratch (o.addr (off + 4096)) 512 false else (0, s)
  (⟨BitVec.ofNat 32768 d, BitVec.ofNat 4096 c⟩, s)

/-- The tiles of an operand at a list of offsets, in turn. -/
def State.gemmTilesAt (s : State) (o : GemmOp) : List Nat → List Tile × State
  | [] => ([], s)
  | a :: l =>
    let (t, s) := s.gemmTile o a
    let (ts, s) := s.gemmTilesAt o l
    (t :: ts, s)

/-- The tiles of an operand, x by x and k by k (09 R221, R224). -/
def State.gemmTiles (s : State) (o : GemmOp) (ks : Nat) : List Tile × State :=
  s.gemmTilesAt o ((List.range o.tiles).flatMap (fun x => (List.range ks).map (fun k => o.at_ x k)))

end Sys2Proof.Machine
end

