-- ==== Sys2Proof/Machine/TileOps.lean ====
section
/-! DEFINITION. What unit V computes from tiles (10 R241 to R253; 02 R35, R36), apart from where they come from.
`r` gives the random value of stochastic rounding for a destination element's index 256 * row + column (02 R33).
Results carry the saturation count of 10 R245. -/

namespace Sys2Proof.Machine

/-- A tile computed with how many elements saturated (10 R245). -/
abbrev TileOut := Tile × Nat

/-- The width of a kind of 0, 1, 2 or any other. -/
def sameWidth (a b : Nat) : Bool := kindBits a == kindBits b

/-- Kinds FP32, BF16, FP16. -/
def wideFloat (k : Nat) : Bool := decide (k ≤ 2)

/-- An arithmetic result fitted to a wide float kind (10 R242, R246). -/
def fitWide (k rm r32 : Nat) (v : Val) : Nat :=
  match elemFmt k with
  | some f => fitArith f rm r32 v
  | none => 0

/-- The element index of stochastic rounding on the Loft side (02 R33). -/
def loftIdx (i j : Nat) : Nat := 256 * i + j

/-- Rows put together from codes with their saturation marks. -/
def tileCount (w : Nat) (rows : List (List (Nat × Bool))) (side : BitVec 4096) : TileOut :=
  (tileOf w (rows.map (·.map Prod.fst)) side, (rows.map (fun r => (r.filter Prod.snd).length)).foldl (· + ·) 0)

/-- Two or three tiles of values walked together. -/
def zipVals (f : Nat → Nat → Val → Val → Nat × Bool) (a b : List (List Val)) : List (List (Nat × Bool)) :=
  (indexed (a.zip b)).map (fun r => (indexed (r.2.1.zip r.2.2)).map (fun c => f r.1 c.1 c.2.1 c.2.2))

/-- One tile of values walked. -/
def mapVals (f : Nat → Nat → Val → Nat × Bool) (a : List (List Val)) : List (List (Nat × Bool)) :=
  (indexed a).map (fun r => (indexed r.2).map (fun c => f r.1 c.1 c.2))

/-- The value at a place. -/
def valAt (a : List (List Val)) (i j : Nat) : Val := (a.getD i []).getD j (.fin false 0 1)

/-- TADD (op 0, SUB 1), TMUL (2), TFMA (3) (10 R246). -/
def tileArith (op : Nat) (sl : Slot) (r : Nat → Nat) (a b c : Tile) : TileOut :=
  let cv := c.vals sl.bk sl
  let one := fun i j x y =>
    let v :=
      match op with
      | 0 => Val.sum sl.rm [x, y]
      | 1 => Val.sum sl.rm [x, y.neg]
      | 2 => x.mul y
      | _ => Val.sum sl.rm [x.mul y, valAt cv i j]
    (fitWide sl.ok sl.rm (r (loftIdx i j)) v, false)
  tileCount (kindBits sl.ok) (zipVals one (a.vals sl.ak sl) (b.vals sl.bk sl)) 0

/-- TMAX: the chosen value converted to OK (10 R246). -/
def tileMax (isMin : Bool) (sl : Slot) (r : Nat → Nat) (a b : Tile) : TileOut :=
  let one := fun i j (x y : Val) => narrowTo sl.ok sl.rm (r (loftIdx i j)) (if isMin then x.minNum y else x.maxNum y)
  tileCount (kindBits sl.ok) (zipVals one (a.vals sl.ak sl) (b.vals sl.bk sl)) 0

/-- TSCALE by tensor, row or column (10 R246). -/
def tileScale (axis : Nat) (sl : Slot) (r : Nat → Nat) (a b : Tile) : TileOut :=
  let bv := b.vals 0 sl
  let one := fun i j (x : Val) =>
    let s := match axis with
      | 0 => valAt bv 0 0
      | 1 => valAt bv i 0
      | _ => valAt bv 0 (j % 32)
    (fitWide sl.ok sl.rm (r (loftIdx i j)) (x.mul s), false)
  tileCount (kindBits sl.ok) (mapVals one (a.vals sl.ak sl)) 0

/-- TACT (10 R247). -/
def tileAct (fn : Nat) (sl : Slot) (r : Nat → Nat) (a : Tile) : TileOut :=
  let one := fun i j (x : Val) => (fitWide sl.ok sl.rm (r (loftIdx i j)) (activation fn x), false)
  tileCount (kindBits sl.ok) (mapVals one (a.vals sl.ak sl)) 0

/-- The columns of rows of values. -/
def valCols (n : Nat) (a : List (List Val)) : List (List Val) :=
  (List.range n).map (fun j => a.map (fun row => row.getD j (.fin false 0 1)))

/-- One reduction of TRED: 0 sum, 1 max, 2 min, 3 amax (10 R248). -/
def redVals (op rm : Nat) (vs : List Val) : Val :=
  match op with
  | 0 => Val.sum rm vs
  | 1 => vs.foldl Val.maxNum .nan
  | 2 => vs.foldl Val.minNum .nan
  | _ => if vs.any Val.isNan then Val.nan else (vs.map Val.abs).foldl Val.maxNum (.fin false 0 1)

/-- TRED along rows or columns (10 R248). -/
def tileRed (op : Nat) (cols acc : Bool) (sl : Slot) (r : Nat → Nat) (a d : Tile) : TileOut :=
  let av := a.vals sl.ak sl
  let dv := d.vals sl.ok sl
  let groups := if cols then valCols (kindCols sl.ak) av else av
  let res := (indexed groups).map (fun g =>
    let vs := if acc then g.2 ++ [if cols then valAt dv 0 g.1 else valAt dv g.1 0] else g.2
    let v := redVals op sl.rm vs
    let rr := r (if cols then loftIdx 0 g.1 else loftIdx g.1 0)
    if op = 0 then (fitWide sl.ok sl.rm rr v, false) else narrowTo sl.ok sl.rm rr v)
  let n := kindCols sl.ok
  let rows := (List.range 32).map (fun i => (List.range n).map (fun j =>
    if cols then (if i = 0 then res.getD j (0, false) else (0, false))
    else (if j = 0 then res.getD i (0, false) else (0, false))))
  tileCount (kindBits sl.ok) rows 0

/-- TAMAX (amax) and TMINMAX: each row's statistics in columns 0 and 1 of an FP32 tile (10 R249). -/
def tileStats (amax acc : Bool) (sl : Slot) (a d : Tile) : TileOut :=
  let dv := d.vals 0 sl
  let rows := (indexed (a.vals sl.ak sl)).map (fun row =>
    let vs := row.2
    let m := (vs.map Val.abs).foldl Val.maxNum (.fin false 0 1)
    let bad := vs.any Val.isNan
    let hi := if bad then .nan else if amax then m else vs.foldl Val.maxNum .nan
    let lo := if bad then .nan else if amax then m.neg else vs.foldl Val.minNum .nan
    let dh := valAt dv row.1 0
    let dl := valAt dv row.1 1
    let bad2 := hi.isNan || lo.isNan || dh.isNan || dl.isNan
    let hi' := if acc then (if bad2 then .nan else hi.maxNum dh) else hi
    let lo' := if acc then (if bad2 then .nan else lo.minNum dl) else lo
    [fp32Rne hi', fp32Rne lo'] ++ List.replicate 30 0)
  (tileOf 32 rows 0, 0)

/-! ### Encoding an entry (02 R35, R36; 10 R250, R251) -/

/-- An entry's scale bytes, zero point and codes, with the saturation count. -/
structure EntryOut where
  scale : Nat
  extra : Nat
  codes : List Nat
  sat : Nat
deriving DecidableEq, Repr

/-- The largest finite FP32 value with a sign. -/
def fp32Max (neg : Bool) : Val := fp32.decode (fp32.signed neg fp32.maxCode)

/-- An infinity replaced by the largest finite value of its sign. -/
def finiteOf : Val → Val
  | .inf s => fp32Max s
  | v => v

/-- How many values meet a test. -/
def countVals (p : Val → Bool) (xs : List Val) : Nat := (xs.filter p).length

/-- A finite quotient, 0 where the divisor is infinite. -/
def quot (x s : Val) : Val :=
  match s with
  | .inf _ => .fin false 0 1
  | _ => x.divFin s

/-- |a - b| of two finite values. -/
def distance (a b : Val) : Val := (Val.sum 0 [a, b.neg]).abs

/-- The F4X code nearest to y, with spv the value of code 8 (02 R35). -/
def nearestCode (y spv : Val) : Nat :=
  let codes := [0, 1, 2, 3, 4, 5, 6, 7, 9, 10, 11, 12, 13, 14, 15]
  let dist := fun c => distance y (e2m1.decode c)
  let best := codes.foldl (fun b c =>
    if (dist c).lt (dist b) then c
    else if (dist c).eqv (dist b) && c % 2 == 0 && b % 2 == 1 then c else b) 0
  if (distance y spv).lt (dist best) then 8 else best

/-- An F4X block (02 R35). -/
def f4xEncode (xs : List Val) : EntryOut :=
  if xs.any Val.isNan then ⟨255, 0, xs.map (fun _ => 0), countVals Val.isNan xs⟩
  else
    let sat := countVals Val.isInf xs
    let ys := xs.map finiteOf
    let amax := (ys.map Val.abs).foldl Val.maxNum (.fin false 0 1)
    match amax with
    | .fin _ n d =>
      if n = 0 then ⟨0, 0, xs.map (fun _ => 0), sat⟩
      else
        let e := (floorLog2 n d - 2 + 127).toNat
        let s := Val.ofScaled false 1 ((e : Int) - 127)
        let m := (ys.find? (fun y => y.abs.eqv amax)).getD amax
        let sp := (fitConvert e4m3 0 0 (quot m s)).1
        let spv := e4m3.decode sp
        ⟨e, sp, ys.map (fun y => nearestCode (quot y s) spv), sat⟩
    | _ => ⟨255, 0, xs.map (fun _ => 0), sat⟩

/-- Elements that a degenerate entry does not hold as they stand: a NaN made finite, an infinity, an element outside the
range that given statistics leave (02 R30; 10 R245, R250). -/
def countLost (c : Val) (xs : List Val) : Nat := countVals (fun x => !x.eqv c) xs

/-- An asymmetric block or channel (02 R36); stats are the given maximum and minimum (10 R250). A constant that TOPT forms
and FP32 does not hold is rounded by RNE, to infinity where it overflows (log 64, DESIGN CHOICE). -/
def asymEncode (nmax rm : Nat) (rnd : List Nat) (stats : Option (Val × Val)) (xs : List Val) : EntryOut :=
  let bad := match stats with
    | some (hi, lo) => hi.isNan || lo.isNan
    | none => xs.any Val.isNan
  if bad then ⟨fp32.nanCode, 0, xs.map (fun _ => 0), countVals Val.isNan xs⟩
  else
    let ys := xs.map finiteOf
    let (xmin, xmax) := match stats with
      | some (hi, lo) => (finiteOf lo, finiteOf hi)
      | none => (ys.foldl Val.minNum .nan, ys.foldl Val.maxNum .nan)
    let zero : Val := .fin false 0 1
    if xmin.eqv xmax then
      let lost := countLost xmin xs
      if zero.lt xmin && !xmin.isZero then ⟨fp32Rne xmin, 0, xs.map (fun _ => 1), lost⟩
      else if xmin.isNeg && !xmin.isZero then ⟨fp32Rne xmin.neg, 1, xs.map (fun _ => 0), lost⟩
      else ⟨0x3F800000, 0, xs.map (fun _ => 0), lost⟩
    else
      let lo := if xmin.isNeg then xmin else zero
      let hi := if xmax.isNeg then zero else xmax
      let sc0 := fp32Rne ((Val.sum 0 [hi, lo.neg]).mul (.fin false 1 nmax))
      let sc := if sc0 = 0 then 1 else sc0
      let s := fp32.decode sc
      let zp := (clampInt (fitInt 0 0 (-(2 ^ 62 : Nat)) (2 ^ 62 : Nat) (quot lo.neg s)).1 0 nmax)
      let one := fun (p : Nat × Val) =>
        if p.2.isNan then (zp.toNat, true)
        else
          let y := finiteOf p.2
          let q := (fitInt rm (rnd.getD p.1 0) (-(2 ^ 300 : Nat)) (2 ^ 300 : Nat) (quot y s)).1 + zp
          let c := clampInt q 0 nmax
          (c.toNat, p.2.isInf || decide (c ≠ q))
      let cs := (indexed xs).map one
      ⟨sc, zp.toNat, cs.map Prod.fst, (cs.filter Prod.snd).length⟩

/-- emax of 10 R250. -/
def kindEmax (k : Nat) : Int :=
  match k with
  | 3 => 8
  | 4 => 15
  | 5 => 4
  | 6 => 2
  | 7 => 2
  | 9 => 6
  | _ => 2

/-- maxfin of 10 R250. -/
def kindMaxfin (k : Nat) : Val :=
  match k with
  | 3 => .fin false 448 1
  | 4 => .fin false 57344 1
  | 5 => .fin false 28 1
  | 6 => .fin false 15 2
  | 7 => .fin false 6 1
  | 9 => .fin false 127 1
  | _ => .fin false 7 1

/-- The code of 1.0 as a scale of kind SK. -/
def scaleOne (sk : Nat) : Nat := if sk = 1 then 0x7F else if sk = 2 then 0x3F800000 else 0x3F80
/-- The NaN code of a scale of kind SK (10 R251). -/
def scaleNan (sk : Nat) : Nat := if sk = 1 then 0xFF else if sk = 2 then 0x7FC00000 else 0x7FC0

/-- The scale code for a largest magnitude (10 R250); rounding up overflows to infinity, as 02 R25 has arithmetic do
(log 17, DEDUCED). -/
def scaleFor (sk k : Nat) (amax : Val) : Nat :=
  match amax with
  | .fin _ n d =>
    if sk = 1 then (clampInt (floorLog2 n d - kindEmax k + 127) 0 254).toNat
    else
      let f := if sk = 2 then fp32 else bf16
      max (fitArith f 2 0 (quot amax (kindMaxfin k))) 1
  | _ => 0

/-- Elements narrowed against a finite scale; a NaN element becomes code 0 and counts (10 R250). -/
def narrowAll (k rm : Nat) (rnd : List Nat) (zeroNan : Bool) (s : Val) (xs : List Val) : List (Nat × Bool) :=
  (indexed xs).map (fun p =>
    if zeroNan && p.2.isNan then (0, true)
    else
      let c := narrowTo k rm (rnd.getD p.1 0) (quot (finiteOf p.2) s)
      (c.1, c.2 || p.2.isInf))

/-- One entry encoded (10 R250). -/
def encodeEntry (k : Nat) (sl : Slot) (rnd : List Nat) (stats : Option (Val × Val)) (xs : List Val) : EntryOut :=
  if k = 8 then f4xEncode xs
  else if k = 10 ∨ k = 12 then asymEncode (if k = 10 then 255 else 15) sl.rm rnd stats xs
  else if sl.sk = 0 ∨ wideKind k then
    let cs := (indexed xs).map (fun p => narrowTo k sl.rm (rnd.getD p.1 0) p.2)
    ⟨0, 0, cs.map Prod.fst, (cs.filter Prod.snd).length⟩
  else
    let infs := countVals Val.isInf xs
    let ys := xs.map finiteOf
    let amax := match stats with
      | some (hi, lo) => if hi.isNan || lo.isNan then Val.nan else (finiteOf hi).abs.maxNum (finiteOf lo).abs
      | none => if xs.any Val.isNan then Val.nan else (ys.map Val.abs).foldl Val.maxNum (.fin false 0 1)
    if amax.isNan then ⟨scaleNan sl.sk, 0, xs.map (fun _ => 0), infs⟩
    else if amax.isZero then ⟨scaleOne sl.sk, 0, xs.map (fun _ => 0), countLost amax xs⟩
    else
      let sc := scaleFor sl.sk k amax
      let cs := narrowAll k sl.rm rnd true (scaleVal sl.sk sc) xs
      ⟨sc, 0, cs.map Prod.fst, (cs.filter Prod.snd).length⟩

/-! ### Writing a part of a narrow tile (10 R244, R250) -/

/-- The columns of part P of a narrow tile: from, count. -/
def partCols (wide p : Nat) : Nat × Nat := (kindCols wide * p, kindCols wide)

/-- Whether a scaled kind has sidecar entries under a slot. -/
def hasEntries (sl : Slot) (k : Nat) : Bool := blockKind k || (sl.sk != 0 && !wideKind k)

/-- The entry key that groups elements: the sidecar entry, or the element's row where there are no entries. -/
def groupKey (sl : Slot) (k i j : Nat) : Nat :=
  if k = 8 then i * (kindCols k / 32) + j / 32
  else if hasEntries sl k then entryOf sl.bs k i j else i

/-- Whether every entry that meets a part lies within it, by the entry's span (10 R250). -/
def partWhole (sl : Slot) (k from_ n : Nat) : Bool :=
  if !hasEntries sl k then true
  else if n = kindCols k then true
  else match sl.bs with
    | 0 => false
    | 5 => false
    | 6 => true
    | bs => from_ % bsBlock bs == 0 && n % bsBlock bs == 0

/-- The elements of a part, with places, gathered by entry in increasing order. -/
def partGroups (sl : Slot) (k from_ n : Nat) (x : List (List Val)) : List (Nat × List ((Nat × Nat) × Val)) :=
  let all := (indexed x).flatMap (fun row => (indexed row.2).map (fun c =>
    (groupKey sl k row.1 (from_ + c.1), ((row.1, from_ + c.1), c.2))))
  let keys := dedup (all.map Prod.fst)
  let _ := n
  keys.map (fun key => (key, (all.filter (fun e => e.1 == key)).map Prod.snd))

/-- A byte list with bytes replaced from a place. -/
def putBytes (bs : List Nat) (at_ : Nat) (new : List Nat) : List Nat :=
  bs.take at_ ++ new ++ bs.drop (at_ + new.length)

/-- A number as little-endian bytes held as numbers. -/
def bytesOf (n x : Nat) : List Nat := (List.range n).map (fun i => (x >>> (8 * i)) % 256)

/-- The sidecar with one entry written (10 R239). -/
def putEntry (sl : Slot) (k e : Nat) (o : EntryOut) (bs : List Nat) : List Nat :=
  if k = 8 then putBytes bs (2 * e) [o.scale, o.extra]
  else if hasEntries sl k then
    let z := scaleBytes sl.sk
    let b1 := putBytes bs (z * e) (bytesOf z o.scale)
    if sl.zp then putBytes b1 (entryCount sl.bs k * z + e) [o.extra] else b1
  else bs

/-- The bytes of a sidecar that entries occupy; the others are written zero (10 R239). -/
def sideUsed (sl : Slot) (k : Nat) : Nat :=
  if k = 8 then 512
  else if hasEntries sl k then entryCount sl.bs k * (scaleBytes sl.sk + bit01 sl.zp) else 0

/-- A row of codes with a run replaced. -/
def putCodes (row : List Nat) (from_ : Nat) (new : List Nat) : List Nat :=
  row.take from_ ++ new ++ row.drop (from_ + new.length)

/-- Part P of a narrow tile encoded from exact values, entry by entry, the rest of D kept (10 R244, R250).
`stats i` gives the statistics of row i where they are given. -/
def encodePart (k : Nat) (sl : Slot) (from_ n : Nat) (r : Nat → Nat) (stats : Nat → Option (Val × Val))
    (x : List (List Val)) (d : Tile) : TileOut :=
  let groups := partGroups sl k from_ n x
  let outs := groups.map (fun g =>
    let row := ((g.2.head?).map (fun p => p.1.1)).getD 0
    (g, encodeEntry k sl (g.2.map (fun p => r (loftIdx p.1.1 p.1.2)))
      (stats (if sl.bs = 0 ∧ hasEntries sl k then 0 else row)) (g.2.map Prod.snd)))
  let codes := outs.flatMap (fun o => (o.1.2.map Prod.fst).zip o.2.codes)
  let byRow := (List.range 32).map (fun i =>
    (codes.filter (fun c => c.1.1 == i)).foldl (fun row c => row.set (c.1.2 - from_) c.2) (List.replicate n 0))
  let rows := (indexed (d.elems (kindBits k))).map (fun row => putCodes row.2 from_ (byRow.getD row.1 []))
  let used := sideUsed sl k
  let old := (List.range 512).map (fun i => if i < used then d.sideByte i else 0)
  let side := outs.foldl (fun bs o => putEntry sl k o.1.1 o.2 bs) old
  (tileOf (kindBits k) rows (bytesToSide side), (outs.map (fun o => o.2.sat)).foldl (· + ·) 0)

/-- The columns of part P of a narrow tile's values. -/
def partVals (from_ n : Nat) (x : List (List Val)) : List (List Val) := x.map (fun row => (row.drop from_).take n)

/-- TQNT (10 R250): stats from tile B where given. -/
def tileQuant (p : Nat) (given : Bool) (sl : Slot) (r : Nat → Nat) (a b d : Tile) : TileOut :=
  let (f, n) := partCols sl.ak p
  let bv := b.vals 0 { sl with sk := 0 }
  let stats := fun i => if given then some (valAt bv i 0, valAt bv i 1) else none
  encodePart sl.ok sl f n r stats (a.vals sl.ak sl) d

/-- TDQT (10 R252). -/
def tileDequant (p : Nat) (sl : Slot) (r : Nat → Nat) (a : Tile) : TileOut :=
  let (f, n) := partCols sl.ok p
  let one := fun i j (x : Val) => narrowTo sl.ok sl.rm (r (loftIdx i j)) x
  tileCount (kindBits sl.ok) (mapVals one (partVals f n (a.vals sl.ak sl))) 0

/-- D := A of TCVT: a 6-bit element is written with bits 7:6 zero, as every instruction writes it (10 R252; 02 R19). -/
def tileSame (k : Nat) (a : Tile) : Tile :=
  if k = 5 ∨ k = 6 then tileOf 8 ((a.elems 8).map (·.map (· % 64))) 0 else ⟨a.data, 0⟩

/-- TCVT (10 R252): to a wider tile whole, to a narrower one in part P. -/
def tileConvert (p : Nat) (sl : Slot) (r : Nat → Nat) (a d : Tile) : TileOut :=
  if sl.ak = sl.ok then (tileSame sl.ok a, 0)
  else if kindBits sl.ak ≤ kindBits sl.ok then
    let (f, n) := partCols sl.ok p
    let one := fun i j (x : Val) => narrowTo sl.ok sl.rm (r (loftIdx i j)) x
    tileCount (kindBits sl.ok) (mapVals one (partVals f n (a.vals sl.ak sl))) 0
  else
    let (f, n) := partCols sl.ak p
    let one := fun i j (x : Val) => narrowTo sl.ok sl.rm (r (loftIdx i (f + j))) x
    let cs := mapVals one (a.vals sl.ak sl)
    let rows := (indexed (d.elems (kindBits sl.ok))).map (fun row =>
      putCodes row.2 f (((cs.getD row.1 []).map Prod.fst).take n))
    (tileOf (kindBits sl.ok) rows 0, (cs.map (fun row => (row.filter Prod.snd).length)).foldl (· + ·) 0)

/-- TOPT (10 R253). An exact sum of zero takes the sign of RNE whatever the slot's RM: the rule rounds only where it
encodes (log 64, DESIGN CHOICE). -/
def tileOpt (desc : DWord) (sl : Slot) (r : Nat → Nat) (a b d : Tile) : TileOut :=
  let p := natBits desc.toNat 35 33
  let (f, n) := partCols sl.bk p
  let beta := fp32.decode (desc.toNat % 2 ^ 32)
  let comp := Val.sum 0 [.fin false 1 1, beta.neg]
  let one := fun (q : Val × Val) =>
    let g := if desc.getLsbD 32 then q.2.mul q.2 else q.2
    Val.sum 0 [beta.mul q.1, comp.mul g]
  let x := List.zipWith (fun ra rb => (List.zip ra rb).map one) (partVals f n (a.vals sl.ak sl)) (b.vals sl.bk sl)
  encodePart sl.ok sl f n r (fun _ => none) x d

/-! ### The checks of unit V (10 R242) -/

/-- The ratio of column counts of two kinds and whether P is below it (10 R244). -/
def partOk (wide narrow p : Nat) : Bool :=
  decide (kindBits narrow ≤ kindBits wide) && decide (p < kindBits wide / kindBits narrow)

/-- Kinds 3 to 12. -/
def narrowKind (k : Nat) : Bool := decide (3 ≤ k) && decide (k ≤ 12)

/-- Kinds that TCVT takes (10 R242). -/
def cvtKind (k : Nat) : Bool := decide (k ≤ 7) || k == 9 || k == 11 || k == 13

/-- Kinds that TOPT takes (10 R242). -/
def optKind (k : Nat) : Bool := (decide (1 ≤ k) && decide (k ≤ 6)) || (decide (9 ≤ k) && decide (k ≤ 12))

/-- The first cause that fails, where the slot is valid: kinds (check 2), then operands (check 3). -/
def slotChecks (f : DWord) (kinds operands : Slot → Bool) : Option Nat :=
  let sl := slotOf f
  if !sl.valid then some 0x148
  else if !kinds sl then some 0x149
  else if !operands sl then some 0x143
  else none

/-- Widths of A, B and D agree. -/
def widthsAgree (sl : Slot) (useB : Bool) : Bool :=
  sameWidth sl.ak sl.ok && (!useB || sameWidth sl.bk sl.ok)

/-- TADD, TMUL, TFMA, TMAX (10 R242). -/
def checkArith (f : DWord) : Option Nat :=
  slotChecks f (fun s => wideFloat s.ak && wideFloat s.bk && wideFloat s.ok) (fun s => widthsAgree s true)

/-- TSCALE. -/
def checkScale (f : DWord) : Option Nat :=
  slotChecks f (fun s => wideFloat s.ak && s.bk == 0 && wideFloat s.ok) (fun s => widthsAgree s false)

/-- TACT. -/
def checkAct (f : DWord) : Option Nat :=
  slotChecks f (fun s => wideFloat s.ak && wideFloat s.ok) (fun s => widthsAgree s false)

/-- TRED. -/
def checkRed (f : DWord) (cols : Bool) : Option Nat :=
  slotChecks f (fun s => wideFloat s.ak && wideFloat s.ok) (fun s => !cols || widthsAgree s false)

/-- TAMAX and TMINMAX. -/
def checkStats (f : DWord) : Option Nat :=
  slotChecks f (fun s => decide (s.ak ≤ 12) && scaleRuleOk s s.ak && s.ok == 0) (fun _ => true)

/-- TQNT: widths, P, and the statistics rules of 10 R250. -/
def checkQuant (f : DWord) (p : Nat) (given : Bool) : Option Nat :=
  slotChecks f
    (fun s => wideFloat s.ak && (!given || s.bk == 0) && narrowKind s.ok && scaleRuleOk s s.ok)
    (fun s =>
      let (fr, n) := partCols s.ak p
      partOk s.ak s.ok p && (if given then s.ok != 8 && s.bs != 6 else partWhole s s.ok fr n))

/-- TDQT. -/
def checkDequant (f : DWord) (p : Nat) : Option Nat :=
  slotChecks f (fun s => narrowKind s.ak && scaleRuleOk s s.ak && wideFloat s.ok) (fun s => partOk s.ok s.ak p)

/-- TCVT. It reads and writes no scales, so with SK = 0 neither BS nor ZP is checked against the table of 10 R238
(log 64, DESIGN CHOICE). -/
def checkConvert (f : DWord) (p : Nat) : Option Nat :=
  slotChecks f (fun s => cvtKind s.ak && cvtKind s.ok && s.sk == 0)
    (fun s => if kindBits s.ak ≤ kindBits s.ok then partOk s.ok s.ak p else partOk s.ak s.ok p)

/-- TOPT: kinds, then widths and self statistics, then the descriptor (10 R242, R253). -/
def checkOpt (f desc : DWord) : Option Nat :=
  let p := natBits desc.toNat 35 33
  match slotChecks f (fun s => s.ak == s.ok && optKind s.ok && scaleRuleOk s s.ok && wideFloat s.bk)
      (fun s => decide (kindBits s.ok ≤ kindBits s.bk)
        && (decide (kindBits s.bk / kindBits s.ok ≤ p) || partWhole s s.ok (partCols s.bk p).1 (partCols s.bk p).2)) with
  | some c => some c
  | none =>
    let s := slotOf f
    let beta := fp32.decode (desc.toNat % 2 ^ 32)
    let betaOk := !beta.isNan && !beta.isInf && (beta.isZero || !beta.isNeg) && !(Val.fin false 1 1).lt beta
    if natBits desc.toNat 63 36 == 0 && betaOk && decide (p < kindBits s.bk / kindBits s.ok) then none else some 0x147

end Sys2Proof.Machine
end

