-- ==== Sys2Proof/Machine/LoftCheck.lean ====
section
/-! DEFINITION. What stands between a Loft slot and its effect: its engine's schedule, its descriptors, format slot and
addresses (08 R195, R199 to R206; 09 R215, R222, R228; 10 R242). Every check is made before anything is written
(08 R193). -/

namespace Sys2Proof.Machine

/-! ### Descriptors (08 R202, R204, R206) -/

/-- A move descriptor as TLD and TST use it. -/
structure MoveDesc where
  scoff : Nat
  rows : Nat
  stride : Nat
deriving DecidableEq, Repr

/-- The stride of the default descriptor (08 R202). -/
def defaultStride (tr : Nat) : Nat := match tr with | 0 => 128 | 1 => 32 | _ => 64

/-- The move descriptor of a TLD or TST, none where a field is reserved or illegal (08 R202). -/
def moveDesc (s : State) (f : ArgsT) : Option MoveDesc :=
  let tr := natBits f.c.toNat 1 0
  if f.b = 240 then some ⟨4096, 31, defaultStride tr⟩
  else
    let d := (s.qsrc f.b).toNat
    let m : MoveDesc := ⟨natBits d 55 32, natBits d 24 20, natBits d 19 0⟩
    if natBits d 63 56 = 0 ∧ natBits d 31 25 = 0 ∧ m.scoff % 16 = 0 ∧ (tr = 0 ∨ m.rows = 31) then some m else none

/-- The rows in memory that a move names: how many, and bytes each (08 R203). -/
def moveRows (tr rows : Nat) : Nat × Nat := match tr with | 0 => (rows + 1, 128) | 1 => (128, 32) | _ => (64, 64)

/-- The address of a row: 64 bits (08 R203). -/
def moveAddr (base stride i : Nat) : Nat := (base + i * stride) % 2 ^ 64

/-- The pieces of memory that a move touches: its rows, then its sidecar (08 R203). -/
def movePieces (f : ArgsT) (base : Nat) (m : MoveDesc) : List (Nat × Nat) :=
  let r := moveRows (natBits f.c.toNat 1 0) m.rows
  (List.range r.1).map (fun i => (moveAddr base m.stride i, r.2))
    ++ (if f.c.getLsbD 2 then [((base + m.scoff) % 2 ^ 64, 512)] else [])

/-- The checks of TLD and TST (08 R202). STRIDE's alignment is checked before the addresses of the rows, row 0's too (log 80,
DESIGN CHOICE). -/
def State.moveCheck (s : State) (b : Block) (x : LoftCtx) (f : ArgsT) (write : Bool) : Verdict :=
  let sp := f.c.getLsbD 3
  let base := (s.qsrc f.a).toNat
  match moveDesc s f with
  | none => .fault 0x141 0 15
  | some m =>
    if sp && decide (2 ^ 32 ≤ base) then .fault 0x090 base 7
    else if m.stride % (if sp then 4 else 16) ≠ 0 then .fault 0x088 base 7
    else
      firstBad ((movePieces f base m).map (fun p =>
        if sp then (if write then s.loftScratch b p.1 p.2 4 true else s.loftSound b p.1 p.2 true (s.loftScratch b p.1 p.2 4 true))
        else s.loftGlobal b x p.1 p.2 write))

/-- A gather descriptor: rows, stride and index list; none where a value is reserved (08 R206). -/
def gatherDesc (d : Nat) : Option (Nat × Nat × Nat) :=
  if natBits d 63 45 = 0 ∧ natBits d 39 20 % 4 = 0 ∧ natBits d 19 0 % 2 = 0 then
    some (natBits d 44 40 + 1, natBits d 39 20, natBits d 19 0)
  else none

/-- The indices of a gather, in row order (08 R206). -/
def gatherIndices (b : Block) (rows idx : Nat) : List Nat := (List.range rows).map (fun i => b.scratchNum (idx + 2 * i) 2)

/-- The checks of TGAT and TFILL (08 R206). -/
def State.gatherCheck (s : State) (b : Block) (f : ArgsT) : Verdict :=
  let base := (s.qsrc f.a).toNat
  match gatherDesc (s.qsrc f.b).toNat with
  | none => .fault 0x141 0 15
  | some (rows, stride, idx) =>
    match s.loftSound b idx (2 * rows) false (s.loftScratch b idx (2 * rows) 2 false) with
    | .ok =>
      firstBad (((gatherIndices b rows idx).filter (fun x => x != 0xFFFF)).map (fun x =>
        s.loftSound b (base + x * stride) 128 false (s.loftScratch b (base + x * stride) 128 4 false)))
    | v => v

/-- TCP's request (08 R204). -/
def tcpDesc (s : State) (f : ArgsT) : CopyDesc :=
  let lo := (s.qsrc f.c).toNat
  let hi := (s.qsrc (f.c + 1)).toNat
  { src := (s.qsrc f.a).toNat, dst := (s.qsrc f.b).toNat, len := natBits lo 31 0, flag := natBits lo 51 32,
    value := natBits hi 31 0, pad := natBits hi 63 32 + natBits lo 63 60, ssp := natBit lo 58, dsp := natBit lo 59,
    fw := natBit lo 52, acq := natBit lo 56, rel := natBit lo 57, scope := natBits lo 55 53 }

/-- The checks of TCP: descriptor defects as 0x141, a full copy queue stalls (08 R204; 11 R269, R271). -/
def State.tcpCheck (s : State) (b : Block) (f : ArgsT) : Verdict :=
  let d := tcpDesc s f
  if !d.acq && !d.rel && d.scope != 0 then .fault 0x141 0 15
  else
    match copyCheck (hdrScratch b.header) d with
    | some (0x094, _) => .fault 0x141 0 15
    | some (c, a) => .fault c a 15
    | none => if copyShare (s.mode b.core) ≤ s.copiesOf b.core b.part then .stall else .ok

/-! ### QWAIT and QSIG (08 R199) -/

/-- The checks of QWAIT: the word's address, then the condition. -/
def State.qwaitCheck (s : State) (b : Block) (f : ArgsR) : Verdict :=
  let a := (s.qsrc f.a).toNat
  match s.loftSound b a 4 false (s.loftScratch b a 4 4 false) with
  | .ok =>
    if flagHolds (natBits f.x.toNat 1 0) (b.scratchNum a 4) ((s.qsrc f.b).toNat % 2 ^ 32) then .ok
    else .sleep a
  | v => v

/-- The checks of QSIG: the word's address. -/
def State.qsigCheck (s : State) (b : Block) (f : ArgsR) : Verdict := s.loftScratch b (s.qsrc f.a).toNat 4 4 true

/-! ### The tensor engine (09 R215, R222, R228) -/

/-- TMMA's KSEL: bits 15:13 of the slot (09 R219). -/
def tmmaKsel (f : ArgsT) : Nat := natBits f.c.toNat 3 1
/-- TGEMM's own need in a mode: the nest's, from its start (09 R225). -/
def tgemmNeed (s : State) (b : Block) (f : ArgsG) : Nat :=
  nestNeed (slotOf (s.fslot f.fs.toNat)) (s.qsrc f.a) (s.qsrc f.b) {} (modeParts (s.mode b.core))

/-- The checks of TGEMM (09 R215, R222). -/
def State.tgemmCheck (s : State) (b : Block) (f : ArgsG) : Verdict :=
  match s.gemmCheck b (s.fslot f.fs.toNat) f.d.toNat (s.qsrc f.a) (s.qsrc f.b) with
  | .ok => if f.beats.toNat = 131071 ∨ tgemmNeed s b f ≤ f.beats.toNat then .ok else .fault 0x146 0 15
  | v => v

/-- An engine state register as it stood when the bundle issued. -/
def State.es (s : State) (n : Nat) : DWord := Map.get 0 s.preL.es n

/-- The checks of TRESUME (09 R228). -/
def State.tresumeCheck (s : State) (b : Block) (f : ArgsR) : Verdict :=
  if s.es 7 = 0 ∨ natBits (s.es 4).toNat 7 0 ≠ f.d.toNat then .fault 0x145 0 15
  else s.gemmCheck b (s.fslot (natBits (s.es 4).toNat 15 13)) f.d.toNat (s.es 0) (s.es 1)

/-! ### Every slot -/

/-- The engine that a slot occupies: 1 X, 2 T, 3 V (08 R195). -/
def engineOf : Instr → Option Nat
  | .tld _ | .tst _ | .tcp _ | .txp _ | .tgat _ | .tfill _ | .tzero _ => some 1
  | .tmma _ | .tgemm _ => some 2
  | .tadd _ | .tmul _ | .tfma _ | .tmax _ | .tact _ | .tscale _ | .tred _ | .tamax _ | .tminmax _ | .tqnt _ | .tdqt _
  | .tcvt _ | .topt _ => some 3
  | _ => none

/-- What a Loft slot's own checks say. -/
def loftOwn (s : State) (b : Block) (x : LoftCtx) (i : Instr) : Verdict :=
  match i with
  | .qwait f => s.qwaitCheck b f
  | .qsig f => s.qsigCheck b f
  | .tresume f => s.tresumeCheck b f
  | .tld f => s.moveCheck b x f false
  | .tst f => s.moveCheck b x f true
  | .tcp f => s.tcpCheck b f
  | .tgat f => s.gatherCheck b f
  | .tfill f => if s.maint then s.gatherCheck b f else .fault 0x14C 0 15
  | .tmma f => ofCause (tensorCheck (s.fslot f.fs.toNat) (tmmaKsel f) (f.x.getLsbD 0) (decide (f.a.toNat < 64)))
  | .tgemm f => s.tgemmCheck b f
  | .tadd f => ofCause (checkArith (s.fslot f.fs.toNat))
  | .tmul f => ofCause (checkArith (s.fslot f.fs.toNat))
  | .tfma f => ofCause (checkArith (s.fslot f.fs.toNat))
  | .tmax f => ofCause (checkArith (s.fslot f.fs.toNat))
  | .tact f => ofCause (checkAct (s.fslot f.fs.toNat))
  | .tscale f => ofCause (checkScale (s.fslot f.fs.toNat))
  | .tred f => ofCause (checkRed (s.fslot f.fs.toNat) (f.c.getLsbD 2))
  | .tamax f => ofCause (checkStats (s.fslot f.fs.toNat))
  | .tminmax f => ofCause (checkStats (s.fslot f.fs.toNat))
  | .tqnt f => ofCause (checkQuant (s.fslot f.fs.toNat) (natBits f.c.toNat 2 0) (f.c.getLsbD 3))
  | .tdqt f => ofCause (checkDequant (s.fslot f.fs.toNat) (natBits f.c.toNat 2 0))
  | .tcvt f => ofCause (checkConvert (s.fslot f.fs.toNat) (natBits f.c.toNat 2 0))
  | .topt f => ofCause (checkOpt (s.fslot f.fs.toNat) (s.qsrc f.c))
  | _ => .ok

/-- The accumulators of a nest by code. -/
def nestCodes (d : BitVec 8) (qa qb : DWord) : List Nat :=
  (List.range ((gemmOp qa).tiles * (gemmOp qb).tiles)).map (fun k => d.toNat + k)

/-- The codes of the tiles that a slot consumes: its sources, and a destination that it reads (08 R194; 09 R220, R223). -/
def tilesRead (s : State) (env : DecodeEnv) (i : Instr) : List Nat :=
  let fs := (i.sig env).fields.filterMap (fun p => match p.1 with
    | .tSrc | .tUpd | .tLatch => some p.2.toNat
    | _ => none)
  match i with
  | .tmma f => if f.c.getLsbD 0 then fs else f.d.toNat :: fs
  | .topt f => f.d.toNat :: fs
  | .tgemm f => if (s.qsrc f.a).getLsbD 47 then fs else nestCodes f.d (s.qsrc f.a) (s.qsrc f.b)
  | .tresume f => nestCodes f.d (s.es 0) (s.es 1)
  | _ => fs

/-- What a Loft slot's checks say, its engine's schedule first; a tile that it consumes must be sound (08 R195;
16 R401). -/
def loftVerdict (s : State) (b : Block) (x : LoftCtx) (i : Instr) : Verdict :=
  let own := if (tilesRead s (b.loftEnv s x) i).any (fun c => decide (c ∈ b.spoiltTiles)) then
      (match loftOwn s b x i with | .ok => .fault 0x095 0 15 | v => v)
    else loftOwn s b x i
  match engineOf i with
  | some e => (match x.scheduled e .ok with
    | .ok => own
    | v => v)
  | none => own

/-- A Loft slot's checks are made where its guard holds; a bundle that fails one commits no slot (03 R43). A bundle's
issue makes them for every slot before any slot acts, and says so; a bundle that a rerun repeats has passed them
(16 R402). -/
def State.loftSettle (s : State) (i : Instr) : State :=
  if s.cur.checked || s.cur.replay || !s.loftActs i.guard then s else
  match s.loft? with
  | none => s
  | some (b, x) => s.loftDispose b (loftVerdict s b x i)

end Sys2Proof.Machine
end

