-- ==== Sys2Proof/Machine/UnitQ.lean ====
section
/-! DEFINITION. Unit Q: the Loft's own arithmetic, branches, flag words, and the instructions that leave a gate, mark a
safe point, wait for engines or go on with a stopped nest (08 R191, R196 to R200; 09 R228). -/

namespace Sys2Proof.Machine

/-- A 64-bit result written to q or lc, with lf[CI] where CW = 1: N and Z from the 64 bits (08 R196). -/
def State.writeQ (s : State) (f : ArgsR) (r : Nat) (c v : Bool) : State :=
  s.onLoft (fun p => (p.writeQ f.d (BitVec.ofNat 64 r)).writeLf f.cw f.ci (flagsOf 64 r c v))

/-- A two-operand Q instruction, from its result with C and V. -/
def qBinary (f : ArgsR) (op : Nat → Nat → Nat × Bool × Bool) (s : State) : Host.Outcome State Fault Refusal :=
  .next (if s.loftActs f.g then
    let r := op (s.qsrc f.a).toNat (s.qsrc f.b).toNat
    s.writeQ f r.1 r.2.1 r.2.2
  else s)

/-- QADD (08 R197). -/
def execQadd (f : ArgsR) (s : State) : Host.Outcome State Fault Refusal :=
  qBinary f (fun a b => ((a + b) % 2 ^ 64, addCV 64 a b 0)) s

/-- QSUB (08 R197). -/
def execQsub (f : ArgsR) (s : State) : Host.Outcome State Fault Refusal :=
  qBinary f (fun a b => (wrapNat 64 ((a : Int) - b), subCV 64 a b 0)) s

/-- QMUL: C and V both say that the unsigned product leaves 64 bits (08 R196, R197). -/
def execQmul (f : ArgsR) (s : State) : Host.Outcome State Fault Refusal :=
  qBinary f (fun a b => (a * b % 2 ^ 64, decide (2 ^ 64 ≤ a * b), decide (2 ^ 64 ≤ a * b))) s

/-- QLI (08 R197). -/
def execQli (f : ArgsI) (s : State) : Host.Outcome State Fault Refusal :=
  .next (if s.loftActs f.g then s.onLoft (fun p => p.writeQ f.d (f.imm.signExtend 64)) else s)

/-- QSHL's shift: left, right, or arithmetic right, by a whole count with no wrap (08 R197). -/
def qShift (right arith : Bool) (a n : Nat) : Nat :=
  if !right then (if 64 ≤ n then 0 else a * 2 ^ n % 2 ^ 64)
  else if !arith then (if 64 ≤ n then 0 else a / 2 ^ n)
  else wrapNat 64 (toSigned 64 a / ((2 ^ min n 64 : Nat) : Int))

/-- QSHL (08 R197). -/
def execQshl (f : ArgsR) (s : State) : Host.Outcome State Fault Refusal :=
  qBinary f (fun a b => (qShift (f.x.getLsbD 0) (f.x.getLsbD 1) a b, false, false)) s

/-- QAND (08 R197). -/
def execQand (f : ArgsR) (s : State) : Host.Outcome State Fault Refusal := qBinary f (fun a b => (a &&& b, false, false)) s

/-- QCMP (08 R197). -/
def execQcmp (f : ArgsR) (s : State) : Host.Outcome State Fault Refusal :=
  .next (if s.loftActs f.g then
    let a := (s.qsrc f.a).toNat
    let b := (s.qsrc f.b).toNat
    let cv := subCV 64 a b 0
    s.onLoft (fun p => p.writeLf f.cw f.ci (flagsOf 64 (wrapNat 64 ((a : Int) - b)) cv.1 cv.2))
  else s)

/-- QMOV (08 R197). -/
def execQmov (f : ArgsR) (s : State) : Host.Outcome State Fault Refusal :=
  .next (if s.loftActs f.g then
    s.writeQ f (if f.x.getLsbD 0 then s.qsrcPair f.a else s.qsrc f.a).toNat false false
  else s)

/-- The Loft PC changed. -/
def State.loftGoto (s : State) (pc : DWord) : State := s.onLoft (fun p => { p with pc := pc })

/-- QBRA (08 R198). -/
def execQbra (f : ArgsJ) (s : State) : Host.Outcome State Fault Refusal :=
  .next (if s.loftActs f.g then s.loftGoto (jumpTarget s.cur.pc f.off) else s)

/-- The Loft's Shelf takes the body of a QLOOP that branches: from its target to its own bundle (08 R210; 15 R363). -/
def State.holdLoop (s : State) (target : Nat) : State :=
  match s.loft? with
  | none => s
  | some (b, _) => if target < s.cur.npc.toNat then s.holdBody b.core ⟨4, b.vf, target, (s.cur.npc.toNat - target) / 8⟩ else s

/-- QLOOP: it counts down and branches, or falls through, which is a hardware-loop exit (08 R198, R210; 17 R423). -/
def execQloop (f : ArgsJ) (s : State) : Host.Outcome State Fault Refusal :=
  .next (if s.loftActs f.g then
    let n := (s.qsrc f.d).toNat
    let target := jumpTarget s.cur.pc f.off
    if n ≠ 0 then ((s.onLoft (fun p => p.writeQ f.d (BitVec.ofNat 64 (n - 1)))).loftGoto target).holdLoop target.toNat
    else
      match s.loft? with
      | none => s
      | some (b, x) => if s.cur.replay then s else s.bankSnapshot b.core b.part 1 (fun t k p => t.traceLoft b x k p)
  else s)

/-- QWAIT: it goes on where the word it reads satisfies its condition; with X[2] that read is an acquire (08 R199). -/
def execQwait (f : ArgsR) (s : State) : Host.Outcome State Fault Refusal :=
  let s := s.loftSettle (.qwait f)
  .next (if s.loftActs f.g then
    let s1 := (s.loftReadScratch (s.qsrc f.a).toNat 4 (f.x.getLsbD 2)).2
    match s.loft? with
    | none => s
    | some (b, _) => if f.x.getLsbD 2 then s1.l1Acquire b.core (natBits f.x.toNat 5 3) else s1
  else s)

/-- QSIG: a 4-byte store; with X[2] every earlier request of the core is performed first (08 R199; 12 R286). -/
def execQsig (f : ArgsR) (s : State) : Host.Outcome State Fault Refusal :=
  let s := s.loftSettle (.qsig f)
  .next (if s.loftActs f.g then
    match s.loft? with
    | none => s
    | some (b, _) =>
      let s1 := if f.x.getLsbD 2 then s.drain b.core (fun _ => true) else s
      s1.loftWriteScratch (s.qsrc f.a).toNat 4 ((s.qsrc f.b).toNat % 2 ^ 32)
  else s)

/-- UNHATCH: the context waits for its engines, and then leaves the gate (08 R191). -/
def execUnhatch (f : ArgsR) (s : State) : Host.Outcome State Fault Refusal :=
  .next (if s.loftActs f.g then s.modLoft s.cur.blk (fun x => { x with wait := .unhatch }) else s)

/-- A nest put into the T engine for so many beats: its accumulators and the engine state as it will leave them. -/
def State.startNest (s : State) (t : Nest) (beats mode : Nat) (gts : Nat) : State :=
  s.fly 2 beats (t.writesAt t.finish false (t.done + beats) mode gts) (some t)

/-- The position that the engine state records (09 R226). -/
def State.esPos (s : State) : NestPos :=
  ⟨natBits (s.es 2).toNat 24 16, natBits (s.es 2).toNat 11 8, natBits (s.es 2).toNat 3 0, natBits (s.es 6).toNat 33 32,
    natBits (s.es 6).toNat 31 0⟩

/-- A nest's operand tiles and its accumulators as they stand at issue (09 R223, R224). -/
def State.nestOf (s : State) (slot qa qb : DWord) (fs acc stated done : Nat) (start : NestPos) : Nest × State :=
  let sl := slotOf slot
  let rho := sliceRatio sl.ak sl.bk
  let a := gemmOp qa
  let o := gemmOp qb
  let (ta, s1) := s.gemmTiles a (kTiles (narrowerA sl) rho (gemmKt qa))
  let (tb, s2) := s1.gemmTiles o (kTiles (narrowerB sl) rho (gemmKt qa))
  ({ descA := qa, descB := qb, fs := fs, slot := slot, acc := acc, stated := stated, done := done, start := start,
     opA := ta, opB := tb, old := (List.range (a.tiles * o.tiles)).map (fun i => s.tileSrc (BitVec.ofNat 8 (acc + i))) }, s2)

/-- TRESUME: the stopped nest goes on from where it stands, for its computed need (09 R228). -/
def execTresume (f : ArgsR) (s : State) : Host.Outcome State Fault Refusal :=
  let s := s.loftSettle (.tresume f)
  .next (if s.loftActs f.g then
    match s.loft? with
    | none => s
    | some (b, _) =>
      let fs := natBits (s.es 4).toNat 15 13
      let need := nestNeed (slotOf (s.fslot fs)) (s.es 0) (s.es 1) s.esPos (modeParts (s.mode b.core))
      let (t, s1) := s.nestOf (s.fslot fs) (s.es 0) (s.es 1) fs f.d.toNat (natBits (s.es 3).toNat 48 32)
        (natBits (s.es 3).toNat 31 0) s.esPos
      s1.startNest t need (s.mode b.core) (s.es 5).toNat
  else s)

/-- A Loft context takes a checkpoint at a QSAFE (15 R359; 16 R402). -/
def State.loftCheckpoint (s : State) : State :=
  match s.loft? with
  | none => s
  | some (b, _) =>
    s.modLoft s.cur.blk (fun x =>
      { x with checkpoint := x.regs, ckTiles := b.tiles, ckClk := x.clk, ckBusy := x.busy, ckFlights := x.flights,
               ckSrn := b.loftSrn, ckPc := s.cur.pc.toNat, log := [], bundles := 0,
               rerun := x.rerun.map (fun r => { r with reached := true }) })

/-- QSAFE: a safe point of tile code, where the context takes a checkpoint (08 R200; 16 R402). -/
def execQsafe (f : ArgsR) (s : State) : Host.Outcome State Fault Refusal :=
  .next (if s.loftActs f.g then s.loftCheckpoint else s)

/-- The engines that a TFENCE names; none names all three (08 R196). -/
def fenceEngines (x : Nat) : Nat := if natBits x 2 0 = 0 then 7 else natBits x 2 0

/-- TFENCE: the next bundle waits until the named engines have run out their beats (08 R200). -/
def execTfence (f : ArgsR) (s : State) : Host.Outcome State Fault Refusal :=
  .next (if s.loftActs f.g then
    s.modLoft s.cur.blk (fun x => { x with wait := .tfence (fenceEngines f.x.toNat) s.cur.pc.toNat (x.idleAt (fenceEngines f.x.toNat)) })
  else s)

end Sys2Proof.Machine
end

