-- ==== Sys2Proof/Machine/UnitX.lean ====
section
/-! DEFINITION. Unit X: tile loads and stores, copies from the Loft, transposes, gathers and zeroing (08 R201 to R207).
Memory is read and written as the instruction issues; a tile or latch is written when its beats have run (08 R194). -/

namespace Sys2Proof.Machine

/-- One piece of memory read by a move: from the scratchpad or a window, or from global memory. -/
def State.movePiece (s : State) (sp : Bool) (p : Nat × Nat) : Nat × State :=
  if sp then s.loftReadScratch p.1 p.2 false else s.loftReadGlobal p.1 p.2

/-- Pieces read in turn. -/
def State.movePiecesIn (s : State) (sp : Bool) : List (Nat × Nat) → List Nat × State
  | [] => ([], s)
  | p :: ps =>
    let (v, s) := s.movePiece sp p
    let (vs, s) := s.movePiecesIn sp ps
    (v :: vs, s)

/-- A tile from the memory rows of a TLD (08 R203). -/
def loadedTile (tr : Nat) (rows : List Nat) (side : Nat) : Tile :=
  let sd := BitVec.ofNat 4096 side
  match tr with
  | 0 => ⟨rowsToData ((List.range 32).map (fun i => rows.getD i 0)), sd⟩
  | 1 => tileOf 8 ((List.range 32).map (fun i => (List.range 128).map (fun j => natBits (rows.getD j 0) (8 * i + 7) (8 * i)))) sd
  | _ => tileOf 16 ((List.range 32).map (fun i => (List.range 64).map (fun j => natBits (rows.getD j 0) (16 * i + 15) (16 * i)))) sd

/-- TLD (08 R203). -/
def execTld (f : ArgsT) (s : State) : Host.Outcome State Fault Refusal :=
  let s := s.loftSettle (.tld f)
  .next (if s.loftActs f.g then
    match moveDesc s f with
    | none => s
    | some m =>
      let tr := natBits f.c.toNat 1 0
      let n := (moveRows tr m.rows).1
      let ps := movePieces f (s.qsrc f.a).toNat m
      let (vs, s1) := (if f.c.getLsbD 3 then s.loftPasses 4 ps else s).movePiecesIn (f.c.getLsbD 3) ps
      s1.fly 1 f.beats [.tile f.d.toNat (loadedTile tr (vs.take n) (vs.getD n 0))] none
  else s)

/-- One piece of memory written by a TST. -/
def State.storePiece (s : State) (sp : Bool) (p : Nat × Nat) (v : Nat) : State :=
  if sp then s.loftWriteScratch p.1 p.2 v else s.loftWriteGlobal p.1 p.2 v

/-- TST: rows in increasing order, then the sidecar (08 R203). -/
def execTst (f : ArgsT) (s : State) : Host.Outcome State Fault Refusal :=
  let s := s.loftSettle (.tst f)
  .next (if s.loftActs f.g then
    match moveDesc s f with
    | none => s
    | some m =>
      let t := s.tileSrc f.d
      let vals := (List.range (m.rows + 1)).map t.row ++ [t.side.toNat]
      let ps := movePieces f (s.qsrc f.a).toNat m
      let s1 := (ps.zip vals).foldl (fun s p => s.storePiece (f.c.getLsbD 3) p.1 p.2)
        (if f.c.getLsbD 3 then s.loftPasses 4 ps else s)
      s1.fly 1 f.beats [] none
  else s)

/-- TCP: one request is queued with the copy engine (08 R204; 11 R269 to R272). -/
def execTcp (f : ArgsT) (s : State) : Host.Outcome State Fault Refusal :=
  let s := s.loftSettle (.tcp f)
  .next (if s.loftActs f.g then
    match s.loft? with
    | none => s
    | some (b, x) =>
      let d := tcpDesc s f
      let (go, s1) := s.loftOutput 4 d.dst (d.src + d.len * 2 ^ 64)
      let s2 := if go then s1.queueCopy b ⟨s.cur.blk, 64, 0⟩ x.frame.thread d x.frame.pc s.cur.pc none else s1
      s2.fly 1 f.beats [] none
  else s)

/-- The transpose of every 32 × 32 block of elements of a width (08 R205). -/
def transposed (w : Nat) (t : Tile) : Tile :=
  let e := t.elems w
  tileOf w ((List.range 32).map (fun i => (List.range (1024 / w)).map (fun c => (e.getD (c % 32) []).getD (c / 32 * 32 + i) 0))) 0

/-- TXP (08 R205). -/
def execTxp (f : ArgsT) (s : State) : Host.Outcome State Fault Refusal :=
  let s := s.loftSettle (.txp f)
  .next (if s.loftActs f.g then
    s.fly 1 f.beats [.tile f.d.toNat (transposed (32 / 2 ^ natBits f.c.toNat 1 0) (s.tileSrc f.a))] none
  else s)

/-- Rows gathered by their indices: 0xFFFF and rows beyond the count are zero (08 R206). -/
def State.gatherRows (s : State) (base stride : Nat) : List Nat → List Nat × State
  | [] => ([], s)
  | x :: xs =>
    let (v, s) := if x = 0xFFFF then (0, s)
      else (s.loftPasses 5 [(base + x * stride, 128)]).loftReadScratch (base + x * stride) 128 false
    let (vs, s) := s.gatherRows base stride xs
    (v :: vs, s)

/-- The data that a gather reads (08 R206). -/
def State.gather (s : State) (f : ArgsT) : BitVec 32768 × State :=
  match gatherDesc (s.qsrc f.b).toNat with
  | none => (0, s)
  | some (rows, stride, idx) =>
    let (l, s1) := (s.loftPasses 5 [(idx, 2 * rows)]).movePiecesIn true ((List.range rows).map (fun i => (idx + 2 * i, 2)))
    let (vs, s2) := s1.gatherRows (s.qsrc f.a).toNat stride l
    (rowsToData vs, s2)

/-- TGAT (08 R206). -/
def execTgat (f : ArgsT) (s : State) : Host.Outcome State Fault Refusal :=
  let s := s.loftSettle (.tgat f)
  .next (if s.loftActs f.g then
    let (d, s1) := s.gather f
    s1.fly 1 f.beats [.latch (f.d.toNat - 40) d] none
  else s)

/-- TFILL (08 R206). -/
def execTfill (f : ArgsT) (s : State) : Host.Outcome State Fault Refusal :=
  let s := s.loftSettle (.tfill f)
  .next (if s.loftActs f.g then
    let (d, s1) := s.gather f
    s1.fly 1 f.beats [.tile f.d.toNat ⟨d, 0⟩] none
  else s)

/-- TZERO (08 R205). -/
def execTzero (f : ArgsT) (s : State) : Host.Outcome State Fault Refusal :=
  let s := s.loftSettle (.tzero f)
  .next (if s.loftActs f.g then s.fly 1 f.beats [.tile f.d.toNat Tile.zero] none else s)

end Sys2Proof.Machine
end

