-- ==== Sys2Proof/Machine/UnitT.lean ====
section
/-! DEFINITION. Unit T: TMMA and TGEMM (09 R219 to R229). -/

namespace Sys2Proof.Machine

/-- TMMA: D takes the product when its beats have run; a stopped nest is discarded as it issues (09 R220, R229). -/
def execTmma (f : ArgsT) (s : State) : Host.Outcome State Fault Refusal :=
  let s := s.loftSettle (.tmma f)
  .next (if s.loftActs f.g then
    let t := tmmaTile (slotOf (s.fslot f.fs.toNat)) (f.c.getLsbD 0) (f.x.getLsbD 0) (tmmaKsel f) (s.tileSrc f.a) (s.tileSrc f.b)
      (s.tileSrc f.d)
    (s.onLoft (fun p => { p with es := Map.set 0 p.es 7 0 })).fly 2 (tmmaBeats f) [.tile f.d.toNat t] none
  else s)

/-- TGEMM: the whole nest runs for its stated beats, or for its need where 131,071 are stated (09 R223, R225). -/
def execTgemm (f : ArgsG) (s : State) : Host.Outcome State Fault Refusal :=
  let s := s.loftSettle (.tgemm f)
  .next (if s.loftActs f.g then
    match s.loft? with
    | none => s
    | some (b, _) =>
      let beats := if f.beats.toNat = 131071 then tgemmNeed s b f else f.beats.toNat
      let (t, s1) := s.nestOf (s.fslot f.fs.toNat) (s.qsrc f.a) (s.qsrc f.b) f.fs.toNat f.d.toNat f.beats.toNat 0 {}
      s1.startNest t beats (s.mode b.core) 0
  else s)

end Sys2Proof.Machine
end

