-- ==== Sys2Proof/Machine/UnitV.lean ====
section
/-! DEFINITION. Unit V: element-wise arithmetic, reductions, the quantiser and conversions of tiles (10 R241 to R253).
What each computes is TileOps'. -/

namespace Sys2Proof.Machine

/-- A V instruction that passes its checks: D is written whole when its beats have run, its saturations are counted, and
an instruction that rounds by SR advances the Loft's number (10 R242, R245; 02 R33). -/
def State.tileResult (s : State) (f : ArgsT) (sr : Bool) (r : TileOut) : State :=
  match s.loft? with
  | none => s
  | some (b, _) =>
    ((s.fly 3 f.beats [.tile f.d.toNat r.1] none).count b.core b.part 0x09 0 r.2).advanceLoftSrn
      (if sr then (slotOf (s.fslot f.fs.toNat)).rm else 0)

/-- A V instruction from what it computes of its slot, the random values of SR, and its tiles. -/
def tileOp (i : Instr) (f : ArgsT) (sr : Bool) (op : State → Slot → (Nat → Nat) → TileOut) (s : State) :
    Host.Outcome State Fault Refusal :=
  let s := s.loftSettle i
  .next (if s.loftActs f.g then s.tileResult f sr (op s (slotOf (s.fslot f.fs.toNat)) s.loftRandom) else s)

/-- TADD, with SUB subtracting (10 R246). -/
def execTadd (f : ArgsT) (s : State) : Host.Outcome State Fault Refusal :=
  tileOp (.tadd f) f true (fun s sl r => tileArith (bit01 (f.c.getLsbD 0)) sl r (s.tileSrc f.a) (s.tileSrc f.b) (s.tileSrc f.a)) s

/-- TMUL (10 R246). -/
def execTmul (f : ArgsT) (s : State) : Host.Outcome State Fault Refusal :=
  tileOp (.tmul f) f true (fun s sl r => tileArith 2 sl r (s.tileSrc f.a) (s.tileSrc f.b) (s.tileSrc f.a)) s

/-- TFMA (10 R246). -/
def execTfma (f : ArgsT) (s : State) : Host.Outcome State Fault Refusal :=
  tileOp (.tfma f) f true (fun s sl r => tileArith 3 sl r (s.tileSrc f.a) (s.tileSrc f.b) (s.tileSrc f.c)) s

/-- TMAX, with MIN the minimum (10 R246). -/
def execTmax (f : ArgsT) (s : State) : Host.Outcome State Fault Refusal :=
  tileOp (.tmax f) f true (fun s sl r => tileMax (f.c.getLsbD 0) sl r (s.tileSrc f.a) (s.tileSrc f.b)) s

/-- TACT (10 R247). -/
def execTact (f : ArgsT) (s : State) : Host.Outcome State Fault Refusal :=
  tileOp (.tact f) f true (fun s sl r => tileAct (natBits f.c.toNat 2 0) sl r (s.tileSrc f.a)) s

/-- TSCALE (10 R246). -/
def execTscale (f : ArgsT) (s : State) : Host.Outcome State Fault Refusal :=
  tileOp (.tscale f) f true (fun s sl r => tileScale (natBits f.c.toNat 1 0) sl r (s.tileSrc f.a) (s.tileSrc f.b)) s

/-- TRED (10 R248). -/
def execTred (f : ArgsT) (s : State) : Host.Outcome State Fault Refusal :=
  tileOp (.tred f) f true (fun s sl r => tileRed (natBits f.c.toNat 1 0) (f.c.getLsbD 2) (f.c.getLsbD 3) sl r (s.tileSrc f.a) (s.tileSrc f.d)) s

/-- TAMAX (10 R249). -/
def execTamax (f : ArgsT) (s : State) : Host.Outcome State Fault Refusal :=
  tileOp (.tamax f) f false (fun s sl _ => tileStats true (f.c.getLsbD 3) sl (s.tileSrc f.a) (s.tileSrc f.d)) s

/-- TMINMAX (10 R249). -/
def execTminmax (f : ArgsT) (s : State) : Host.Outcome State Fault Refusal :=
  tileOp (.tminmax f) f false (fun s sl _ => tileStats false (f.c.getLsbD 3) sl (s.tileSrc f.a) (s.tileSrc f.d)) s

/-- TQNT (10 R250). -/
def execTqnt (f : ArgsT) (s : State) : Host.Outcome State Fault Refusal :=
  tileOp (.tqnt f) f true (fun s sl r => tileQuant (natBits f.c.toNat 2 0) (f.c.getLsbD 3) sl r (s.tileSrc f.a) (if f.c.getLsbD 3 then s.tileSrc f.b else Tile.zero) (s.tileSrc f.d)) s

/-- TDQT (10 R252). -/
def execTdqt (f : ArgsT) (s : State) : Host.Outcome State Fault Refusal :=
  tileOp (.tdqt f) f true (fun s sl r => tileDequant (natBits f.c.toNat 2 0) sl r (s.tileSrc f.a)) s

/-- TCVT (10 R252). -/
def execTcvt (f : ArgsT) (s : State) : Host.Outcome State Fault Refusal :=
  tileOp (.tcvt f) f true (fun s sl r => tileConvert (natBits f.c.toNat 2 0) sl r (s.tileSrc f.a) (s.tileSrc f.d)) s

/-- TOPT (10 R253). -/
def execTopt (f : ArgsT) (s : State) : Host.Outcome State Fault Refusal :=
  tileOp (.topt f) f true (fun s sl r => tileOpt (s.qsrc f.c) sl r (s.tileSrc f.a) (s.tileSrc f.b) (s.tileSrc f.d)) s

end Sys2Proof.Machine
end

