-- ==== Sys2Proof/Machine/Life.lean ====
section
/-! DEFINITION. What comes about at the end of a cycle and in the life of a block: masks, barriers, scope barriers and
gates complete; a killed block goes through its steps; a launch fails (04 R81, R85, R90 to R93; 08 R185; 14 R336;
16 R378 to R380). -/

namespace Sys2Proof.Machine

/-! ### Masks (04 R85, R90) -/

/-- A thread released from a wait: RUN, its PC already at the bundle after (04 R77). -/
def Thread.release (t : Thread) : Thread := { t with st := .run, stalled := false, since := 0 }

/-- The threads of a crew's lanes that meet a test on lane and thread. -/
def CrewCore.lanesThat (p : CrewCore) (q : Nat → Thread → Bool) : Lanes :=
  lanesOf ((p.threads.filter (fun e => q e.1 e.2)).map Prod.fst)

/-- Lanes waiting on a mask. -/
def CrewCore.maskWaiters (p : CrewCore) (m : Nat) : Lanes := p.lanesThat (fun _ t => t.st == .maskWait m)

/-- The lanes released. -/
def CrewCore.releaseLanes (p : CrewCore) (m : Lanes) : CrewCore := p.mapLanes m (fun _ t => t.release)

/-- The end-of-cycle test of one mask of one logical crew (04 R85). -/
def CrewCore.testMask (p : CrewCore) (within : Lanes) (m : Nat) : CrewCore :=
  let mask := p.mask m &&& within
  let members := mask &&& p.live
  let waiters := p.maskWaiters m &&& within
  let p := p.releaseLanes (waiters &&& ~~~ mask)
  let old := Map.get 0 p.arrived m
  let arr := old &&& members
  let keep := old &&& ~~~ within
  if members ≠ 0 ∧ members &&& ~~~ arr = 0 then
    { p.releaseLanes (waiters &&& mask) with arrived := Map.set 0 p.arrived m keep }
  else { p with arrived := Map.set 0 p.arrived m (keep ||| arr) }

/-- The bits of the lanes whose threads have exited in this cycle cleared in m1 to m11 and in every arrival set (04 R90). -/
def CrewCore.sweepExited (p before : CrewCore) : CrewCore :=
  let out := p.lanesThat (fun l t => t.st == .exited && ((Map.find? before.threads l).getD {}).st != .exited)
  if out = 0 then p else
  { p with masks := (List.range 12).foldl (fun a m => Map.set 0 a m (Map.get 0 a m &&& ~~~ out)) p.masks,
           arrived := (List.range 12).foldl (fun a m => Map.set 0 a m (Map.get 0 a m &&& ~~~ out)) p.arrived }

/-- The end-of-cycle tests of a crew's masks (04 R81, R85). -/
def CrewCore.testMasks (p : CrewCore) (width n : Nat) : CrewCore :=
  (List.range n).foldl (fun p i => (List.range 12).foldl (fun p m => p.testMask (subCrew width i) m) p) p

/-- A block's masks tested in one crew, once what has exited there is cleared. -/
def Block.settleMasks (b : Block) (crew : Nat) (before : CrewCore) : Block :=
  b.modCrew crew (fun c => { c with core := (c.core.sweepExited before).testMasks b.width b.subCrews })

/-! ### Block barriers (04 R91) -/

/-- A set of threads by linear index. -/
def threadSet (ts : List Nat) : BitVec 1024 := BitVec.ofNat 1024 ((dedup ts).map (fun t => 2 ^ t)).sum

/-- The block's threads that have not exited. -/
def Block.expected (b : Block) : BitVec 1024 := threadSet (b.liveThreads.map (fun t => b.linear t.1 t.2.1))

/-- Every thread of a block changed by its linear index. -/
def Block.mapThreads (b : Block) (f : Nat → Thread → Thread) : Block :=
  { b with crews := Map.mapVals (fun c w => w.mapThreads (fun l t => f (b.linear c l) t)) b.crews }

/-- The PC of the bundle that a stalled re-arrival stands at is kept: it issues its BAR again. -/
def Block.completeBar (b : Block) (n : Nat) (r : Barrier) : Block :=
  { b.mapThreads (fun i t =>
      if t.st == .barWait n && (t.stalled || !r.early.getLsbD i) then t.release else t) with
    bars := Map.insert b.bars n ⟨!r.phase, r.early, 0⟩ }

/-- The end-of-cycle test of one barrier: complete when every expected thread has arrived (04 R91). -/
def Block.testBar (b : Block) (n : Nat) : Block :=
  match Map.find? b.bars n with
  | none => b
  | some r =>
    let e := b.expected
    if e ≠ 0 ∧ e &&& ~~~ r.arr = 0 then b.completeBar n r else b

/-- A thread of a crew that a rerun left waiting at a barrier where its arrival was counted in the first run and its
phase has since completed goes on (16 R402). -/
def Block.passReruns (b : Block) : Block :=
  b.mapThreads (fun i t =>
    match t.st with
    | .barWait n =>
      let r := (Map.find? b.bars n).getD {}
      if !t.stalled && !r.arr.getLsbD i && !r.early.getLsbD i then t.release else t
    | .sbarWait sc => if !((Map.find? b.sarr sc).getD 0).getLsbD i then t.release else t
    | _ => t)

/-- The block's barriers tested; a phase whose every arrival was early completes in the same cycle as the one before
it. -/
def Block.settleBars (b : Block) : Block :=
  let t := fun b => (List.range 16).foldl Block.testBar b
  (t (t b)).passReruns

/-! ### Scope barriers (04 R92, R93) -/

/-- Whether a block takes part in its launch's barriers at a scope. -/
def Block.takesPart (b : Block) (scope : Nat) : Bool := if scope = 3 then recQuad b.record else recCoop b.record

/-- Whether a block has arrived at a scope's current phase: every thread that has not exited has executed its SBAR; a
block whose threads have all exited has arrived at every phase (04 R92, R93). -/
def Block.arrivedAt (b : Block) (scope : Nat) : Bool :=
  decide (scope ∈ b.sdone) || decide (b.expected &&& ~~~ ((Map.find? b.sarr scope).getD 0) = 0)

/-- The phase of a scope barrier completes for a block: its waiting threads go on, and its next phase begins. -/
def Block.completeScope (b : Block) (scope : Nat) : Block :=
  { b.mapThreads (fun _ t => if t.st == .sbarWait scope then t.release else t) with
    sarr := Map.erase b.sarr scope, sdone := b.sdone.filter (fun x => x != scope) }

/-- Whether a block takes part in an instance of a launch's barrier at a scope. -/
def Block.inInstance (b : Block) (launch scope inst : Nat) : Bool :=
  b.launch == launch && b.takesPart scope && b.instance_ scope == inst && !b.ended

/-- The blocks of a list of saved teams. -/
def savedBlocks (m : Map Saved) : List (Nat × Block) := m.flatMap (fun e => e.2.blocks)

/-- Whether the other packages of a launch have arrived at a pod barrier; no other package takes part where none has
sent a flit (18 R438). -/
def Launch.podReady (l : Launch) : Bool := l.podWait.all (fun p => decide (p ∈ l.podArrived))

/-- Blocks changed, resident and saved, where they meet a test. -/
def State.mapBlocks (s : State) (q : Block → Bool) (f : Block → Block) : State :=
  { s with blocks := Map.mapVals (fun _ b => if q b then f b else b) s.blocks,
           saved := Map.mapVals (fun _ v => { v with blocks := Map.mapVals (fun _ b => if q b then f b else b) v.blocks }) s.saved }

/-- A phase of a scope barrier tested in one instance: it completes when every block that takes part has arrived and
some thread waits or has arrived; release from it acquires (04 R92, R96). In a broken instance none completes (04 R93). -/
def State.testScope (s : State) (launch scope inst : Nat) : State :=
  let q := fun (b : Block) => b.inInstance launch scope inst
  let bs := ((s.blocks ++ savedBlocks s.saved).map Prod.snd).filter q
  let l := (Map.find? s.launches launch).getD { queue := 0, seq := 0, ring := 0, vf := 0 }
  if decide ((scope, inst) ∉ l.broken) && bs.all (fun b => b.arrivedAt scope) && bs.any (fun b => (Map.find? b.sarr scope).isSome) && (scope != 6 || l.podReady) then
    let cores := dedup ((s.blocks.filter (fun e => q e.2)).map (fun e => e.2.core))
    let s := cores.foldl (fun s c => s.l1Acquire c scope) (s.mapBlocks q (fun b => b.completeScope scope))
    if scope = 6 then s.modLaunch launch (fun l => { l with podArrived := [] }) else s
  else s

/-- The scope barriers that a block takes part in tested. -/
def State.settleScopes (s : State) (blk : Nat) : State :=
  match s.block? blk with
  | none => s
  | some b => [3, 4, 5, 6].foldl (fun s sc => if b.takesPart sc then s.testScope b.launch sc (b.instance_ sc) else s) s

/-! ### The gate opens (08 R185) -/

/-- The layout map of an index: its eight descriptors; none where the kernel has no maps or they cannot be read (08
R185, R188; log 23, DESIGN CHOICE). -/
def State.layoutMap (s : State) (b : Block) (map : Nat) : Option (BitVec 256) :=
  let maps := recBits b.header 447 384
  if maps = 0 then none
  else
    match s.codeTrans b (maps + 32 * map) 0 with
    | .ok pa _ _ => some (BitVec.ofNat 256 (s.num pa 32))
    | _ => none

/-- A partition's Loft queue changed. -/
def State.modLoftq (s : State) (core part : Nat) (f : List Nat → List Nat) : State :=
  s.modCore core (fun c => { c with loftq := Map.set [] c.loftq part (f (Map.get [] c.loftq part)) })

/-- Whether every thread of a block that has not exited stands in GATE, and one does. -/
def Block.gateReady (b : Block) : Bool :=
  b.loft.isNone && !b.liveThreads.isEmpty && b.liveThreads.all (fun t => t.2.2.st == .gate)

/-- The gate opens: the frame is recorded, and the block joins its Loft's queue; a kernel without maps raises 0x140 in
the entering thread (08 R185). -/
def State.openGate (s : State) (blk : Nat) : State :=
  match s.block? blk with
  | none => s
  | some b =>
    if !b.gateReady || b.killed then s else
    let pc := b.gatePc.getD 0
    let t := listMin 1024 (b.liveThreads.map (fun t => b.linear t.1 t.2.1))
    let p := b.place t
    match s.layoutMap b b.gateMap with
    | none =>
      let c := (Map.find? b.crews p.1).getD {}
      s.killBlock blk (threadRecord s b p.1 c p.2 pc.toNat 0x140 0 15 (2 ^ b.gateSlot) 3)
    | some d =>
      let entry := pcMask (pc.toNat + 8 * b.gateLen)
      let x : LoftCtx := { frame := ⟨pc, b.gateMap, d, t, entry⟩, regs := { pc := entry } }
      (s.modBlock blk (fun b => { b with loft := some x })).modLoftq
        b.core b.part (fun q => q ++ [blk])

/-! ### A launch fails (14 R336; 15 R370) -/

/-- Scratchpads of retired blocks of a launch's quad teams let go: of each team of which no block is resident, saved, or, while
the launch has not failed, still to run again (07 R163). -/
def State.sweepTeams (s : State) (launch : Nat) : State :=
  let l := (Map.find? s.launches launch).getD { queue := 0, seq := 0, ring := 0, vf := 0 }
  let alive := fun (b : Block) =>
    s.blocks.any (fun e => e.2.launch == launch && e.2.team == b.team && !e.2.gone)
      || s.saved.any (fun e => e.2.launch == launch && e.2.team == b.team)
      || (l.failed.isNone && l.discarded.any (fun e => decide (b.team ≤ e.1) && decide (e.1 < b.team + recTeam b.record)))
  { s with blocks := s.blocks.filter (fun e => !(e.2.launch == launch && e.2.gone && !alive e.2)) }

/-- A launch fails: its first failure is kept, its queue halts with the sequence number and cause unless it is halted
already, and its saved teams are given up (14 R336; 16 R390). -/
def State.failLaunch (s : State) (launch seq cause : Nat) : State :=
  match Map.find? s.launches launch with
  | none => s
  | some l =>
    let q := (s.reg .qstat l.queue).toNat
    let s := s.modLaunch launch (fun l => { l with failed := some (l.failed.getD cause) })
    let s := { s with saved := s.saved.filter (fun e => e.2.launch != launch) }.sweepTeams launch
    if natBit q 1 then s
    else s.setReg .qstat l.queue (BitVec.ofNat 64 (field seq 32 32 + field cause 16 9 + 2))

/-! ### A block is killed (16 R379, R380) -/

/-- The scope barriers in which a killed block takes part are broken in its instance (04 R93). -/
def State.breakScopes (s : State) (b : Block) : State :=
  s.modLaunch b.launch (fun l =>
    { l with broken := dedup (l.broken ++ ([3, 4, 5, 6].filter (fun sc => b.takesPart sc)).map (fun sc => (sc, b.instance_ sc))) })

/-- A cellar frame in which a killed block's access met a poisoned byte is to be retired: the frame, with the IPA of its page
(13 R328; 16 R401). -/
def State.noteFailing (s : State) (b : Block) : State :=
  match translate s b.tctx (b.killAddr % 2 ^ 64) 0 with
  | .ok pa e _ =>
    let k := s.memKey pa / 4096 * 4096
    if aperture pa = 0 ∧ s.poison.any (fun a => decide (k ≤ a) && decide (a < k + 4096)) then
      { s with failing := dedup (s.failing ++ [(pa / 4096, 4096 * e.ipn)]) }
    else s
  | _ => s

/-- A killed block goes through its steps: accesses performed, copies stopped, its Loft context and its place in the
queue given up, its scope barriers broken, its threads at an end, its launch failed (16 R379). -/
def State.endBlock (s : State) (blk : Nat) : State :=
  match s.block? blk with
  | none => s
  | some b =>
    let s := (Map.keys b.crews).foldl (fun s c => s.completeFences blk c) s
    let s := s.drain b.core (fun _ => true)
    let s := s.modCore b.core (fun c => { c with copies := c.copies.filter (fun p => p.agent.blk != blk),
                                                 ended := c.ended.filter (fun p => p.agent.blk != blk) })
    let s := if b.killCause = 0x095 then s.noteFailing b else s
    let s := s.modLoftq b.core b.part (fun q => q.filter (fun x => x != blk))
    let s := s.breakScopes b
    let s := s.modBlock blk (fun b =>
      { b.mapThreads (fun _ t => { t with st := .exited, hold := none }) with loft := none, ended := true, faultAt := none })
    s.failLaunch b.launch (b.killLid / 256) b.killCause

/-- Whether a thread waits at a broken scope barrier. -/
def State.waitsBroken (s : State) (b : Block) (t : Thread) : Bool :=
  match t.st with
  | .sbarWait sc => s.isBroken b sc
  | _ => false

/-- The crews of a block with threads that wait at a broken scope barrier: one record for each, naming its lowest such
lane; the lanes leave their wait (04 R93; 16 R380). -/
def State.breakWaiters (s : State) (blk : Nat) : State :=
  match s.block? blk with
  | none => s
  | some b =>
    if b.ended then s else
    b.crews.foldl (fun s e =>
      match List.find? (fun (t : Nat × Thread) => s.waitsBroken b t.2) e.2.core.threads with
      | none => s
      | some (l, t) =>
        (s.killBlock blk (threadRecord s b e.1 e.2 l t.pc.toNat 0x101 0 15 0 3)).modCrew blk e.1 (fun c =>
          c.mapThreads (fun _ t => if s.waitsBroken b t then t.release else t))) s

/-- Killed blocks end, and what waits at the barriers they break is killed in turn (16 R378 to R380). -/
def State.settleKills : Nat → State → State
  | 0, s => s
  | n + 1, s =>
    match Map.findBy (fun _ b => b.killed && !b.ended) s.blocks with
    | none => s
    | some (h, b) =>
      let s := s.endBlock h
      settleKills n ((Map.keys (s.blocks.filter (fun e => e.2.launch == b.launch))).foldl (fun s k => s.breakWaiters k) s)

/-- A block's barriers, scope barriers and gate tested, as at the end of a cycle; the cycle's kills are counted before the
tests (04 R81). -/
def State.settleBlock (s : State) (blk : Nat) : State :=
  let s := s.settleKills (s.blocks.length + 1)
  let s := s.modBlock blk Block.settleBars
  let s := s.settleScopes blk
  let s := s.openGate blk
  s.settleKills (s.blocks.length + 1)

end Sys2Proof.Machine
end

