-- ==== Sys2Proof/Machine/Issue.lean ====
section
/-! DEFINITION. Issue: regroup points and paths, the bundles of an issue opportunity, what follows at the end of its
cycle, a Loft's bundle, and what a watchpoint's hit does (04 R75 to R81; 08 R193 to R195; 16 R402; 17 R429). The
meanings themselves come in as a parameter. -/

namespace Sys2Proof.Machine

/-- The meaning of instructions, as Dispatch gives it. -/
abbrev Meaning := Instr → State → Host.Outcome State Fault Refusal

/-- An outcome continued where it is a next state. -/
def andThen (o : Host.Outcome State Fault Refusal) (f : State → Host.Outcome State Fault Refusal) :
    Host.Outcome State Fault Refusal :=
  match o with
  | .next s => f s
  | .fault r => .fault r
  | .refused r => .refused r

/-! ### Paths (04 R76, R77, R84) -/

/-- Whether a thread takes part in issue: RUN, held for no page, and not stopped at a safe point for a save
(04 R74; 13 R319; 16 R389). -/
def Block.canRun (b : Block) (t : Thread) : Bool :=
  t.st == .run && t.hold.isNone && !((b.leaving == 1 || b.leaving == 4) && t.atSafe)

/-- The lanes of a crew that take part in issue. -/
def Block.runnable (b : Block) (c : Crew) : Lanes := c.core.lanesThat (fun _ t => b.canRun t)

/-- A PC with the lanes that stand there. -/
structure PathRank where
  aged : Nat
  pop : Nat
  pc : Nat
  lanes : Lanes

/-- The order of R76: the aged first and the oldest of them first, then by population, then by address. -/
def PathRank.before (a b : PathRank) : Bool :=
  decide (b.aged < a.aged) || (a.aged == b.aged && (decide (b.pop < a.pop) || (a.pop == b.pop && decide (a.pc < b.pc))))

/-- The PCs of a lane set, ranked (04 R76). -/
def rankPaths (p : CrewCore) (m : Lanes) : List PathRank :=
  let th := fun l => (Map.find? p.threads l).getD {}
  let pcs := dedup ((laneList m).map (fun l => (th l).pc.toNat))
  sortBy PathRank.before (pcs.map (fun pc =>
    let ls := lanesWhere m (fun l => (th l).pc.toNat == pc)
    let old := listMax ((laneList ls).map (fun l => (th l).age))
    ⟨if 32 ≤ old then old else 0, laneCount ls, pc, ls⟩))

/-- The two paths of a lane set. -/
def twoPaths (p : CrewCore) (m : Lanes) : List Lanes := ((rankPaths p m).take 2).map (fun r => r.lanes)

/-- Threads in YIELDED come one regroup point nearer to RUN (04 R95). -/
def Crew.countYields (c : Crew) : Crew :=
  c.mapThreads (fun _ t => match t.st with
    | .yielded n => if n ≤ 1 then t.release else { t with st := .yielded (n - 1) }
    | _ => t)

/-- A regroup point; one made by an aged thread ranks each column's threads by themselves (04 R76, R84). A cycle that is one
for several reasons is one regroup point (04 R95). -/
def Block.regroup (b : Block) (c : Crew) (aged : Bool) (clk : Nat) : Crew :=
  let c := if c.lastRegroup = clk then c else c.countYields
  let run := b.runnable c
  { c with
    paths := if aged && b.width == 64 then twoPaths c.core (run &&& subCrew 32 0) ++ twoPaths c.core (run &&& subCrew 32 1)
      else twoPaths c.core run,
    lastRegroup := clk }

/-- The lanes of a crew's paths. -/
def Crew.pathLanes (c : Crew) : Lanes := c.paths.foldl (· ||| ·) 0

/-- Whether a thread that takes part in issue stands in no path with age 32 or more (04 R76). -/
def Block.hasAged (b : Block) (c : Crew) : Bool :=
  (b.runnable c &&& ~~~ c.pathLanes &&& c.core.lanesThat (fun _ t => decide (32 ≤ t.age))) != 0

/-- A path after its bundle: its lanes still in RUN at the most populous next PC, the lower of equals (04 R77). -/
def Block.trim (b : Block) (c : Crew) (path : Lanes) : Lanes :=
  let ls := path &&& b.runnable c
  let th := fun l => (c.thread l).pc.toNat
  let pcs := dedup ((laneList ls).map th)
  let pop := fun pc => ((laneList ls).filter (fun l => th l == pc)).length
  match sortBy (fun x y => decide (pop y < pop x) || (pop x == pop y && decide (x < y))) pcs with
  | [] => 0
  | pc :: _ => lanesWhere ls (fun l => th l == pc)

/-! ### Conflicts between paths (04 R80) -/

/-- What a bundle writes of what the crew shares: k registers, sum latches, masks whole, and masks by lane. -/
structure Shares where
  ks : List Nat
  latches : List Nat
  whole : List Nat
  bits : List Nat

/-- The shared state that a bundle's slots write. A slot counts whether or not its guard holds in some lane of the path: the
columns' schedulers see the bundles alone (log 66, DESIGN CHOICE). -/
def sharesOf (env : DecodeEnv) (is : List Instr) : Shares :=
  let ds := is.flatMap (fun i => (i.sig env).dests)
  { ks := ds.filterMap (fun d => match d with | .reg r => if 192 ≤ r ∧ r < 240 then some r else none | _ => none),
    latches := ds.filterMap (fun d => match d with | .latch n => some n | _ => none),
    whole := is.filterMap (fun i => match i with
      | .mset f | .mop f => some f.d.toNat
      | _ => none),
    bits := is.filterMap (fun i => match i with
      | .join f | .leave f | .mwr f => some f.d.toNat
      | _ => none) }

/-- Whether two lists share an entry. -/
def overlap (a b : List Nat) : Bool := a.any (fun x => decide (x ∈ b))

/-- Whether two bundles may not issue in one cycle. -/
def Shares.conflict (a b : Shares) : Bool :=
  overlap a.ks b.ks || overlap a.latches b.latches || overlap a.whole b.whole || overlap a.whole b.bits || overlap a.bits b.whole

/-- Paths that issue together, and those deferred, in order. -/
def splitPaths (shares : Lanes → Shares) : List Lanes → List Lanes × List Lanes → List Lanes × List Lanes
  | [], r => r
  | p :: ps, (go, later) =>
    if go.any (fun q => (shares q).conflict (shares p)) then splitPaths shares ps (go, later ++ [p])
    else splitPaths shares ps (go ++ [p], later)

/-! ### A gang's bundle -/

/-- A gang on its way through a cycle: its cursor, and the slots of its bundle. -/
structure Gang where
  cur : Cursor
  slots : List Instr

/-- Every lane of a gang held at a bundle that cannot be fetched, or its trap taken (03 R65; 13 R321). -/
def State.fetchFault (s : State) (b : Block) (cause va ipa kind : Nat) : State :=
  (laneList s.cur.lanes).foldl (fun s l =>
    match s.gang? with
    | none => s
    | some (_, c) =>
      let key := fetchKey s.cur.pc.toNat
      if (c.thread l).refused = some key then s.raiseLane l 0x086 s.cur.pc.toNat kind
      else s.dispose b l (s.transVerdict b.vf cause va ipa kind key)) s

/-- A record about a bundle as a whole, of a gang: its lowest lane (03 R65; 16 R378). -/
def State.trapBundle (s : State) (b : Block) (cause addr kind mask unit : Nat) : State :=
  match s.gang?, lowLane s.cur.lanes with
  | some (_, c), some l => s.killBlock s.cur.blk (threadRecord s b s.cur.crew c l s.cur.pc.toNat cause addr kind mask unit)
  | _, _ => s

/-- The trap of a bundle that could not be fetched names no slot. -/
def State.takeFetchTrap (s : State) (b : Block) : State :=
  match lowestFault s.cur.faults with
  | none => s
  | some f => { s with cur := { s.cur with faults := [] } }.trapBundle b f.cause f.addr f.kind 0 0

/-- The gang of a path: its bundle fetched and decoded. A bundle that cannot be fetched or is illegal gives none; its
lanes are held or its trap is taken (03 R42, R62, R65). -/
def State.gang (s : State) (blk crew : Nat) (path : Lanes) (replay : Bool) : Option Gang × State :=
  match s.crew? blk crew, lowLane path with
  | some (b, c), some l =>
    let pc := (c.thread l).pc
    let cur : Cursor := { blk := blk, crew := crew, lanes := path, eset := path, pc := pc, npc := pc, replay := replay }
    let s := { s with cur := cur }
    match s.fetch b pc.toNat with
    | .wait => (none, s)
    | .fail cause va ipa kind => (none, ((s.fetchFault b cause va ipa kind).postHolds.takeFetchTrap b))
    | .words ws us =>
      let s := s.useFetch b us
      match decodeBundle b.env ws with
      | .error (r, mask) => (none, s.trapBundle b r.cause 0 15 mask (slotUnit (ws.getD (lowSlot mask) 0)))
      | .ok is => (some ⟨{ cur with npc := pcMask (pc.toNat + 8 * ws.length), units := ws.map slotUnit }, is⟩, s)
  | _, _ => (none, s)

/-- The checks of every slot of a gang's bundle; the lanes that remain commit it (03 R43). After a rollback none do. -/
def State.settleGang (s : State) (g : Gang) : Gang × State :=
  let s := { s with cur := { g.cur with rolled := s.cur.rolled, notices := s.cur.notices } }
  if s.cur.rolled then (⟨{ s.cur with eset := 0, checked := true }, g.slots⟩, s)
  else
    let s := ((indexed g.slots).foldl (fun s i => { s with cur := { s.cur with slot := i.1 } }.settleSlot i.2) s).postHolds
    let s := { s with cur := { s.cur with checked := true } }
    (⟨s.cur, g.slots⟩, s)

/-- The slots of a bundle run in turn (03 R43). -/
def runSlots (ex : Meaning) : List Instr → Nat → State → Host.Outcome State Fault Refusal
  | [], _, s => .next s
  | i :: is, k, s => andThen (ex i { s with cur := { s.cur with slot := k } }) (runSlots ex is (k + 1))

/-- Whether a bundle's slot is a safe point. -/
def isSafept : Instr → Bool
  | .safept _ => true
  | _ => false

/-- What committing a bundle does to its lanes before its slots act: the next PC, and an end of what they waited for
(04 R77; 13 R320). -/
def State.commitLanes (s : State) (g : Gang) : State :=
  let safe := g.slots.any isSafept
  s.modCrew s.cur.blk s.cur.crew (fun c =>
    let p := c.core.mapLanes s.cur.eset (fun _ t =>
      { t with pc := s.cur.npc, since := 0, ringWait := none, hold := none, refused := none, stalled := false, atSafe := safe })
    { c with core := { p with replay := p.replay &&& ~~~ s.cur.eset } })

/-- The issue of a bundle noted in the log of its crew: its PC and its committing lanes, under the ordinal that the bundles
of one cycle share (16 R398, R402). -/
def State.logIssue (s : State) : State :=
  s.modCrew s.cur.blk s.cur.crew (fun c =>
    let c := if s.cur.replay then c.advance false
      else c.append ⟨2, 0, 0, 0, c.ord, s.cur.pc.toNat, s.cur.eset.toNat⟩
    { c with bundles := c.bundles + 1,
             stop := if c.stop.due.isSome then { c.stop with skid := min 65535 (c.stop.skid + 1) } else c.stop })

/-! ### Watchpoint hits (17 R429) -/

/-- A gang's hits take effect once its bundle has committed (17 R429). -/
def State.actHits (s : State) : State := s.reportHits s.cur.blk s.cur.crew s.cur.hits

/-! ### A cycle of a crew -/

/-- One gang's bundle executes in the lanes that have passed its checks (03 R43); peers are the gangs of its cycle as their
checks found them before any of them acted (05 R127). -/
def runGang (ex : Meaning) (peers : List Gang) (g : Gang) (s : State) : Host.Outcome State Fault Refusal :=
  let peer := (peers.filter (fun q => q.cur.pc == g.cur.pc && q.cur.lanes != g.cur.lanes)).foldl (fun m q => m ||| q.cur.eset) 0
  let s := { s with cur := { s.cur with peer := peer } }
  if s.cur.rolled then .next s
  else if s.cur.eset = 0 then .next s.takeTrap
  else
    andThen (runSlots ex g.slots 0 (s.logIssue.commitLanes g)) (fun s => .next s.takeTrap.actHits)

/-- The gangs of a cycle in turn: each is checked and executes before the next is checked, so that what a check finds still
holds when its bundle acts (03 R43; 07 R170, R176; 11 R269; 14 R341). -/
def runGangs (ex : Meaning) (peers : List Gang) : List Gang → List Gang → State →
    (List Gang → State → Host.Outcome State Fault Refusal) → Host.Outcome State Fault Refusal
  | [], done, s, fin => fin done s
  | g :: gs, done, s, fin =>
    let (g, s) := s.settleGang g
    andThen (runGang ex peers g s) (fun s => runGangs ex peers gs (done ++ [g]) s fin)

/-- The gangs of a list of paths, fetched and decoded. -/
def State.gangs (s : State) (blk crew : Nat) (replay : Bool) : List Lanes → List Gang × State
  | [] => ([], s)
  | p :: ps =>
    let (g, s) := s.gang blk crew p replay
    let (gs, s) := s.gangs blk crew replay ps
    ((match g with | some g => [g] | none => []) ++ gs, s)

/-- Whether a gang that has been checked executes a HATCH in some lane. -/
def State.hatches (s : State) (g : Gang) : Bool :=
  !g.cur.replay && g.slots.any (fun i => match i with
    | .hatch f => ({ s with cur := g.cur } : State).active f.g != (0 : Lanes)
    | _ => false)

/-- The gate PC of a new epoch where several gangs of a cycle execute a HATCH: the lowest bundle of theirs (08 R185). -/
def State.setGate (s : State) (blk : Nat) (gs : List Gang) : State :=
  match (gs.filter s.hatches).map (fun g => g.cur.pc.toNat) with
  | [] => s
  | p :: ps => s.modBlock blk (fun b => if b.gatePc.isNone then { b with gatePc := some (BitVec.ofNat 64 (listMin p ps)) } else b)

/-- The gangs of a cycle as their checks find them where none has acted yet; of one bundle an earlier gang takes entries of
the copy queue and of rings first. Only the gangs are kept of this: each is checked again in its turn. -/
def State.prospects (s : State) (done : List Gang) : List Gang → List Gang
  | [] => done
  | g :: gs =>
    let ahead := (done.filter (fun q => q.cur.pc == g.cur.pc)).foldl (fun m q => m ||| q.cur.eset) 0
    let (g, s) := s.settleGang ⟨{ g.cur with ahead := ahead }, g.slots⟩
    s.prospects (done ++ [g]) gs

/-- The lanes that an opportunity issued: they committed, faulted, or left RUN at their checks. -/
def Gang.issued (g : Gang) (c : Crew) : Lanes :=
  lanesWhere g.cur.lanes (fun l => g.cur.eset.getLsbD l || g.cur.faults.any (fun f => f.lane == l)
    || (c.thread l).st != .run || (c.thread l).hold.isSome)

/-- Ages after an opportunity: issued threads 0; other threads that were in RUN at it one more, to 63; the rest keep
theirs (04 R78). -/
def Crew.ageLanes (c : Crew) (before : CrewCore) (issued : Lanes) : Crew :=
  c.mapThreads (fun l t =>
    if issued.getLsbD l then { t with age := 0 }
    else if ((Map.find? before.threads l).getD {}).st == .run then { t with age := min 63 (t.age + 1) } else t)

/-- The bundles of an opportunity counted (17 R412). -/
def State.countIssue (s : State) (b : Block) (n : Nat) : State :=
  (s.count b.core b.part 0x01 0 n).count b.core b.part 0x02 0 (if 2 ≤ n then 1 else 0)

/-- Whether a checkpoint was taken in this cycle: nothing has been logged since it. -/
def Crew.atCheckpoint (c : Crew) : Bool := c.bundles == 0 && c.ckPc != 0 && c.log.isEmpty

/-- The Shelf body of a crew: left when no thread of it in RUN or a wait has its PC inside (08 R210). -/
def Crew.leftShelf (c : Crew) : Bool :=
  match c.shelf with
  | none => false
  | some (a, n) => c.core.threads.all (fun t => t.2.st == .exited || decide (t.2.pc.toNat < a) || decide (a + n ≤ t.2.pc.toNat))

/-- A Shelf loop left at the end of a cycle; the trace names the bundle that left it (08 R210; 17 R423). -/
def State.settleShelf (s : State) (blk crew pc : Nat) : State :=
  match s.crew? blk crew with
  | none => s
  | some (b, c) =>
    if c.leftShelf then
      let l := (lowLane (c.core.lanesThat (fun _ _ => true))).getD 0
      (s.modCrew blk crew (fun c => { c with shelf := none })).bankSnapshot b.core b.part 0
        (fun t k p => t.traceThread b crew c l pc k p)
    else s

/-- A crew's paths and deferred paths without the lanes that have left them (04 R77). -/
def Block.trimPaths (b : Block) (c : Crew) : Crew :=
  { c with paths := (c.paths.map (b.trim c)).filter (fun p => p != 0), deferred := (c.deferred.map (b.trim c)).filter (fun p => p != 0) }

/-- The end of a crew's cycle (04 R81): the notices that its own writes send it, masks, barriers, gates and kills, then the
paths that remain. A lane that entered a wait has left its path, though the wait may end with the cycle (04 R77). The
checkpoint of a SAFEPT stands at the end of its cycle (16 R402). -/
def State.endCycle (s : State) (blk crew : Nat) (issued : Lanes) (safe : Bool) : State :=
  let before := s.pre
  let replay := s.cur.replay
  let s := s.modCrew blk crew (fun c => { c with ord := c.ord + bit01 (issued != 0) })
  let s := s.deliverNotices blk crew
  let s := s.modBlock blk (fun b => b.modCrew crew b.trimPaths)
  let s := s.modBlock blk (fun b => (b.settleMasks crew before).modCrew crew (fun c => c.ageLanes before issued))
  let s := if replay then s else s.settleShelf blk crew s.cur.pc.toNat
  let s := s.settleBlock blk
  s.modBlock blk (fun b => b.modCrew crew (fun c =>
    let c := b.trimPaths c
    if safe && !s.cur.rolled then { c with checkpoint := c.core, log := [], bundles := 0, ord := 0 } else c))

/-- A cycle of a crew: the gangs of its paths fetch, are checked, and execute; sources are as they stood before it
(03 R43; 04 R77). -/
def cycle (ex : Meaning) (blk crew : Nat) (paths : List Lanes) (replay : Bool) (s : State) :
    Host.Outcome State Fault Refusal :=
  match s.crew? blk crew with
  | none => .next s
  | some (b, c) =>
    let s := { s with pre := c.core, cur := { blk := blk, crew := crew } }
    let (gs, s) := s.gangs blk crew replay paths
    let peers := if gs.length ≤ 1 then [] else s.prospects [] gs
    runGangs ex peers gs [] (s.setGate blk peers) (fun gs s =>
      let c := match s.crew? blk crew with | some (_, c) => c | none => c
      let issued := gs.foldl (fun m g => m ||| g.issued c) 0
      .next ((s.countIssue b (gs.filter (fun g => g.issued c != 0)).length).endCycle blk crew issued
        (gs.any (fun g => g.cur.eset != 0 && g.slots.any isSafept))))

/-! ### Issue opportunities (04 R75; 16 R402) -/

/-- The lanes of a logged issue put back at its bundle. -/
def Crew.forceLanes (c : Crew) (e : LogEntry) : Crew :=
  let m := BitVec.ofNat 64 e.value
  { c with core := c.core.mapLanes m (fun _ t => { t with st := .run, pc := BitVec.ofNat 64 e.addr, hold := none }) }

/-- Logged inputs that no instruction takes, of a return from the gate: a register, or the PC, of a lane (08 R191;
16 R402). -/
def Crew.scatterIn (c : Crew) (e : LogEntry) : Crew :=
  (c.modThread e.lane (fun t =>
    if e.addr = 257 then { t with st := .run, pc := BitVec.ofNat 64 e.value }
    else { t with v := Map.set 0 t.v (e.addr - 1) (BitVec.ofNat 32 e.value) })).advance false

/-- The logged issues of an ordinal, from where a rerun stands: the bundles of one cycle (16 R398). -/
def Crew.cycleEntries (c : Crew) (ord : Nat) : List LogEntry :=
  match c.rerun with
  | none => []
  | some r => (c.log.drop r.pos).filter (fun e => e.kind == 2 && e.ord == ord)

/-- The next logged cycle of a rerun: its bundles issue together, as in the first run (16 R402). Before it, scattered inputs
are taken, and entries that the rerun did not come to count as differences; n bounds them. -/
def replayCycle (ex : Meaning) (blk crew : Nat) : Nat → State → Host.Outcome State Fault Refusal
  | 0, s => .next s
  | n + 1, s =>
    match s.crew? blk crew with
    | none => .next s
    | some (_, c) =>
      match c.nextEntry with
      | none => .next s
      | some e =>
        if e.kind = 2 then
          let es := c.cycleEntries e.ord
          cycle ex blk crew (es.map (fun e => BitVec.ofNat 64 e.value)) true (s.modCrew blk crew (fun c => es.foldl Crew.forceLanes c))
        else
          replayCycle ex blk crew n (s.modCrew blk crew (fun c =>
            if e.kind = 0 ∧ e.addr ≠ 0 then c.scatterIn e else c.advance true))

/-- The paths that an opportunity issues: those deferred before all others, or the paths of a regroup point where an aged
thread makes one; of them what does not conflict (04 R76, R80). -/
def State.choosePaths (s : State) (blk crew : Nat) : List Lanes × State :=
  match s.crew? blk crew with
  | none => ([], s)
  | some (b, c) =>
    let c := if c.deferred.isEmpty && b.hasAged c then b.regroup c true s.clk else c
    let ps := if c.deferred.isEmpty then c.paths else c.deferred
    let shares := fun (p : Lanes) =>
      match lowLane p with
      | none => (⟨[], [], [], []⟩ : Shares)
      | some l =>
        match s.fetch b (c.thread l).pc.toNat with
        | .words ws _ => (match decodeBundle b.env ws with | .ok is => sharesOf b.env is | .error _ => ⟨[], [], [], []⟩)
        | _ => ⟨[], [], [], []⟩
    let (go, later) := splitPaths shares ps ([], [])
    (go, s.modCrew blk crew (fun _ => { c with deferred := later }))

/-- One issue opportunity of a crew: a cycle of its rerun's log, or its paths (04 R75; 16 R402). -/
def issueCrew (ex : Meaning) (blk crew : Nat) (s : State) : Host.Outcome State Fault Refusal :=
  match s.crew? blk crew with
  | none => .next s
  | some (_, c) =>
    let s := s.modCrew blk crew (fun c => { c with lastChosen := s.clk + 1 })
    match c.nextEntry with
    | some _ => replayCycle ex blk crew (c.log.length + 1) s
    | none =>
      let (ps, s) := s.choosePaths blk crew
      cycle ex blk crew ps false s

/-! ### A Loft's bundle (08 R193 to R195, R200) -/

/-- The tile, latch and engine-state codes that a Loft slot reads or writes (08 R194). -/
def loftCodes (s : State) (env : DecodeEnv) (i : Instr) : List Nat :=
  let g := i.sig env
  let fs := g.fields.filterMap (fun p => match p.1 with
    | .tSrc | .tDst | .tUpd | .accDst | .tLatch | .latchDst => some p.2.toNat
    | .qMovA _ => if 56 ≤ p.2.toNat ∧ p.2.toNat < 64 then some p.2.toNat else none
    | _ => none)
  let accs := fun (d qa qb : Nat) => (List.range ((natBits qa 55 52 + 1) * (natBits qb 55 52 + 1))).map (fun k => d + k)
  match i with
  | .tgemm f => fs ++ accs f.d.toNat (s.qsrc f.a).toNat (s.qsrc f.b).toNat ++ (List.range 8).map (fun n => 56 + n)
  | .tresume f => fs ++ accs f.d.toNat (s.es 0).toNat (s.es 1).toNat ++ (List.range 8).map (fun n => 56 + n)
  | _ => fs

/-- The codes that an instruction in flight writes. -/
def Flight.codes (f : Flight) : List Nat :=
  f.writes.map (fun w => match w with | .tile c _ => c | .latch n _ => 40 + n | .es n _ => 56 + n)

/-- Whether a Loft context waits at a TFENCE that names the T engine, directly after a QSAFE, with a nest running
(09 R227). -/
def LoftCtx.atNestFence (x : LoftCtx) : Bool :=
  match x.wait with
  | .tfence e _ _ => e / 2 % 2 == 1 && x.bundles == 1 && x.ckPc != 0 && x.flights.any (fun f => f.nest.isSome)
  | _ => false

/-- Whether a Loft context stands at a stopping point: queued, just after a QSAFE, at a QWAIT, held, or at the TFENCE
that a nest may be stopped at (16 R389). -/
def LoftCtx.stopped (x : LoftCtx) (leaving : Nat) : Bool :=
  !x.holding || x.atNestFence || (x.bundles == 0 && x.ckPc != 0 && !x.flights.any (fun f => f.nest.isSome)) ||
    (leaving == 4 && x.rerun.isSome && x.bundles == 0) ||
    (match x.wait with | .flag _ _ _ _ => true | .page _ _ => true | _ => false)

/-- Whether a Loft context may issue: granted, waiting for nothing but its clock, and stopped by nothing. -/
def Block.loftReady (b : Block) : Bool :=
  match b.loft with
  | none => false
  | some x => x.holding && !b.ended && b.leaving != 3 && !((b.leaving == 1 || b.leaving == 4) && x.stopped b.leaving)
      && (!x.stop.stopped || x.stop.stepping) &&
      (match x.wait with | .none | .tfence _ _ _ => true | _ => false)

/-- A hit in a Loft bundle: a record, and with a debugger attached the context stops (17 R429). -/
def State.actLoftHits (s : State) : State :=
  match lowestHit s.cur.hits, s.loft? with
  | some h, some (b, x) =>
    let widest := listMax (s.cur.hits.map (fun h => h.scope))
    let s := s.trap (loftRecord s b x s.cur.pc.toNat 0x180 h.addr 7 (2 ^ h.slot) (s.cur.units.getD h.slot 0))
    if s.attachedAt b s.cur.pc.toNat then
      (s.modLoft s.cur.blk (fun x => { x with stop := { stopped := true } })).broadcast b widest
    else s
  | _, _ => s

/-- The issue of a Loft bundle noted in the context's log (16 R402); its clock runs on when the bundle has acted, since what
an instruction of clock c writes lands at c plus its beats (08 R194, R195). -/
def State.logLoft (s : State) : State :=
  s.modLoft s.cur.blk (fun x =>
    let x := if s.cur.replay then x.advance false else x.append ⟨2, 0, 0, 0, x.bundles, s.cur.pc.toNat, 1⟩
    { x with bundles := x.bundles + 1, regs := { x.regs with pc := s.cur.npc }, refused := none, waitFrom := none,
             wait := (match x.wait with | .flag _ _ _ _ => .none | w => w),
             stop := if x.stop.due.isSome then { x.stop with skid := min 65535 (x.stop.skid + 1) } else x.stop })

/-- The bundle of a Loft context executes after its checks. -/
def runLoft (ex : Meaning) (slots : List Instr) (s : State) : Host.Outcome State Fault Refusal :=
  let s := (indexed slots).foldl (fun s i => { s with cur := { s.cur with slot := i.1 } }.loftSettle i.2) s
  let s := { s with cur := { s.cur with checked := true } }
  if s.cur.eset = 0 then .next s
  else
    match s.loft? with
    | none => .next s
    | some (b, _) =>
      andThen (runSlots ex slots 0 (s.logLoft.count b.core b.part 0x03 0 1)) (fun s =>
        .next ((s.modLoft s.cur.blk (fun x => { x with clk := x.clk + 1 })).actLoftHits))

/-- The checkpoint of a QSAFE stands after its whole bundle. -/
def State.endLoft (s : State) (safe : Bool) : State :=
  let s := if safe && s.cur.eset != 0 && !s.cur.rolled then s.loftCheckpoint else s
  s.settleBlock s.cur.blk

/-- Whether a slot is a QSAFE. -/
def isQsafe : Instr → Bool
  | .qsafe _ => true
  | _ => false

/-- A recoverable fetch fault holds the context; another traps (03 R65; 13 R321). -/
def State.loftFetchFault (s : State) (b : Block) (x : LoftCtx) (cause va ipa kind : Nat) : State :=
  let key := fetchKey s.cur.pc.toNat
  match (if x.refused = some key then .fault 0x086 va kind else s.transVerdict b.vf cause va ipa kind key) with
  | .fault c a k => s.loftTrapAt s.cur.blk s.cur.pc.toNat c a k 0 4
  | v => s.loftDispose b v

/-- One issue opportunity of a Loft context: a TFENCE runs out; the scoreboard holds its bundle until what it names is
ready; or the bundle issues (08 R193 to R195, R200). -/
def issueLoft (ex : Meaning) (blk : Nat) (s : State) : Host.Outcome State Fault Refusal :=
  match s.block? blk with
  | none => .next s
  | some b =>
    match b.loft with
    | none => .next s
    | some x =>
      match x.wait with
      | .tfence _ _ t => .next (s.modLoft blk (fun x => { x with wait := .none, clk := max x.clk t }))
      | _ =>
        let forced := match x.nextEntry with | some e => e.kind == 2 | none => false
        let pc := match x.nextEntry with | some e => if forced then BitVec.ofNat 64 e.addr else x.regs.pc | none => x.regs.pc
        let s := { s with cur := { loft := true, blk := blk, lanes := 1, eset := 1, pc := pc, npc := pc, replay := forced },
                          preL := x.regs }
        match s.fetch b pc.toNat with
        | .wait => .next s
        | .fail cause va ipa kind => .next ((s.loftFetchFault b x cause va ipa kind).endLoft false)
        | .words ws us =>
          let s := s.useFetch b us
          let env := b.loftEnv s x
          match decodeBundle env ws with
          | .error (r, mask) =>
            .next ((s.loftTrapAt blk pc.toNat r.cause 0 15 mask (slotUnit (ws.getD (lowSlot mask) 0))).endLoft false)
          | .ok is =>
            let codes := is.flatMap (loftCodes s env)
            let at_ := listMax ((x.flights.filter (fun f => overlap codes f.codes)).map (fun f => f.ready))
            if x.clk < at_ then
              .next ((s.modLoft blk (fun x => { x with clk := at_ })).count b.core b.part 0x0D 0 (at_ - x.clk))
            else
              let s := { s with cur := { s.cur with npc := pcMask (pc.toNat + 8 * ws.length), units := ws.map slotUnit } }
              andThen (runLoft ex is s) (fun s => .next (s.endLoft (is.any isQsafe)))

/-! ### Whom a step works for (04 R75; log 5, DESIGN CHOICE) -/

/-- Whether a crew has something to issue. -/
def Block.crewReady (b : Block) (c : Crew) : Bool :=
  !b.ended && !b.gone && b.leaving != 3 && !(b.leaving == 4 && c.rerun.isSome && c.bundles == 0)
    && (!c.stop.stopped || c.stop.stepping) &&
    (c.nextEntry.isSome || ((c.paths ++ c.deferred).any (fun p => p &&& b.runnable c != 0)))

/-- Someone who may issue: block, crew (64 for the Loft context), the core's columns it takes, when it was chosen last. -/
structure Issuer where
  blk : Nat
  crew : Nat
  core : Nat
  cols : List Nat
  last : Nat
deriving DecidableEq, Repr

/-- The columns of a crew. -/
def Block.colsOf (b : Block) (c : Crew) : List Nat := if b.width = 64 then [c.column, c.column + 1] else [c.column]

/-- Everyone who may issue; those whom a debugger steps alone where there is one. -/
def State.issuers (s : State) : List Issuer :=
  s.blocks.flatMap (fun e =>
    (e.2.crews.filter (fun w => e.2.crewReady w.2)).map (fun w => ⟨e.1, w.1, e.2.core, e.2.colsOf w.2, w.2.lastChosen⟩)
      ++ (if e.2.loftReady then [⟨e.1, 64, e.2.core, [4 + e.2.part], (e.2.loft.map (fun x => x.lastChosen)).getD 0⟩] else []))

/-- The crews that their columns' schedulers take: the least recently chosen of each column (04 R75). -/
def candidates (l : List Issuer) : List Issuer :=
  l.filter (fun i => l.all (fun j => i == j || i.core != j.core || !overlap i.cols j.cols ||
    decide (i.last < j.last) || (i.last == j.last && (decide (i.blk < j.blk) || (i.blk == j.blk && decide (i.crew < j.crew))))))

/-- The issuer of a step: one of the candidates, freely chosen; the least recently chosen where no choice is listed. -/
def State.issuer (s : State) : Option Issuer × State :=
  let l := candidates s.issuers
  match l with
  | [] => (none, s)
  | i :: is =>
    match s.picks with
    | [] => (some (is.foldl (fun a b => if b.last < a.last then b else a) i), s)
    | _ =>
      let (n, s) := s.pick l.length
      (some (l.getD n i), s)

/-- Whether a block has a crew or Loft context that a debugger has stopped (17 R429). -/
def Block.hasStop (b : Block) : Bool :=
  b.crews.any (fun c => c.2.stop.stopped) || (match b.loft with | some x => x.stop.stopped | none => false)

/-- A wait that gains no time while n ns pass: what its limit counts begins so much later. -/
def Thread.defer (t : Thread) (n : Nat) : Thread :=
  { t with since := if t.since = 0 then 0 else t.since + n, ringWait := t.ringWait.map (fun x => x + n) }

/-- A block whose waits gain no time while n ns pass. -/
def Block.defer (b : Block) (n : Nat) : Block :=
  { b with crews := Map.mapVals (fun _ c => c.mapThreads (fun _ t => t.defer n)) b.crews,
           loft := b.loft.map (fun x => { x with waitFrom := x.waitFrom.map (fun y => y + n) }) }

/-- The waits of launches with a stopped crew accumulate no time toward their limit (17 R429). -/
def State.deferWaits (s : State) (n : Nat) : State :=
  match (s.blocks.filter (fun e => e.2.hasStop)).map (fun e => e.2.launch) with
  | [] => s
  | ls => { s with blocks := Map.mapVals (fun _ b => if b.launch ∈ ls then b.defer n else b) s.blocks }

/-- A clock passes, and CYCLES counts in every partition; the timestamp advances by the nanoseconds that have passed at the
clock's rate (00 R5; 17 R412; log 14, DESIGN CHOICE). -/
def State.tick (s : State) : State :=
  let p := s.phase + 1000
  let s := s.deferWaits (p / s.mhz)
  let s := s.cores.foldl (fun s e => (List.range (modeParts (s.mode e.1))).foldl (fun s p => s.count e.1 p 0x00 0 1) s) s
  { s with clk := s.clk + 1, gts := s.gts + p / s.mhz, phase := p % s.mhz }

/-- The lowest lane and the PC of path 1 of a crew's next opportunity: those of the next logged issue in a rerun (16 R402;
17 R431, as the run of 20 R451 shows it). -/
def State.stepPoint (s : State) (blk crew : Nat) : Nat × Nat :=
  match s.crew? blk crew with
  | none => (0, 0)
  | some (_, c) =>
    match (c.log.drop ((c.rerun.map (fun r => r.pos)).getD c.log.length)).find? (fun e => e.kind == 2) with
    | some e => ((lowLane (BitVec.ofNat 64 e.value)).getD 0, e.addr)
    | none =>
      let l := (lowLane ((s.choosePaths blk crew).1.headD c.core.live)).getD 0
      (l, (c.thread l).pc.toNat)

/-- A debugger's step ends with the crew stopped again and a record of the bundle that path 1 issued, unless one of its
bundles hit a watchpoint (17 R431). -/
def State.endStep (s : State) (blk crew : Nat) (at_ : Nat × Nat) : State :=
  match s.crew? blk crew with
  | none => s
  | some (b, c) =>
    let hit := !s.cur.hits.isEmpty || !c.stop.stepping
    let s := s.modCrew blk crew (fun c => { c with stop := { stopped := true } })
    if hit then s else s.trap (threadRecord s b crew c at_.1 at_.2 0x183 0 15 0 3)

/-- A step with nothing due: one issue opportunity, or an idle clock. -/
def issue (ex : Meaning) (s : State) : Host.Outcome State Fault Refusal :=
  match s.issuer with
  | (none, s) => .next s.tick
  | (some i, s) =>
    if i.crew = 64 then
      andThen (issueLoft ex i.blk (s.modLoft i.blk (fun x => { x with lastChosen := s.clk + 1 }))) (fun s => .next s.tick)
    else
      let stepping := match s.crew? i.blk i.crew with | some (_, c) => c.stop.stepping | none => false
      let at_ := if stepping then s.stepPoint i.blk i.crew else (0, 0)
      andThen (issueCrew ex i.blk i.crew s) (fun s =>
        .next (if stepping then (s.endStep i.blk i.crew at_).tick else s.tick))

end Sys2Proof.Machine
end

