-- ==== Sys2Proof/Machine/EventsCore.lean ====
section
/-! DEFINITION. What happens in a core and its engines of itself: fences complete, requests reach their homes, copies run,
Lofts are granted and left, records reach their rings, sleeps and waits end (04 R76, R94, R95; 07 R176; 08 R186, R191,
R194; 11 R257, R259, R272, R273; 12 R293; 16 R377). An event that is not enabled changes nothing. -/

namespace Sys2Proof.Machine

/-! ### Fences, notices, homes -/

/-- A fence's conditions are met: no request of its core posted before it is still to be performed, and no earlier fence
covers its lanes (12 R292, R293). -/
def State.fenceReady (s : State) (b : Block) (earlier : List PFence) (f : PFence) : Bool :=
  (s.core b.core).posted.all (fun p => decide (f.after < p.id) || (match p.fence with | some i => decide (f.id ≤ i) | none => false))
    && earlier.all (fun g => g.lanes &&& f.lanes == 0)

/-- FENCE_COMPLETE (12 R293). -/
def execFenceComplete (blk crew n : Nat) (s : State) : Host.Outcome State Fault Refusal :=
  .next (match s.crew? blk crew with
    | none => s
    | some (b, c) =>
      match c.fences[n]? with
      | none => s
      | some f =>
        if s.fenceReady b (c.fences.take n) f then s.completeFence blk crew f else s)

/-- CONFLICT_NOTICE (12 R293). -/
def execConflictNotice (core line : Nat) (s : State) : Host.Outcome State Fault Refusal := .next (s.conflictNotice core line)

/-- HOME_REQUEST (11 R257; 12 R459). -/
def execHomeRequest (core k : Nat) (s : State) : Host.Outcome State Fault Refusal := .next (s.homeRequest core k)

/-- L1_INVALIDATION: the line leaves the L1, in every partition, where its home has sent an invalidation (11 R259 item 3;
17 R405). -/
def execL1Invalidation (core line : Nat) (s : State) : Host.Outcome State Fault Refusal :=
  let hit := fun (e : Nat × L1Line) => e.2.doomed && e.1 % 2 ^ 52 == line
  .next (if (s.core core).l1.any hit then s.modCore core (fun c => { c with l1 := c.l1.filter (fun e => !hit e) }) else s)

/-! ### Copies (11 R272 to R274) -/

/-- Whether the crew or context that issued a copy is in a rerun. -/
def CopyReq.inRerun (c : CopyReq) (b : Block) : Bool :=
  if c.agent.crew = 64 then b.loft.any (fun x => x.rerun.isSome)
  else ((Map.find? b.crews c.agent.crew).getD {}).rerun.isSome

/-- A record of a copy's fault: asynchronous, naming the CP's thread and bundle, or the gate frame of a TCP's context
(11 R273; 16 R375, R376). -/
def copyRecord (s : State) (b : Block) (c : CopyReq) (cause addr kind : Nat) : TrapInfo :=
  let loft := c.agent.crew == 64
  let p := b.place c.thread
  let w := (Map.find? b.crews p.1).getD {}
  { gts := s.gts, launch := s.launchFor b (if loft then c.lpc.toNat else c.pc.toNat), block := b.index, thread := c.thread,
    crew := w.place p.2, lane := p.2 % 32, pc := s.pcFor b c.pc.toNat,
    hpc := if loft then s.pcFor b c.pc.toNat else 0, lpc := if loft then s.pcFor b c.lpc.toNat else 0, addr := addr,
    cause := cause, slots := 2 ^ c.slot, unit := if loft then 5 else 3,
    core := b.core, vf := b.vf, kind := kind, inLoft := loft, spliced := b.spliced, retried := c.inRerun b, async := true,
    src := b.core * 64 + 52,
    lost := if cause = 0x08D then
        (match translate s b.tctx (addr % 2 ^ 64) kind with | .fail _ _ ipa _ => some ipa | _ => none)
      else none }

/-- A page side of a copy: where its bytes are, or what stops it. -/
inductive CopySide where
  | scratch (off : Nat)
  | memory (pa : Nat) (e : TlbEntry) (ups : List (Nat × Nat))
  | stop (v : Verdict)

/-- One side of a part of a copy of a block, within a page: translation, frozen frames, tags by granule; and a source must be
sound (11 R273; 16 R401). -/
def State.copySide (s : State) (blk : Nat) (b : Block) (scratch : Bool) (a n kind : Nat) : CopySide :=
  if scratch then (if kind == 4 && s.spoiltScratch blk a n then .stop (.fault 0x095 a kind) else .scratch a)
  else
    match translate s b.tctx (a % 2 ^ 64) kind with
    | .wait => .stop .stall
    | .fail c v i k =>
      .stop (if c = 0x080 ∨ c = 0x081 then s.transVerdict b.vf c v i (if k = 6 then 6 else kind) 0 else .fault c (a % 2 ^ 64) kind)
    | .ok pa e ups =>
      if s.isFrozen pa then .stop .stall
      else
        match (if e.tg then (List.range ((pa % 32 + n + 31) / 32)).find? (fun k => natBits a 63 60 != (s.tag (pa + 32 * k)).toNat) else none) with
        | some k => .stop (.fault 0x08A (max a (a / 32 * 32 + 32 * k)) kind)
        | none => if kind == 4 && s.consumes b.core pa n none then .stop (.fault 0x095 (a % 2 ^ 64) kind) else .memory pa e ups

/-- The addresses at which a side of a copy goes on, o bytes further. -/
def CopyReq.srcAt (c : CopyReq) (o : Nat) : Nat := (c.src + o) % 2 ^ 64
def CopyReq.dstAt (c : CopyReq) (o : Nat) : Nat := (c.dst + o) % 2 ^ 64

/-- What an engine moves before a copy may stop: the payload to its next 4 KiB boundary (11 R274; 16 R389). -/
def CopyReq.piece (c : CopyReq) : Nat := min c.len (4096 - c.done % 4096)

/-- The parts of n bytes of a copy that lie within one page on either side: place in the piece, and length. -/
def CopyReq.parts (c : CopyReq) : Nat → Nat → Nat → List (Nat × Nat)
  | 0, _, _ => []
  | fuel + 1, o, n =>
    if n = 0 then []
    else
      let room := fun (sp : Bool) (a : Nat) => if sp then n else 4096 - a % 4096
      let k := min n (min (room c.ssp (c.srcAt o)) (room c.dsp (c.dstAt o)))
      (o, k) :: c.parts fuel (o + k) (n - k)

/-- A part of a copy whose sides have been checked. -/
structure CopyPart where
  off : Nat
  len : Nat
  src : CopySide
  dst : CopySide

/-- The parts of a copy's next piece with their sides, or what stops the first that is stopped: the page on its source side
comes before that on its destination side (11 R273). -/
def State.copyParts (s : State) (b : Block) (c : CopyReq) : List (Nat × Nat) → Sum Verdict (List CopyPart)
  | [] => .inr []
  | (o, n) :: ps =>
    match s.copySide c.agent.blk b c.ssp (c.srcAt o) n 4, s.copySide c.agent.blk b c.dsp (c.dstAt o) n 5 with
    | .stop v, _ => .inl v
    | _, .stop v => .inl v
    | x, y =>
      match s.copyParts b c ps with
      | .inl v => .inl v
      | .inr r => .inr (⟨o, n, x, y⟩ :: r)

/-- Whether a payload byte of a copy is boundedly undefined at its destination: it, or the byte it is read from, lies where
source and destination overlap, or its word is one that a store of the issuer has struck (08 R204; 11 R272; log 8, DESIGN
CHOICE). -/
def CopyReq.blurred (c : CopyReq) (o : Nat) : Bool :=
  let within := fun (a lo : Nat) => decide (lo ≤ a) && decide (a < lo + c.whole)
  (c.ssp == c.dsp && (within (c.dstBase + o) c.srcBase || within (c.srcBase + o) c.dstBase)) || decide (o / 4 * 4 ∈ c.raced)

/-- The bytes that a part of a copy puts at its destination. -/
def State.copyRead (s : State) (b : Block) (c : CopyReq) (p : CopyPart) : List Byte × State :=
  let bs : List Byte := match p.src with
    | .scratch off => Map.bytes 0 b.scratch off p.len
    | .memory pa _ _ => s.bytes pa p.len
    | .stop _ => []
  let (k, s) := s.takeFresh p.len
  ((indexed bs).map (fun x => if c.blurred (c.done + p.off + x.1) then Config.freeByte (k + x.1) else x.2), s)

/-- A copy as the agent of its writes: its issuer's thread, and no lane of a crew. -/
def CopyReq.writer (c : CopyReq) (port : Nat × Nat) : Writer := ⟨some ⟨c.agent.blk, 65, c.thread⟩, some port⟩

/-- A copy's part written: to the block's scratchpad, or line by line to memory, leaving no L1 with an older line
(11 R259 item 5). -/
def State.copyWrite (s : State) (c : CopyReq) (core : Nat) (bs : List Byte) (side : CopySide) : State :=
  match side with
  | .scratch off => s.scratchWrite c.agent.blk off bs
  | .memory pa _ _ =>
    (lines pa bs.length).foldl (fun s p =>
      (s.performBytes p.1 ((bs.drop (p.1 - pa)).take p.2) (c.writer (core, s.partOf c.agent.blk))).l1DropAll (s.memKey p.1) p.2) s
  | .stop _ => s

/-- The translation effects of a copy's side of n bytes; each of its lines is a request at its home (11 R275). -/
def State.copyUse (s : State) (b : Block) (side : CopySide) (n : Nat) : State :=
  match side with
  | .memory pa e ups => (lines pa n).foldl (fun s p => s.countHome b.vf p.1) (s.useTrans b.tctx e ups)
  | _ => s

/-- The widest scope of the watchpoints that n bytes of a copy from a place of its rest hit, their address and kind
(17 R428). -/
def State.copyHits (s : State) (b : Block) (c : CopyReq) (o n : Nat) : List (Nat × Nat × Nat) :=
  ((s.watchHits b c.thread (if c.ssp then 1 else 0) b.index (c.srcAt o) n 0).map (fun w => (w, c.srcAt o, 4)))
    ++ ((s.watchHits b c.thread (if c.dsp then 1 else 0) b.index (c.dstAt o) n 1).map (fun w => (w, c.dstAt o, 5)))

/-- A copy's hits: a record, and with a debugger attached its issuer stops and a broadcast leaves (17 R429). -/
def State.actCopyHits (s : State) (b : Block) (c : CopyReq) (hs : List (Nat × Nat × Nat)) : State :=
  match hs with
  | [] => s
  | h :: _ =>
    let s := s.trap (copyRecord s b c 0x180 h.2.1 h.2.2)
    if s.attachedAt b (if c.agent.crew = 64 then c.lpc.toNat else c.pc.toNat) then
      let s := if c.agent.crew = 64 then s.modLoft c.agent.blk (fun x => { x with stop := { stopped := true } })
        else s.modCrew c.agent.blk c.agent.crew (fun w => { w with stop := { stopped := true } })
      s.broadcast b (listMax (hs.map (fun h => h.1)))
    else s

/-- One checked part of a copy moved, after the core's earlier requests to its bytes (11 R272). A contiguous run of words
has no two in one bank within a beat, so a copy adds no pass to the bank-conflict matrix (07 R171; 08 R206). -/
def State.movePart (s : State) (b : Block) (c : CopyReq) (p : CopyPart) : State :=
  let s := (s.copyUse b p.src p.len).copyUse b p.dst p.len
  let touch := fun (side : CopySide) (q : Posted) => match side with | .memory pa _ _ => q.touches pa p.len | _ => false
  let s := s.drain b.core (fun q => touch p.src q || touch p.dst q)
  let s := if c.ssp then s.drainScratch b.core c.agent.blk (c.srcAt p.off) p.len else s
  let s := if c.dsp then s.drainScratch b.core c.agent.blk (c.dstAt p.off) p.len else s
  let b := (s.block? c.agent.blk).getD b
  let hs := s.copyHits b c p.off p.len
  let (bs, s) := s.copyRead b c p
  (s.copyWrite c b.core bs p.dst).actCopyHits b c hs

/-- A copy that has moved n bytes more. -/
def CopyReq.moved (c : CopyReq) (n : Nat) : CopyReq :=
  { c with src := c.srcAt n, dst := c.dstAt n, len := c.len - n, done := c.done + n }

/-- n bytes that a die's engine has moved counted, in units of 64, and the cycles they waited (17 R419; log 40, DESIGN
CHOICE). -/
def State.countBytes (s : State) (b : Block) (n : Nat) : State :=
  (s.countShared b.vf 3 (b.core / 64) 1 ((n + 63) / 64)).countShared b.vf 3 (b.core / 64) 2 (Config.freeTally 7 s.clk b.core)

/-- A copy run from where it stands, piece by piece; each piece is checked whole before any of it moves, so that the copy
always stands at a 4 KiB boundary of its payload (11 R273, R274): what stopped it, if anything, and the request as it then
stands. -/
def copyPieces : Nat → CopyReq → State → Verdict × CopyReq × State
  | 0, c, s => (.ok, c, s)
  | fuel + 1, c, s =>
    if c.len = 0 then (.ok, c, s)
    else
      match s.block? c.agent.blk with
      | none => (.ok, c, s)
      | some b =>
        match s.copyParts b c (c.parts (c.piece + 1) 0 c.piece) with
        | .inl v => (v, c, s)
        | .inr ps => copyPieces fuel (c.moved c.piece) ((ps.foldl (fun s p => s.movePart b c p) s).countBytes b c.piece)

/-- A request put back into its core's queue. -/
def State.putCopy (s : State) (core : Nat) (c : CopyReq) : State :=
  s.modCore core (fun x => { x with copies := x.copies ++ [c] })

/-- A copy ends with a fault: a record under its issuer's name, and its block is killed (11 R273). -/
def State.copyFault (s : State) (c : CopyReq) (cause addr kind : Nat) : State :=
  match s.block? c.agent.blk with
  | none => s
  | some b => ((s.countShared b.vf 3 (b.core / 64) 0 1).killBlock c.agent.blk (copyRecord s b c cause addr kind)).settleKills (s.blocks.length + 1)

/-- The address and kind of the translation that a refused copy waited for: the first of its next piece that fails. -/
def State.refusedAt (s : State) (b : Block) (c : CopyReq) : Nat × Nat :=
  match (c.parts (c.piece + 1) 0 c.piece).findSome? (fun p =>
      match s.copySide c.agent.blk b c.ssp (c.srcAt p.1) p.2 4, s.copySide c.agent.blk b c.dsp (c.dstAt p.1) p.2 5 with
      | .stop _, _ => some (c.srcAt p.1, 4)
      | _, .stop _ => some (c.dstAt p.1, 5)
      | _, _ => none) with
  | some r => r
  | none => (c.srcAt 0, 4)

/-- A copy whose payload is copied is served (17 R419): it releases, and writes its completion word; it stands among the ended ones until its issuer
has read that word by an acquire (11 R272). -/
def State.endCopy (s : State) (core : Nat) (b : Block) (c : CopyReq) : State :=
  let s := if c.rel then s.drain core (fun _ => true) else s
  let s := (s.countShared b.vf 3 (core / 64) 0 1).modCore core (fun x => { x with ended := x.ended ++ [c] })
  if c.fw then
    (s.drainScratch core c.agent.blk c.flag 4).scratchWrite c.agent.blk c.flag (toBytesLE 4 c.value.toNat)
      |>.actCopyHits b c ((s.watchHits b c.thread 1 b.index c.flag 4 1).map (fun w => (w, c.flag, 5)))
  else s

/-- A request taken from its core's queue runs: acquire, payload, release, completion word; a recoverable fault leaves the
rest for later. The acquire is the core's where a side lies in its scratchpad (11 R272, R273; 13 R321). -/
def State.runTaken (s : State) (core : Nat) (b : Block) (c : CopyReq) : State :=
  if c.refused then
    let (a, k) := s.refusedAt b c
    s.copyFault c 0x086 a k
  else
    let s := if (c.acq && !c.acqDone) || c.rel then s.drain core (fun _ => true) else s
    let s := if c.acq && !c.acqDone && (c.ssp || c.dsp) then s.l1Acquire core c.scope else s
    match copyPieces (c.len + 1) { c with acqDone := c.acq } s with
    | (.ok, c, s) => s.endCopy core b c
    | (.fault cause a kind, c, s) => s.copyFault c cause a kind
    | (.hold cause va ipa kind _, c, s) =>
      let (h, s) := s.pageRequest b.vf cause va ipa kind b.lid.toNat
      s.putCopy core { c with hold := some h }
    | (_, c, s) => s.putCopy core { c with due := s.gts + copyDelay }

/-- The request at a place of a core's queue runs; one that a fence or a page request holds stays. -/
def State.runCopy (s : State) (core k : Nat) : State :=
  match (s.core core).copies[k]? with
  | none => s
  | some c =>
    if c.fence.isSome || c.hold.isSome then s
    else
      let s := s.modCore core (fun x => { x with copies := x.copies.eraseIdx k })
      match s.block? c.agent.blk with
      | none => s
      | some b => s.runTaken core b c

/-- The queued copies of a die: core, and place in its queue. -/
def State.dieCopies (s : State) (die : Nat) : List (Nat × Nat) :=
  (s.cores.filter (fun e => decide (e.1 / 64 = die))).flatMap (fun e => (List.range e.2.copies.length).map (fun k => (e.1, k)))

/-- COPY_RUN (11 R272). -/
def execCopyRun (die k : Nat) (s : State) : Host.Outcome State Fault Refusal :=
  .next (match (s.dieCopies die)[k]? with
    | none => s
    | some (core, i) => s.runCopy core i)

/-! ### The Loft (08 R186, R191, R194) -/

/-- Whether a partition's Loft is held. -/
def State.loftHeld (s : State) (core part : Nat) : Bool :=
  s.blocks.any (fun e => e.2.core == core && e.2.part == part && (match e.2.loft with | some x => x.holding | none => false))

/-- A context granted its Loft starts with a checkpoint of its own. -/
def LoftCtx.granted (x : LoftCtx) (b : Block) : LoftCtx :=
  { x with holding := true, checkpoint := x.regs, ckTiles := b.tiles, ckClk := x.clk, ckBusy := x.busy, ckFlights := x.flights,
           ckSrn := b.loftSrn, ckPc := 0, log := if x.rerun.isSome then x.log else [], bundles := 0 }

/-- LOFT_GRANT: the head of a free Loft's queue is granted it, once every access made before its gate is performed
(08 R186, R187). -/
def execLoftGrant (core loft : Nat) (s : State) : Host.Outcome State Fault Refusal :=
  .next (match Map.get [] (s.core core).loftq loft with
    | [] => s
    | h :: _ =>
      if s.loftHeld core loft then s
      else
        ((s.drain core (fun _ => true)).modLoftq core loft List.tail).modBlock h (fun b =>
          { b with loft := b.loft.map (fun x => x.granted b) }))

/-- Whether an instruction in flight may land: it is the next to be ready, and its time has come or its context waits for
its engines (08 R191, R194). -/
def LoftCtx.lands (x : LoftCtx) (f : Flight) : Bool :=
  x.flights.all (fun g => decide (f.ready ≤ g.ready)) && (decide (f.ready ≤ x.clk) || x.wait != .none)

/-- ENGINE_RESULT_WRITE (08 R194). -/
def execEngineResultWrite (blk k : Nat) (s : State) : Host.Outcome State Fault Refusal :=
  .next (match s.block? blk with
    | none => s
    | some b =>
      match b.loft with
      | none => s
      | some x =>
        match x.flights[k]? with
        | none => s
        | some f =>
          if x.lands f then
            f.writes.foldl (fun s w => s.engWrite blk w)
              (s.modLoft blk (fun x => { x with flights := x.flights.eraseIdx k, clk := if x.wait = .unhatch then max x.clk f.ready else x.clk }))
          else s)

/-- A register's bits with one sub-element replaced; an element alone in its register fills it with zeros (08 R191). -/
def scatterBits (h : Hatch) (old : Word) (sub bits : Nat) : Word :=
  if h.p = 1 then BitVec.ofNat 32 bits
  else
    let o := old.toNat
    BitVec.ofNat 32 (o - natBits o (h.w * sub + h.w - 1) (h.w * sub) * 2 ^ (h.w * sub) + bits * 2 ^ (h.w * sub))

/-- One element of a hatch tile scattered to its thread (08 R191). -/
def Block.scatterElem (b : Block) (h : Hatch) (i j bits : Nat) : Block :=
  match h.place i j with
  | none => b
  | some (t, r, sub) =>
    let p := b.place t
    b.modCrew p.1 (fun c => c.modThread p.2 (fun th =>
      if th.st == .exited then th else { th with v := Map.set 0 th.v r (scatterBits h (Map.get 0 th.v r) sub bits) }))

/-- A written hatch tile scattered to the registers (08 R191). -/
def Block.scatter (b : Block) (h : Hatch) (t : Tile) : Block :=
  (indexed (t.elems h.w)).foldl (fun b row => (indexed row.2).foldl (fun b e => b.scatterElem h row.1 e.1 e.2) b) b

/-- The registers of a return from the gate logged as inputs of each crew, with the PC where its threads go on
(16 R402). -/
def Crew.logReturn (c : Crew) (regs : List Nat) (pc : DWord) : Crew :=
  c.core.threads.foldl (fun c e =>
    if e.2.st == .gate then
      (regs.foldl (fun (c : Crew) r => c.append ⟨0, e.1, 0, 4, c.ord, r + 1, (Map.get 0 e.2.v r).toNat⟩) c).append
        ⟨0, e.1, 0, 8, c.ord, 257, pc.toNat⟩
    else c) c

/-- Whether a crew or context of a block is repeating or classifying a detected error: its gate stays closed. -/
def Block.rerunning (b : Block) : Bool := b.crews.any (fun e => e.2.rerun.isSome) || (b.loft.any (fun x => x.rerun.isSome))

/-- A block leaves its gate: written tiles scatter, the threads go on after the UNHATCH, a new epoch begins (08 R191). -/
def Block.leaveGate (b : Block) (x : LoftCtx) : Block :=
  let b2 : Block := x.regs.shadow.foldl (fun b e => b.scatter (hatchOf x.frame.descs e.1) e.2) b
  let regs := dedup (x.regs.shadow.flatMap (fun e =>
    let h := hatchOf x.frame.descs e.1
    (List.range h.count).map (fun i => h.first + i)))
  let b3 : Block := { b2 with crews := Map.mapVals (fun _ c => c.logReturn regs x.regs.pc) b2.crews }
  { b3.mapThreads (fun _ t => if t.st == .gate then { t with st := .run, pc := x.regs.pc, since := 0 } else t) with
    loft := none, gatePc := none, spoiltTiles := b.spoiltTiles.filter (fun c => decide (c < 128)) }

/-- UNHATCH_COMPLETE; a Shelf loop whose threads have all left it with the return ends in this cycle (08 R191, R210). A
poisoned tile that would scatter kills the block instead (16 R401). -/
def execUnhatchComplete (blk : Nat) (s : State) : Host.Outcome State Fault Refusal :=
  .next (match s.block? blk with
    | none => s
    | some b =>
      match b.loft with
      | none => s
      | some x =>
        if x.wait = .unhatch ∧ x.flights = [] ∧ !b.rerunning then
          if x.regs.shadow.any (fun e => decide (e.1 + 128 ∈ b.spoiltTiles)) then
            (s.killBlock blk (loftRecord s b x x.regs.pc.toNat 0x095 0 15 0 4)).settleKills (s.blocks.length + 1)
          else
          let s := (s.drain b.core (fun _ => true)).modBlock blk (fun b => b.leaveGate x)
          (sortBy (fun p q => decide (srcOf b.core p.2 0 < srcOf b.core q.2 0)) b.crews).foldl
            (fun s c => s.settleShelf blk c.1 x.regs.pc.toNat) s
        else s)

/-! ### Records reach their rings (16 R377; 17 R424) -/

/-- The base, head, tail and drop registers of a record's ring, and its record size in bytes. -/
def ringRegs (ring : Nat) : RegName × RegName × RegName × RegName × Nat :=
  match ring with
  | 0 => (.trbase, .trhead, .trtail, .trdrop, 64)
  | 1 => (.errbase, .errhead, .errtail, .errdrop, 64)
  | _ => (.trcbase, .trchead, .trctail, .trcdrop, 128)

/-- Records of a ring (16 R377). -/
def ringRecords (base : Nat) : Nat := 64 * 2 ^ min (natBits base 3 0) 10

/-- LOST cleared in the frame that an IPA of a VF leads to (13 R328). -/
def State.clearLost (s : State) (vf ipa : Nat) : State :=
  let root := (s.reg .s2root vf).toNat
  match s2Levels s ipa 4 (natBits root 51 12 * 4096) with
  | .leaf e _ lvl _ =>
    let f := leafOut e lvl ipa / 4096
    let o := s.owner f
    if ownLost o then s.setOwner f (mkOwner false (ownAsg o) (ownVf o)) else s
  | _ => s

/-- A record written to its ring, or dropped and counted where the ring is full or absent (16 R377; 18 R440). A copy's record
of a lost page clears LOST as it is written (13 R328). -/
def State.writeRecord (s : State) (r : Rec) : State :=
  let (rb, rh, rt, rd, size) := ringRegs r.ring
  let base := (s.reg rb r.fn).toNat
  let n := ringRecords base
  let tail := natBits (s.reg rt r.fn).toNat 15 0 % n
  if natBits base 51 12 = 0 ∨ (tail + 1) % n = natBits (s.reg rh r.fn).toNat 15 0 % n then s.bumpDrop rd r.fn
  else
    let s := match r.lost with | some ipa => s.clearLost r.fn ipa | none => s
    ((s.deviceWrite (natBits base 51 12 * 4096 + size * tail) (toBytesLE size r.bits.toNat)).setReg rt r.fn
      (BitVec.ofNat 64 ((tail + 1) % n))).signal r.fn (if r.ring = 0 then 1 else if r.ring = 1 then 3 else 2)

/-- How long after its time a record is written (16 R377). -/
def recordDelay : Nat := 2000

/-- TRAP_RECORD_WRITE: a record whose 2,000 ns have passed is written, the earliest of its ring first (16 R377). -/
def execTrapRecordWrite (k : Nat) (s : State) : Host.Outcome State Fault Refusal :=
  .next (match s.recs[k]? with
    | none => s
    | some r =>
      if r.gts + recordDelay ≤ s.gts ∧ !(s.recs.take k).any (fun q => q.ring == r.ring && q.fn == r.fn) then
        { s with recs := s.recs.eraseIdx k }.writeRecord r
      else s)

/-! ### Sleeps, regroup points, waits (04 R76, R94, R95; 07 R176, R177) -/

/-- SLEEP_END (04 R95). -/
def execSleepEnd (blk crew lane : Nat) (s : State) : Host.Outcome State Fault Refusal :=
  .next (s.modThread blk crew lane (fun t => match t.st with
    | .sleep u => if u ≤ s.gts then t.release else t
    | _ => t))

/-- Whether a crew has a regroup point now: a column cycle that is a multiple of 4 since the last, or empty paths while
a thread may run; a deferred path goes first (04 R76, R80). -/
def Block.regroupDue (b : Block) (c : Crew) (clk : Nat) : Bool :=
  c.deferred.isEmpty && (decide (c.lastRegroup / 4 < clk / 4) || (c.paths.all (fun p => p &&& b.runnable c == 0) && b.runnable c != 0))

/-- REGROUP_POINT (04 R76). -/
def execRegroupPoint (blk crew : Nat) (s : State) : Host.Outcome State Fault Refusal :=
  .next (match s.crew? blk crew with
    | none => s
    | some (b, c) => if b.regroupDue c s.clk then s.modCrew blk crew (fun c => b.regroup c false s.clk) else s)

/-- WAIT_WAKE: a sleeper whose time to re-read has come issues its WAITA or QWAIT again; crew 64 names the Loft context
(07 R176; 08 R199). -/
def execWaitWake (blk crew lane : Nat) (s : State) : Host.Outcome State Fault Refusal :=
  .next (if crew = 64 then
      s.modLoft blk (fun x => match x.wait with
        | .flag _ r since _ => if r ≤ s.gts then { x with wait := .none, clk := x.clk + s.clocks (s.gts - since) } else x
        | _ => x)
    else
      s.modThread blk crew lane (fun t => match t.st with
        | .flag _ r _ => if r ≤ s.gts then { t with st := .run } else t
        | _ => t))

/-- When a thread's wait that counts toward the wait limit began: masks, barriers, WAITA, a full ring, and the gate before
it opens (04 R94; 07 R177; 08 R185; 14 R341). -/
def Block.waitSince (b : Block) (t : Thread) : Option Nat :=
  match t.st with
  | .maskWait _ | .barWait _ | .sbarWait _ | .flag _ _ _ => some t.since
  | .gate => if b.loft.isNone then some t.since else none
  | .run => if t.ringWait.isSome then t.ringWait else if t.since ≠ 0 ∧ t.hold.isNone then some t.since else none
  | _ => none

/-- The lowest-numbered thread of a block that has waited longer than its limit (04 R94). -/
def State.overLimit (s : State) (b : Block) : Option (Nat × Nat × Thread) :=
  let wl := recWl b.record
  if wl = 0 ∨ b.ended ∨ b.killed then none
  else b.threads.find? (fun t => match b.waitSince t.2.2 with | some n => decide (wl < s.gts - n) | none => false)

/-- A block's Loft context where it has waited at a QWAIT for longer than the limit (08 R199). -/
def State.loftOverLimit (s : State) (b : Block) : Option LoftCtx :=
  let wl := recWl b.record
  match b.loft with
  | none => none
  | some x =>
    match x.waitFrom with
    | none => none
    | some n => if wl = 0 ∨ b.ended ∨ b.killed ∨ s.gts - n ≤ wl then none else some x

/-- WAIT_LIMIT: 0x100 in the lowest-numbered thread, or at a QWAIT under the gate frame, and the block is killed (04 R94;
08 R199). -/
def execWaitLimit (blk : Nat) (s : State) : Host.Outcome State Fault Refusal :=
  .next (match s.block? blk with
    | none => s
    | some b =>
      match s.overLimit b with
      | none =>
        (match s.loftOverLimit b with
         | none => s
         | some x => (s.killBlock blk (loftRecord s b x x.regs.pc.toNat 0x100 0 15 0 4)).settleKills (s.blocks.length + 1))
      | some (ci, l, t) =>
        let c := (Map.find? b.crews ci).getD {}
        (s.killBlock blk (threadRecord s b ci c l t.pc.toNat 0x100 0 15 0 (match t.st with | .flag _ _ _ => 2 | _ => 3))).settleKills
          (s.blocks.length + 1))

end Sys2Proof.Machine
end

