-- ==== Sys2Proof/Machine/Place.lean ====
section
/-! DEFINITION. What a block takes of a core or partition, and where it fits (01 R9; 08 R182; 14 R345, R346, R348;
17 R405, R408, R409). -/

namespace Sys2Proof.Machine

/-- What is free in one column: crew slots, registers, and cubby bytes of every lane. -/
structure ColFree where
  slots : List Nat
  regs : Nat
  cubby : Nat
deriving DecidableEq, Repr

/-- What is free in a partition: scratchpad granules, tiles, and its columns. -/
structure PartFree where
  gran : Nat
  tiles : Nat
  cols : Map ColFree
deriving DecidableEq, Repr

/-- What a block of a launch takes: granules, tiles, crews of one or two columns, registers and cubby of each crew. -/
structure Demand where
  gran : Nat
  tiles : Nat
  crews : Nat
  pair : Bool
  regs : Nat
  cubby : Nat
deriving DecidableEq, Repr

/-- Granules of a kernel's scratchpad. -/
def hdrGran (h : BitVec 1024) : Nat := (hdrScratch h + 4095) / 4096

/-- A launch's demand for one block (14 R345). -/
def demandOf (r h : BitVec 1024) : Demand :=
  let w := if hdrWidth h = 64 then 64 else 32
  { gran := hdrGran h, tiles := recTiles r + hdrHatch h, crews := (recThreads r + w - 1) / w, pair := w == 64,
    regs := 32 * hdrRegs h, cubby := hdrCubby h }

/-- A block's demand. -/
def Block.demand (b : Block) : Demand := demandOf b.record b.header

/-- The columns of a partition of a core that are not retired (17 R409). -/
def State.partCols (s : State) (core part : Nat) : List Nat :=
  (partColumns (s.mode core) part).filter (fun c => decide (c ∉ (s.core core).retiredCols))

/-- A partition of a mode with nothing on it and these columns (17 R405). -/
def emptyPart (mode : Nat) (cols : List Nat) : PartFree :=
  { gran := 96 / modeParts mode, tiles := 64 / modeParts mode, cols := cols.map (fun c => (c, ⟨List.range 12, 65536, 8192⟩)) }

/-- A crew slot of a column taken, with its registers and cubby. -/
def ColFree.take (c : ColFree) (d : Demand) (slot : Nat) : ColFree :=
  ⟨c.slots.filter (fun x => x != slot), c.regs - d.regs, c.cubby - d.cubby⟩

/-- A partition's columns less what a crew takes. -/
def PartFree.takeCrew (p : PartFree) (d : Demand) (col slot : Nat) : PartFree :=
  let cols := Map.modify p.cols col (fun c => c.take d slot)
  { p with cols := if d.pair then Map.modify cols (col + 1) (fun c => c.take d slot) else cols }

/-- A partition less what a block on it holds; a block of a quad team that has retired keeps its scratchpad
(07 R163). -/
def PartFree.takeBlock (p : PartFree) (b : Block) : PartFree :=
  let d := b.demand
  let p := { p with gran := p.gran - d.gran }
  if b.gone then p
  else b.crews.foldl (fun p c => p.takeCrew d c.2.column c.2.slot) { p with tiles := p.tiles - d.tiles }

/-- What is free in a partition of a core. -/
def State.partFree (s : State) (core part : Nat) : PartFree :=
  s.blocks.foldl (fun p e => if e.2.core = core ∧ e.2.part = part then p.takeBlock e.2 else p)
    (emptyPart (s.mode core) (s.partCols core part))

/-- Free crew slots of a partition. -/
def PartFree.slots (p : PartFree) : Nat := (p.cols.map (fun c => c.2.slots.length)).sum

/-- Whether a column has room for a crew. -/
def ColFree.ok (c : ColFree) (d : Demand) : Bool := !c.slots.isEmpty && decide (d.regs ≤ c.regs) && decide (d.cubby ≤ c.cubby)

/-- The first of the candidates with the most of a score. -/
def mostOf {α : Type} (score : α → Nat) : List α → Option α
  | [] => none
  | x :: xs => some (xs.foldl (fun a b => if score a < score b then b else a) x)

/-- The column and slot of the next crew: the column with the most free slots, the lower on a tie; at width 64 the pair
of columns with the most at one common slot (14 R345). -/
def PartFree.crewPlace (p : PartFree) (d : Demand) : Option (Nat × Nat) :=
  if d.pair then
    (mostOf (fun (x : Nat × Nat × Nat) => x.1) ([0, 2].filterMap (fun c =>
      match Map.find? p.cols c, Map.find? p.cols (c + 1) with
      | some a, some b =>
        if a.ok d && b.ok d then (a.slots.find? (fun i => decide (i ∈ b.slots))).map (fun i => (a.slots.length + b.slots.length, c, i))
        else none
      | _, _ => none))).map Prod.snd
  else
    (mostOf (fun (x : Nat × Nat × Nat) => x.1) ((p.cols.filter (fun c => c.2.ok d)).map
      (fun c => (c.2.slots.length, c.1, c.2.slots.headD 0)))).map Prod.snd

/-- The places of n crews in a partition, and what it has left; none where some crew has no place. -/
def placeCrews (d : Demand) : Nat → PartFree → Option (List (Nat × Nat) × PartFree)
  | 0, p => some ([], p)
  | n + 1, p =>
    match p.crewPlace d with
    | none => none
    | some (c, i) => (placeCrews d n (p.takeCrew d c i)).map (fun r => ((c, i) :: r.1, r.2))

/-- The fit of a block in a partition: the places of its crews, and what is left (14 R345). -/
def PartFree.fit (p : PartFree) (d : Demand) : Option (List (Nat × Nat) × PartFree) :=
  if p.gran < d.gran ∨ p.tiles < d.tiles then none
  else placeCrews d d.crews { p with gran := p.gran - d.gran, tiles := p.tiles - d.tiles }

/-! ### Targets (14 R345, R346; 17 R408) -/

/-- A partition on offer, with what is free in it. -/
structure Target where
  core : Nat
  part : Nat
  free : PartFree
deriving DecidableEq, Repr

/-- Where a block goes: core, partition, and each crew's column and slot. -/
structure Spot where
  core : Nat
  part : Nat
  crews : List (Nat × Nat)
deriving DecidableEq, Repr

/-- Whether a function owns a partition of a core that is not retired (17 R407 to R409). -/
def State.ownsPart (s : State) (vf core part : Nat) : Bool :=
  decide (part < modeParts (s.mode core)) && partOwner (s.core core).partcfg part &&& 0x80 != 0
    && natBits (partOwner (s.core core).partcfg part) 5 0 == vf

/-- The partitions that a function owns and that are not retired, on the cores of some dies. -/
def State.ownParts (s : State) (vf : Nat) (dies : List Nat) : List (Nat × Nat) :=
  ((List.range 384).filter (fun c => decide (c / 64 ∈ dies) && !(s.core c).retired)).flatMap (fun c =>
    ((List.range (modeParts (s.mode c))).filter (fun p => s.ownsPart vf c p && !(s.partCols c p).isEmpty)).map (fun p => (c, p)))

/-- One block placed on the best target: the most free crew slots, the first of equals; and the targets left. -/
def placeOne (d : Demand) (ts : List Target) : Option (Spot × List Target) :=
  match mostOf (fun (x : Target × List (Nat × Nat) × PartFree) => x.1.free.slots) (ts.filterMap (fun t => (t.free.fit d).map (fun r => (t, r)))) with
  | none => none
  | some (t, crews, left) =>
    some (⟨t.core, t.part, crews⟩, ts.map (fun u => if u.core = t.core ∧ u.part = t.part then { u with free := left } else u))

/-- A list of results where every entry has one. -/
def allSome {α : Type} : List (Option α) → Option (List α)
  | [] => some []
  | none :: _ => none
  | some x :: r => (allSome r).map (fun l => x :: l)

/-- The targets of a team's blocks on a quad's partition, by their ranks; none where one is not on offer (14 R346;
16 R399). -/
def quadTargets (ts : List Target) (q p : Nat) (ranks : List Nat) : Option (List Target) :=
  allSome (ranks.map (fun j => ts.find? (fun t => t.core == 4 * q + j && t.part == p)))

/-- Whether the four cores of a quad are in one mode and the function owns the partition on each (17 R408). -/
def State.quadOwned (s : State) (vf q p : Nat) : Bool :=
  (List.range 4).all (fun j => s.mode (4 * q + j) == s.mode (4 * q) && s.ownsPart vf (4 * q + j) p)

/-- A quad team of blocks with these ranks placed whole on the best quad; and the targets left (14 R346). -/
def State.placeQuad (s : State) (vf : Nat) (d : Demand) (ranks : List Nat) (ts : List Target) : Option (List Spot × List Target) :=
  let quads := (ts.filter (fun t => t.core % 4 == 0 && s.quadOwned vf (t.core / 4) t.part)).map (fun t => (t.core / 4, t.part))
  match mostOf (fun (x : Nat × List (Spot × Target)) => x.1) (quads.filterMap (fun q =>
      match quadTargets ts q.1 q.2 ranks with
      | none => none
      | some l =>
        (allSome (l.map (fun t => (t.free.fit d).map (fun r => ((⟨t.core, t.part, r.1⟩ : Spot), ({ t with free := r.2 } : Target)))))).map
          (fun r => ((l.map (fun t => t.free.slots)).sum, r)))) with
  | none => none
  | some (_, r) =>
    some (r.map Prod.fst, ts.map (fun t => match r.find? (fun x => x.2.core == t.core && x.2.part == t.part) with
      | some x => x.2
      | none => t))

/-- n blocks placed one after the other. -/
def placeMany (d : Demand) : Nat → List Target → Option (List Spot × List Target)
  | 0, ts => some ([], ts)
  | n + 1, ts =>
    match placeOne d ts with
    | none => none
    | some (x, ts) => (placeMany d n ts).map (fun r => (x :: r.1, r.2))

/-- A team of blocks with these ranks placed: as one on a quad, or its blocks one by one. -/
def State.placeTeam (s : State) (vf : Nat) (quad : Bool) (d : Demand) (ranks : List Nat) (ts : List Target) : Option (List Spot × List Target) :=
  if quad then s.placeQuad vf d ranks ts else placeMany d ranks.length ts

/-- Teams of these ranks placed in order. -/
def State.placeTeams (s : State) (vf : Nat) (quad : Bool) (d : Demand) : List (List Nat) → List Target → Option (List Spot)
  | [], _ => some []
  | n :: ns, ts =>
    match s.placeTeam vf quad d n ts with
    | none => none
    | some (l, ts) => (s.placeTeams vf quad d ns ts).map (fun r => l ++ r)

/-- The ranks of a grid's teams, in order; none of a grid that has more crews than the package has slots. -/
def teamRanks (r : BitVec 1024) : Option (List (List Nat)) :=
  let n := recBlocks r
  let k := recTeam r
  if 384 * 48 < n then none
  else some ((List.range ((n + k - 1) / k)).map (fun i => List.range (min k (n - k * i))))

/-- A function's partitions on some dies, empty (14 R338). -/
def State.emptyTargets (s : State) (vf : Nat) (dies : List Nat) : List Target :=
  (s.ownParts vf dies).map (fun p => ⟨p.1, p.2, emptyPart (s.mode p.1) (s.partCols p.1 p.2)⟩)

/-- One block, or one quad team, fits an empty partition or quad of a function on some dies (14 R338, check 4; R343). -/
def State.fitsEmpty (s : State) (vf : Nat) (r h : BitVec 1024) (dies : List Nat) : Bool :=
  (s.placeTeam vf (recQuad r) (demandOf r h) (List.range (min (recTeam r) (recBlocks r))) (s.emptyTargets vf dies)).isSome

/-- Every block of a grid fits at once on a function's empty partitions (14 R338, check 5). -/
def State.fitsAtOnce (s : State) (vf : Nat) (r h : BitVec 1024) (dies : List Nat) : Bool :=
  match teamRanks r with
  | none => false
  | some ns => (s.placeTeams vf (recQuad r) (demandOf r h) ns (s.emptyTargets vf dies)).isSome

/-- The dies of a package in full service. -/
def allDies : List Nat := [0, 1, 2, 3, 4, 5]

/-- A launch waits for more than its residency: stage 2 is off for its VF; maintenance mode holds; or the package is in
low gear and a valid format slot names a kind other than BF16 or FP32, or its blocks fit no serving partition
(14 R343; 10 R233, R237; 18 R443). -/
def State.otherGates (s : State) (l : Launch) : Bool :=
  let r := l.record.getD 0
  (l.vf != 0 && (!natBit (s.reg .s2root l.vf).toNat 0 || s.maint)) ||
    (s.lowGear &&
      ((List.range 8).any (fun n =>
          let f := slotOf (recSlot r n)
          f.valid && [f.ak, f.bk, f.ok].any (fun k => decide (1 < k)))
        || !s.fitsEmpty l.vf r l.header s.dies))

end Sys2Proof.Machine
end

