-- ==== Sys2Proof/Machine/EventsTier.lean ====
section
/-! DEFINITION. The memory tiers' events: TLB invalidations, frame owners and groups, replies to page requests, the
Dumbwaiter, page moves and retirements (11 R260, R460; 13 R304 to R328). -/

namespace Sys2Proof.Machine

/-! ### TLBI (13 R313) -/

/-- Whether an invalidation covers a cached translation. -/
def Tlbi.covers (t : Tlbi) (e : TlbEntry) : Bool :=
  e.vf == t.vf &&
    (match t.kind with
     | 0 => e.asid == t.asid && decide (t.base / 4096 ≤ e.vpn) && decide (e.vpn < t.base / 4096 + t.count)
     | 1 => e.asid == t.asid
     | 3 => decide (t.base / 4096 ≤ e.ipn) && decide (e.ipn < t.base / 4096 + t.count)
     | _ => true)

/-- Cached translations that meet a test leave every TLB. -/
def State.tlbDrop (s : State) (q : TlbEntry → Bool) : State :=
  { s with l2tlb := Map.mapVals (fun _ l => l.filter (fun e => !q e)) s.l2tlb,
           cores := Map.mapVals (fun _ c => { c with utlb := c.utlb.filter (fun e => !q e) }) s.cores }

/-- TLBIs of a function that are incomplete. -/
def State.tlbisOf (s : State) (fn : Nat) : Nat := (s.tlbis.filter (fun t => t.fn == fn)).length

/-- A write of a function held at the D6's registers, behind those that wait already (13 R313). -/
def State.holdWrite (s : State) (fn : Nat) (i : Instr) : State :=
  { s with heldWrites := Map.set [] s.heldWrites fn (Map.get [] s.heldWrites fn ++ [i]) }

/-- A function's held writes go on, in order, before anything else reaches the package. -/
def State.releaseWrites (s : State) (fn : Nat) : State :=
  { s with agenda := Map.get [] s.heldWrites fn ++ s.agenda, heldWrites := Map.set [] s.heldWrites fn [] }

/-- A function's TLBI queued; a VF's acts on itself, and may not name stage 2. One written while 16 are incomplete is held at
the register (13 R313). -/
def State.queueTlbi (s : State) (fn vfs kind asid base count : Nat) (i : Instr) : State :=
  if fn ≠ 0 ∧ 3 ≤ kind then s
  else if 16 ≤ s.tlbisOf fn then s.holdWrite fn i
  else { s with tlbis := s.tlbis ++ [⟨fn, if fn = 0 then vfs else fn, kind, asid, base, count⟩] }

/-- TLBI_VA_RANGE (13 R313). -/
def execTlbiVaRange (fn vfs asid base count : Nat) (s : State) : Host.Outcome State Fault Refusal :=
  .next (s.queueTlbi fn vfs 0 asid base count (.tlbiVaRange fn vfs asid base count))
/-- TLBI_ASID (13 R313). -/
def execTlbiAsid (fn vfs asid : Nat) (s : State) : Host.Outcome State Fault Refusal :=
  .next (s.queueTlbi fn vfs 1 asid 0 0 (.tlbiAsid fn vfs asid))
/-- TLBI_VF_STAGE1 (13 R313). -/
def execTlbiVfStage1 (fn vfs : Nat) (s : State) : Host.Outcome State Fault Refusal :=
  .next (s.queueTlbi fn vfs 2 0 0 0 (.tlbiVfStage1 fn vfs))
/-- TLBI_IPA_RANGE (13 R313). -/
def execTlbiIpaRange (fn vfs base count : Nat) (s : State) : Host.Outcome State Fault Refusal :=
  .next (s.queueTlbi fn vfs 3 0 base count (.tlbiIpaRange fn vfs base count))
/-- TLBI_VF_STAGE2 (13 R313). -/
def execTlbiVfStage2 (fn vfs : Nat) (s : State) : Host.Outcome State Fault Refusal :=
  .next (s.queueTlbi fn vfs 4 0 0 0 (.tlbiVfStage2 fn vfs))

/-- A function's requests that have been translated are performed: fences that hold some of them complete first
(12 R298; 13 R313). -/
def State.flushPosted (s : State) (q : Posted → Bool) : State :=
  (Map.keys s.cores).foldl (fun s core =>
    let held := (s.core core).posted.filter (fun p => q p && p.fence.isSome)
    let s := (dedup (held.map (fun p => (p.agent.blk, p.agent.crew)))).foldl (fun s a => s.completeFences a.1 a.2) s
    s.drain core q) s

/-- TLBI_COMPLETE: the function's earliest completes; nothing it covers stays cached or in flight, and what the function's
registers hold goes on (13 R313). -/
def execTlbiComplete (k : Nat) (s : State) : Host.Outcome State Fault Refusal :=
  .next (match s.tlbis[k]? with
    | none => s
    | some t =>
      if (s.tlbis.take k).any (fun u => u.fn == t.fn) then s
      else
        let s : State := { s with tlbis := s.tlbis.eraseIdx k }
        ((s.flushPosted (fun p => p.vf == t.vf)).tlbDrop t.covers).releaseWrites t.fn)

/-! ### Frames (13 R305; 11 R460) -/

/-- Every request to a physical range, a tag's too, is performed. -/
def State.flushRange (s : State) (pa n : Nat) : State := s.flushPosted (fun p => p.within pa n)

/-- Whether a physical address begins an ownable cellar frame: of a stack that serves, and not retired (13 R305; 18 R439;
log 55, DEDUCED). -/
def State.ownable (s : State) (pa : Nat) : Bool :=
  aperture pa == 0 && s.backed pa && decide (pa / 4096 ∉ s.retiredFrames)

/-- Frames zeroed, and every cached line and translation that names one dropped (13 R305). -/
def State.clearFrames (s : State) (frame n : Nat) : State :=
  ((((s.flushRange (4096 * frame) (4096 * n)).zeroRange (4096 * frame) (4096 * n)).l1DropAll (s.memKey (4096 * frame)) (4096 * n))).tlbDrop
    (fun e => decide (frame ≤ e.ppn) && decide (e.ppn < frame + n))

/-- Owner bytes of a run of frames written. -/
def State.setOwners (s : State) (frame n : Nat) (x : Byte) : State :=
  (List.range n).foldl (fun s i => s.setOwner (frame + i) x) s

/-- FRAMECMD: the frame is zeroed, nothing cached names it, then its owner byte is written; a VF's write, a reserved bit,
or a frame that cannot be owned drops it (13 R305). -/
def execFramecmd (fn : Nat) (value : DWord) (s : State) : Host.Outcome State Fault Refusal :=
  let v := value.toNat
  let pa := natBits v 51 12 * 4096
  .next (if fn ≠ 0 ∨ natBits v 63 52 ≠ 0 ∨ !s.ownable pa then s
    else (s.clearFrames (pa / 4096) 1).setOwner (pa / 4096) (mkOwner false (natBit v 6) (natBits v 5 0)))

/-- FRAMEGRP_WRITE: dropped for a die above 5, and while a frame of the group is assigned or in the pool (11 R460). -/
def execFramegrpWrite (index : Nat) (value : DWord) (s : State) : Host.Outcome State Fault Refusal :=
  let v := value.toNat
  let lo := index * 2 ^ 22
  let busy := s.owners.any (fun e => decide (lo ≤ e.1) && decide (e.1 < lo + 2 ^ 22) && ownAsg e.2)
    || s.pool.any (fun r => decide (lo ≤ r * 512) && decide (r * 512 < lo + 2 ^ 22))
  .next (if 72 ≤ index ∨ busy ∨ (natBit v 3 ∧ 5 < natBits v 2 0) then s
    else s.setReg .framegrp index (BitVec.ofNat 64 (natBits v 3 0)))

/-- A Larder granule carved out of a slice or freed; one freed is zeroed before it can pass on. A package has slices 0 to 47 on
dies 0 to 5. No L2 line is dirty in the model, so a carve waits for no write-back (01 R8; 11 R260, R261; log 40, DESIGN
CHOICE). -/
def State.carve (s : State) (value : Nat) : State :=
  let pa := natBits value 51 16 * 65536
  let g := granuleKey pa
  if 5 < natBits pa 28 26 ∨ 47 < natBits pa 25 20 then s
  else if natBit value 0 then { s with carved := dedup (s.carved ++ [g]) }
  else { ((s.flushRange pa 65536).zeroRange pa 65536) with carved := s.carved.filter (fun x => x != g) }

/-! ### Replies to page requests (13 R317, R319, R328) -/

/-- A thread's wait on a request ended by its reply; a refusal is remembered against the translation that it answers
(13 R317). -/
def Thread.answer (t : Thread) (h : Nat × Nat) (refuse : Bool) : Thread :=
  if t.hold = some h then { t with hold := none, refused := if refuse then some t.heldAt else t.refused } else t

/-- A Loft context's wait on a request ended; the clocks it took pass for its engines. -/
def LoftCtx.answer (x : LoftCtx) (h : Nat × Nat) (refuse : Bool) (elapsed : Nat) : LoftCtx :=
  if x.wait = .page h.1 h.2 then
    { x with wait := .none, refused := if refuse then some x.heldAt else x.refused, clk := x.clk + elapsed }
  else x

/-- Whether a block still waits for a page. -/
def Block.holding (b : Block) : Bool :=
  b.threads.any (fun t => t.2.2.hold.isSome) || (match b.loft with | some x => (match x.wait with | .page _ _ => true | _ => false) | none => false)

/-- A block with a request answered (13 R317, R319). -/
def Block.answer (b : Block) (h : Nat × Nat) (refuse : Bool) (s : State) : Block :=
  let b1 : Block :=
    { b.mapThreads (fun _ t => t.answer h refuse) with
      loft := b.loft.map (fun x => x.answer h refuse (s.clocks (s.gts - b.faultAt.getD s.gts))) }
  if b1.holding then b1 else { b1 with faultAt := none }

/-- A launch's or a queue's own access goes on, or fails with 0x086 (14 R458). -/
def State.answerQueues (s : State) (h : Nat × Nat) (refuse : Bool) : State :=
  let s := s.launches.foldl (fun s e =>
    if e.2.hold = some h then
      let s := s.modLaunch e.1 (fun l => { l with hold := none })
      if refuse then s.failLaunch e.1 e.2.seq 0x086 else s
    else s) s
  s.queues.foldl (fun s e =>
    if e.2.doneHold = some h then
      let s := s.modQueue e.1 (fun q => { q with doneHold := none, doneRefused := refuse })
      s
    else s) s

/-- A reply to a request: what waited on it goes on, and a request that waited for its id is posted; a reply that names
no outstanding request is dropped and counted (13 R315, R317). -/
def State.reply (s : State) (fn id : Nat) (refuse : Bool) : State :=
  match s.pageReqs.find? (fun r => r.posted && r.fn == fn && r.id == id) with
  | none => s.countShared fn 6 0 1 1
  | some r =>
    let h := (fn, r.stage * 2 ^ 52 + r.page)
    let s := if r.stage = 2 then s.clearLost fn (4096 * r.page) else s
    let s : State :=
      { s with pageReqs := s.pageReqs.filter (fun x => !(x.posted && x.fn == fn && x.id == id)),
               blocks := Map.mapVals (fun _ b => b.answer h refuse s) s.blocks,
               saved := Map.mapVals (fun _ v =>
                 { v with waits := v.waits.filter (fun w => w != h),
                          blocks := Map.mapVals (fun _ b => b.answer h refuse s) v.blocks,
                          copies := v.copies.map (fun c => if c.hold = some h then { c with hold := none, refused := refuse } else c) }) s.saved,
               cores := Map.mapVals (fun _ c =>
                 { c with copies := c.copies.map (fun p => if p.hold = some h then { p with hold := none, refused := refuse, due := s.gts } else p) }) s.cores }
    (s.answerQueues h refuse).postWaiting fn

/-- RETRY (13 R317). -/
def execRetry (fn id : Nat) (s : State) : Host.Outcome State Fault Refusal := .next (s.reply fn id false)

/-- REFUSE (13 R317). -/
def execRefuse (fn id : Nat) (s : State) : Host.Outcome State Fault Refusal := .next (s.reply fn id true)

/-! ### The Dumbwaiter's pool (13 R322) -/

/-- Owner bytes that POOL_ADD asks for: all the PF's with ASG = 0 (13 R322). -/
def State.runFree (s : State) (run : Nat) : Bool :=
  (List.range 512).all (fun i => s.owner (512 * run + i) == 0 && decide (512 * run + i ∉ s.retiredFrames))
    && decide ((512 * run + 512) * 4096 ≤ cellarTop)

/-- POOL_ADD (13 R322). -/
def execPoolAdd (fn run : Nat) (s : State) : Host.Outcome State Fault Refusal :=
  .next (if fn = 0 ∧ run ∉ s.pool ∧ s.runFree run then
    { s.setOwners (512 * run) 512 (mkOwner false true 0) with pool := s.pool ++ [run] }
  else s)

/-- POOL_REMOVE: the run returns to the PF, zeroed (13 R305, R322). -/
def execPoolRemove (fn run : Nat) (s : State) : Host.Outcome State Fault Refusal :=
  .next (if fn = 0 ∧ run ∈ s.pool then
    { (s.clearFrames (512 * run) 512).setOwners (512 * run) 512 0 with pool := s.pool.filter (fun r => r != run) }
  else s)

/-! ### Moving a page (13 R326, R327) -/

/-- A stage-2 leaf as it stands, whatever its MG: entry, address of the entry, level. -/
def s2Find (s : State) (ipa : Nat) : Nat → Nat → Option (Nat × Nat × Nat)
  | 0, _ => none
  | n + 1, table =>
    let pte := table + 8 * levelIndex false n ipa
    let e := s.num pte 8
    if !natBit e 0 then none
    else if natBit e 1 then some (e, pte, n)
    else s2Find s ipa n (natBits e 51 12 * 4096)

/-- The stage-2 leaf of a VF at an IPA. -/
def State.leafOf (s : State) (vf ipa : Nat) : Option (Nat × Nat × Nat) :=
  let root := (s.reg .s2root vf).toNat
  if natBit root 0 then s2Find s ipa 4 (natBits root 51 12 * 4096) else none

/-- The leaves that map a range of n frames from an IPA: entry, its address, the frames it maps and where they begin in
the range; none where the range is not mapped whole by leaves that lie within it. -/
def rangeLeaves (s : State) (vf ipa : Nat) : Nat → Nat → Nat → Option (List (Nat × Nat × Nat × Nat))
  | 0, _, _ => none
  | fuel + 1, n, at_ =>
    if n ≤ at_ then some []
    else
      match s.leafOf vf (ipa + 4096 * at_) with
      | none => none
      | some (e, pte, lvl) =>
        let k := 2 ^ (9 * lvl)
        if (ipa / 4096 + at_) % k ≠ 0 ∨ n < at_ + k then none
        else (rangeLeaves s vf ipa fuel n (at_ + k)).map (fun r => (e, pte, k, at_) :: r)

/-- The attributes of a frame at its new place: placement by its group, L by its aperture (13 R326). -/
def State.newLeaf (s : State) (e dest : Nat) : Nat :=
  let p := if aperture dest = 0 then s.placement dest else (false, 0)
  field dest 0 52 + (natBits e 11 10) * 2 ^ 10 + field (bit01 (aperture dest == 1)) 9 1 + field (bit01 p.1) 8 1 + natBits e 7 0
    + field (natBits e 52 52) 52 1 + field p.2 53 3 + field (natBits e 62 57) 57 6

/-- What a page move puts into the new frames: the old ones' bytes and tags, zero, or what stands there (13 R324, R326,
R328). -/
inductive MoveFill where
  | copy
  | zero
  | keep
deriving DecidableEq, Repr

/-- What an old frame's request says of where its bytes are, once they have moved. -/
def Posted.follow (p : Posted) (old new_ n : Nat) : Posted :=
  if !p.isScratch && decide (old ≤ p.now) && decide (p.now < old + n) then { p with now := new_ + (p.now - old) } else p

/-- Frames given an owner where they lie in the cellar. -/
def State.ownRun (s : State) (pa n : Nat) (x : Byte) : State := if aperture pa = 0 then s.setOwners (pa / 4096) n x else s

/-- Steps 1 to 4 of a page move: the old frames freeze, the new ones are filled, the leaves switch, and nothing cached names
either, so that the new owner finds no line of an earlier one's (01 R14); the owner bytes follow. A request on its way knows
where its bytes are now: the later accesses of its crew meet it there (13 R326, R327). -/
def State.movePage (s : State) (vf ipa n dest : Nat) (back : Nat) (fill : MoveFill) (lost : Bool) (ls : List (Nat × Nat × Nat × Nat)) : State :=
  let s := ls.foldl (fun s l =>
    let old := natBits l.1 51 12 * 4096
    let new_ := dest + 4096 * l.2.2.2
    let len := 4096 * l.2.2.1
    let s := match fill with
      | .copy => s.copyRange old new_ len
      | .zero => s.zeroRange new_ len
      | .keep => s
    let s := ((s.setNum l.2.1 8 (s.newLeaf l.1 new_)).l1DropAll (s.memKey old) len).l1DropAll (s.memKey new_) len
    { s with frozen := s.frozen ++ [⟨old / 4096, l.2.2.1, back⟩],
             cores := Map.mapVals (fun _ c => { c with posted := c.posted.map (fun p => p.follow old new_ len) }) s.cores }) s
  (s.ownRun dest n (mkOwner lost true vf)).tlbDrop
    (fun e => e.vf == vf && decide (ipa / 4096 ≤ e.ipn) && decide (e.ipn < ipa / 4096 + n))

/-- The range of a page move: the page that holds an address, in frames; and whether its new place may take it
(13 R326). -/
def State.moveAllowed (s : State) (dest n : Nat) : Bool :=
  match aperture dest with
  | 0 => (List.range n).all (fun i => s.ownable (dest + 4096 * i) && s.owner (dest / 4096 + i) == 0)
  | _ => true

/-- Whether a range of frames cuts no group of sixteen that one of its leaves belongs to (13 R309, R326). -/
def wholeGroups (base n : Nat) (ls : List (Nat × Nat × Nat × Nat)) : Bool :=
  ls.all (fun l => !natBit l.1 2 ||
    (let g := 16 * l.2.2.1
     let at_ := (base / 4096 + l.2.2.2) / g * g
     decide (base / 4096 ≤ at_) && decide (at_ + g ≤ base / 4096 + n)))

/-- PAGE_MOVE: the PF moves a page; a new cellar frame must be the PF's with ASG = 0 (13 R326). A command that would take a
64 KiB or 16 GiB page apart names no page (log 50, DESIGN CHOICE). -/
def execPageMove (vf ipa size dest : Nat) (s : State) : Host.Outcome State Fault Refusal :=
  let n := size / 4096
  let base := if n = 0 then ipa else ipa / size * size
  .next (if n = 0 ∨ dest % size ≠ 0 ∨ !s.moveAllowed dest n then s
    else
      match rangeLeaves s vf base (n + 1) n 0 with
      | none => s
      | some ls => if wholeGroups base n ls then s.movePage vf base n dest 0 .copy false ls else s)

/-- Whether a request that has not returned MOVED may still arrive at a frozen frame (13 R326). -/
def State.mayArrive (s : State) (f : Frozen) : Bool :=
  s.cores.any (fun e => e.2.posted.any (fun p => !p.moved && p.within (4096 * f.frame) (4096 * f.count)))

/-- Whether every frame of a run stands with the Dumbwaiter, none of them frozen. -/
def State.runBack (s : State) (run : Nat) : Bool :=
  (List.range 512).all (fun i => s.owner (512 * run + i) == mkOwner false true 0)
    && !s.frozen.any (fun f => decide (f.frame < 512 * run + 512) && decide (512 * run < f.frame + f.count))

/-- Frozen frames let go: to the Dumbwaiter, whose pool a run joins once all its frames are back, or zeroed to the PF; a
retired frame is never owned again (13 R322, R324, R326, R328). -/
def State.freeFrames (s : State) (f : Frozen) : State :=
  if aperture (4096 * f.frame) ≠ 0 then s
  else if f.back = 1 then
    let s := s.setOwners f.frame f.count (mkOwner false true 0)
    let runs := dedup ((List.range f.count).map (fun i => (f.frame + i) / 512))
    { s with pool := s.pool ++ runs.filter (fun r => decide (r ∉ s.pool) && s.runBack r) }
  else (s.zeroRange (4096 * f.frame) (4096 * f.count)).setOwners f.frame f.count 0

/-- FROZEN_FRAME_RELEASE (13 R326). -/
def execFrozenFrameRelease (k : Nat) (s : State) : Host.Outcome State Fault Refusal :=
  .next (match s.frozen[k]? with
    | none => s
    | some f => if s.mayArrive f then s else { s with frozen := s.frozen.eraseIdx k }.freeFrames f)

/-- MOVED: a request that returned so is replayed at the page's new home, in the order of its crew (13 R327). -/
def execMoved (core k : Nat) (s : State) : Host.Outcome State Fault Refusal := .next (s.replayMoved core k)

/-- A frame retired where no page stands in its place: nothing names it any more, and it never has an owner again. A run of
the pool that held it leaves the pool, its other frames going back to the PF (13 R305, R322, R328; log 50, DESIGN CHOICE). -/
def State.retireAlone (s : State) (frame : Nat) : State :=
  let run := frame / 512
  let s : State :=
    if run ∈ s.pool then
      { (s.clearFrames (512 * run) 512).setOwners (512 * run) 512 0 with pool := s.pool.filter (fun r => r != run) }
    else s.clearFrames frame 1
  { s.setOwner frame 0 with retiredFrames := s.retiredFrames ++ [frame] }

/-- The page of a VF at an IPA that stands in a frame, if one does: its first IPA, its frames, and its leaves, all sixteen
of a page that CONT makes (13 R309, R328). -/
def State.pageIn (s : State) (vf ipa frame : Nat) : Option (Nat × Nat × List (Nat × Nat × Nat × Nat)) :=
  match s.leafOf vf ipa with
  | none => none
  | some (e, _, lvl) =>
    let n := 2 ^ (9 * lvl) * (if natBit e 2 then 16 else 1)
    let base := ipa / (4096 * n) * (4096 * n)
    if leafOut e lvl ipa / 4096 / n ≠ frame / n then none
    else (rangeLeaves s vf base (n + 1) n 0).map (fun ls => (base, n, ls))

/-- A frame of the pool's lowest run spared for a retired one's page: the run leaves the pool for the PF, which can give its
other frames back (13 R322, R328; log 74, DESIGN CHOICE). -/
def State.spareRun (s : State) (dest : Nat) : State :=
  let run := dest / 2 ^ 21
  if run ∈ s.pool then
    { (s.clearFrames (512 * run) 512).setOwners (512 * run) 512 0 with pool := s.pool.filter (fun r => r != run) }
  else s

/-- PAGE_RETIRE: the failing frame's page moves to zeroed spare frames marked LOST; the frame is never owned again
(13 R328). A frame that is the PF's, the pool's, or mapped by no page at the address named is retired alone. The spare
frames may be a run of the pool's. -/
def execPageRetire (frame ipa dest : Nat) (s : State) : Host.Outcome State Fault Refusal :=
  let o := s.owner frame
  .next (if !s.ownable (4096 * frame) then s
    else
      match (if ownAsg o && ownVf o != 0 then s.pageIn (ownVf o) ipa frame else none) with
      | none => s.retireAlone frame
      | some (base, n, ls) =>
        let t := if s.moveAllowed dest n then s else s.spareRun dest
        if dest % (4096 * n) ≠ 0 ∨ aperture dest ≠ 0 ∨ !t.moveAllowed dest n then s
        else { (t.movePage (ownVf o) base n dest 0 .zero true ls) with retiredFrames := s.retiredFrames ++ [frame] })

/-- The retirement of a frame in which an access has met a poisoned byte: its page, if it has one, goes to the first run of the
pool that has room (13 R328; 16 R401; log 74, DESIGN CHOICE). -/
def State.retireNext (s : State) : Option Instr :=
  s.failing.findSome? (fun f =>
    if !s.ownable (4096 * f.1) then none
    else
      let o := s.owner f.1
      match (if ownAsg o && ownVf o != 0 then s.pageIn (ownVf o) f.2 f.1 else none) with
      | none => some (.pageRetire f.1 f.2 0)
      | some (_, n, _) =>
        (s.pool.find? (fun r => decide (n ≤ 512) && decide (r ≠ f.1 / 512)
          && (List.range 512).all (fun i => s.ownable (4096 * (512 * r + i))))).map (fun r => .pageRetire f.1 f.2 (2 ^ 21 * r)))

/-! ### Working sets and the Dumbwaiter (13 R323 to R325) -/

/-- The working-set window of a VF: first IPA, regions. -/
def State.wsWindow (s : State) (vf : Nat) : Nat × Nat :=
  (natBits (s.reg .wsbase vf).toNat 47 21 * 2 ^ 21, min (natBits (s.reg .wslen vf).toNat 21 0) 2097152)

/-- Bytes of one record bitmap (13 R322). -/
def wsBytes (regions : Nat) : Nat := roundUp ((regions + 7) / 8) 4096

/-- The regions of a VF's last-slice record: the bitmap that is not recording while a context runs, the one last recorded
otherwise (13 R323). -/
def State.lastSlice (s : State) (vf : Nat) : List Nat :=
  let m := (s.reg .wsmap vf).toNat
  let len := (s.wsWindow vf).2
  let cur := natBit m 0
  let second := if vf ∈ s.switchedIn then !cur else cur
  let base := natBits m 51 12 * 4096 + (if second then wsBytes len else 0)
  if natBits m 51 12 = 0 then []
  else (List.range len).filter (fun b => natBit (s.num (base + b / 8) 1) (b % 8))

/-- A region of 2 MiB as its leaves map it: where it lies, and whether it may move (13 R324). -/
structure RegionMap where
  leaves : List (Nat × Nat × Nat × Nat)
  cellar : Bool
  attic : Bool
  dirty : Bool
deriving DecidableEq, Repr

/-- A region's map; none where its leaves do not map it whole or one of them is not the Dumbwaiter's (13 R324). -/
def State.region (s : State) (vf r : Nat) : Option RegionMap :=
  match rangeLeaves s vf ((s.wsWindow vf).1 + 2 ^ 21 * r) 513 512 0 with
  | none => none
  | some ls =>
    if ls.all (fun l => natBit l.1 52) then
      some ⟨ls, ls.all (fun l => aperture (natBits l.1 51 12 * 4096) == 0), ls.all (fun l => aperture (natBits l.1 51 12 * 4096) == 2),
        ls.any (fun l => natBit l.1 7)⟩
    else none

/-- Regions that the Dumbwaiter holds in the cellar for a VF. -/
def State.heldRegions (s : State) (vf : Nat) : Nat :=
  ((List.range (s.wsWindow vf).2).filter (fun r => match s.region vf r with | some m => m.cellar | none => false)).length

/-- The list of region numbers at a working-set descriptor (13 R325); n bounds its length. -/
def wsList (s : State) (c : TCtx) : Nat → Nat → List Nat
  | 0, _ => []
  | n + 1, a =>
    match translate s c a 0 with
    | .ok pa _ _ =>
      let r := s.num pa 4
      if r = 0xFFFFFFFF then [] else r :: wsList s c n (a + 4)
    | _ => []

/-- The set of a launch (13 R325). -/
def State.workingSet (s : State) (l : Launch) : List Nat :=
  let r := l.record.getD 0
  let d := recBits r 447 384
  if d = 0 then s.lastSlice l.vf
  else dedup (wsList s ⟨l.vf, some (recRoot r, recAsid r), none, 0⟩ 2097152 d)

/-- Whether frames from an IPA are mapped, none of them by an attic frame. -/
def State.outOfAttic (s : State) (vf ipa : Nat) : Nat → Nat → Bool
  | 0, _ => true
  | fuel + 1, n =>
    n == 0 ||
      (match s.leafOf vf ipa with
       | none => false
       | some (e, _, lvl) =>
         let k := min n (2 ^ (9 * lvl) - ipa / 4096 % 2 ^ (9 * lvl))
         aperture (leafOut e lvl ipa) != 2 && s.outOfAttic vf (ipa + 4096 * k) fuel (n - k))

/-- Whether a region of a VF is resident: mapped whole, and nowhere in the attic (13 R325). -/
def State.resident (s : State) (vf r : Nat) : Bool := s.outOfAttic vf ((s.wsWindow vf).1 + 2 ^ 21 * r) 512 512

/-- Residency of a set in percent (13 R325). -/
def State.residency (s : State) (vf : Nat) (set : List Nat) : Nat :=
  if set = [] then 100 else 100 * (set.filter (fun r => s.resident vf r)).length / set.length

/-- The first region of a set that lies in the attic and may move up, in increasing order (13 R324). -/
def State.incoming (s : State) (vf : Nat) (set : List Nat) : Option Nat :=
  (sortBy (fun a b => decide (a < b)) set).find? (fun r => match s.region vf r with | some m => m.attic | none => false)

/-- Whether there is room for a region of a VF to come up: quota and pool (13 R324). -/
def State.upRoom (s : State) (vf : Nat) : Bool :=
  !s.pool.isEmpty && decide (s.heldRegions vf < natBits (s.reg .quota vf).toNat 19 0)

/-- The lowest region of an outgoing VF's record that lies in the cellar and may go down (13 R324). -/
def State.outgoing (s : State) (vf : Nat) : Option Nat :=
  if vf ∈ s.switchedIn then none
  else (s.lastSlice vf).find? (fun r => match s.region vf r with
    | some m => m.cellar && aperture (s.num (natBits (s.reg .wsback vf).toNat 51 12 * 4096 + 8 * r) 8) == 2
    | none => false)

/-- The launches that wait for residency: at head, past the splicer, below TH (13 R325; 14 R343). -/
def State.gated (s : State) (l : Launch) : Bool :=
  l.stage == 2 && l.failed.isNone &&
    decide (s.residency l.vf (s.workingSet l) < min 100 (recBits (l.record.getD 0) 255 249))

/-- VFs whose regions may come up, each with its set: those switched in, and those of gated launches (13 R324, R325). -/
def State.wanted (s : State) : List (Nat × List Nat) :=
  (s.switchedIn.filter (fun vf => natBits (s.reg .wsmap vf).toNat 51 12 ≠ 0)).map (fun vf => (vf, s.lastSlice vf))
    ++ ((s.launches.map Prod.snd).filter s.gated).map (fun l => (l.vf, s.workingSet l))

/-- The Dumbwaiter's next move: a wanted region up; where the pool is empty, first a region down of the VF whose place the
incoming one's context took at its latest switch (13 R324). -/
def State.nextMove (s : State) : Option (Nat × Nat × Bool) :=
  let ws := s.wanted.filterMap (fun w => (s.incoming w.1 w.2).map (fun r => (w.1, r)))
  match ws.find? (fun w => s.upRoom w.1) with
  | some w => some (w.1, w.2, true)
  | none =>
    (ws.filter (fun w => s.pool.isEmpty && decide (s.heldRegions w.1 < natBits (s.reg .quota w.1).toNat 19 0))).findSome? (fun w =>
      (Map.find? s.switchedFrom w.1).bind (fun vf =>
        if s.wanted.any (fun w => w.1 == vf) then none else (s.outgoing vf).map (fun r => (vf, r, false))))

/-- DUMBWAITER_MOVE: a wanted region goes up into a frame of the pool; a region of a VF with no context running goes down
to its backing frame, copied only if written (13 R324). -/
def execDumbwaiterMove (fn region : Nat) (up : Bool) (s : State) : Host.Outcome State Fault Refusal :=
  let ipa := (s.wsWindow fn).1 + 2 ^ 21 * region
  .next (match s.region fn region with
    | none => s
    | some m =>
      if up then
        match s.pool with
        | [] => s
        | run :: rest =>
          if m.attic && s.upRoom fn && s.wanted.any (fun w => w.1 == fn && s.incoming w.1 w.2 == some region) then
            ({ s with pool := rest }.movePage fn ipa 512 (run * 2 ^ 21) 1 .copy false m.leaves).countShared fn 4 0 0 1
          else s
      else if s.nextMove = some (fn, region, false) then
        let back := s.num (natBits (s.reg .wsback fn).toNat 51 12 * 4096 + 8 * region) 8
        (s.movePage fn ipa 512 (natBits back 51 21 * 2 ^ 21) 1 (if m.dirty then .copy else .keep) false m.leaves).countShared fn 4 0 1 1
      else s)

/-- RESIDENCY_RELEASE: the head of a queue goes on to the distributor when nothing else gates it and its residency reaches
TH, or when no region of its set can come up, which is counted (13 R325; 14 R343). -/
def execResidencyRelease (queue : Nat) (s : State) : Host.Outcome State Fault Refusal :=
  .next (match Map.findBy (fun _ l => l.queue == queue && l.stage == 2 && l.failed.isNone) s.launches with
    | none => s
    | some (h, l) =>
      if s.otherGates l then s
      else if !s.gated l then s.modLaunch h (fun l => { l with stage := 3 })
      else if (s.incoming l.vf (s.workingSet l)).isSome && (s.upRoom l.vf || s.nextMove.isSome) then s
      else (s.modLaunch h (fun l => { l with stage := 3 })).countShared l.vf 4 0 2 1)

end Sys2Proof.Machine
end

