-- ==== Sys2Proof/Machine/Save.lean ====
section
/-! DEFINITION. Teams, their stopping points, and crates: saving a team into its VF's crate area and bringing it back
(07 R161; 09 R227; 14 R346; 16 R389 to R399; 17 R416). -/

namespace Sys2Proof.Machine

/-! ### Teams (14 R346) -/

/-- Whether two blocks belong to one team: a quad team by its first block, any other launch's by core and partition. -/
def Block.sameTeam (b x : Block) : Bool :=
  x.launch == b.launch && !x.ended && !x.gone &&
    (if recQuad b.record then x.team == b.team else x.core == b.core && x.part == b.part)

/-- The resident blocks of a block's team. -/
def State.teamOf (s : State) (b : Block) : Map Block := s.blocks.filter (fun e => b.sameTeam e.2)

/-- The first of each team among resident blocks that meet a test. -/
def State.teams (s : State) (q : Block → Bool) : List Block :=
  ((s.blocks.map Prod.snd).filter (fun b => q b && !b.ended && !b.gone)).foldl
    (fun l b => if l.any (fun x => x.sameTeam b) then l else l ++ [b]) []

/-- The copies that a team's blocks have under way. -/
def State.copiesOfTeam (s : State) (t : Map Block) : List CopyReq :=
  s.cores.flatMap (fun e => e.2.copies.filter (fun c => (Map.find? t c.agent.blk).isSome))

/-! ### Stopping points (16 R389; 09 R227) -/

/-- Whether a crew stands at its stopping points: every thread just after a SAFEPT, waiting, held or exited; a crew that
a retirement rolled back stands at its checkpoint (16 R389, R400, R404). -/
def Block.crewStopped (b : Block) (c : Crew) : Bool :=
  if c.rerun.isSome then (b.leaving == 4 && c.bundles == 0) || (c.nextEntry.isNone && b.runnable c == 0)
  else b.runnable c == 0

/-- Whether a block stands at its stopping points. -/
def Block.stopped (b : Block) : Bool :=
  b.crews.all (fun e => b.crewStopped e.2) && (match b.loft with | some x => x.stopped b.leaving | none => true)

/-! ### The crate (16 R390 to R398) -/

/-- A size rounded up to a section's boundary. -/
def sect (n : Nat) : Nat := roundUp n 64

/-- Hardware crews of a block: a pair is two (16 R394). -/
def Block.hwCrews (b : Block) : Nat := (recThreads b.record + 31) / 32

/-- Whether a block's record says that a Loft section follows. -/
def Block.hasLoft (b : Block) : Bool := b.loft.isSome

/-- Bytes of a block's sections after the block records. -/
def Block.crateBytes (b : Block) (loft : Bool) : Nat :=
  (if loft then sect (1024 + 8192 + hdrHatch b.header * 4608) else 0) + b.hwCrews * 1024
    + b.hwCrews * sect (128 * hdrRegs b.header) + b.hwCrews * sect (32 * hdrCubby b.header) + sect (hdrScratch b.header)
    + recTiles b.record * 4608

/-- Bytes of a replay log. -/
def logBytes (n : Nat) : Nat := 64 + 32 * n

/-- A crew's log as the log of one of its hardware crews: the entries of its lanes, numbered within it (16 R394, R398). -/
def halfLog (log : List LogEntry) (half : Nat) : List LogEntry :=
  log.filterMap (fun e =>
    if e.kind = 2 then
      let m := natBits e.value (32 * half + 31) (32 * half)
      if m = 0 then none else some { e with value := m }
    else if e.lane / 32 = half then some { e with lane := e.lane % 32 } else none)

/-- The logs of reruns that are pending in a block, each with its place: of a hardware crew, from the crate's crew records
that stand before the block's; of the Loft context, the block's own (16 R398). -/
def Block.logs (b : Block) (index crews : Nat) : List (Nat × Bool × List LogEntry) :=
  let per := b.crewLanes / 32
  (b.crews.filter (fun e => e.2.rerun.isSome)).flatMap (fun e =>
      (List.range per).filterMap (fun h =>
        if e.1 * per + h < b.hwCrews then some (crews + e.1 * per + h, false, halfLog e.2.log h) else none))
    ++ (match b.loft with | some x => if x.rerun.isSome then [(index, true, x.log)] else [] | none => [])

/-- A team's blocks in the order of a crate: by block index (16 R392). -/
def crateBlocks (t : Map Block) : List Block := sortBy (fun (a b : Block) => decide (a.index < b.index)) (t.map Prod.snd)

/-- The logs of a list of blocks, the place of the first and the crew records before it counted so far. -/
def teamLogs : List Block → Nat → Nat → List (Nat × Bool × List LogEntry)
  | [], _, _ => []
  | b :: bs, i, n => b.logs i n ++ teamLogs bs (i + 1) (n + b.hwCrews)

/-- Bytes of a team's crate with so many copies: every section begins at a multiple of 64 bytes, and every log is one (16 R391,
R392). -/
def crateLen (t : Map Block) (copies : Nat) : Nat :=
  64 + t.length * 64 + (t.map (fun e => e.2.crateBytes e.2.hasLoft)).sum + copies * 64
    + ((teamLogs (crateBlocks t) 0 0).map (fun l => sect (logBytes l.2.2.length))).sum + 256

/-- Bytes of a team's crate as the team stands. -/
def State.crateSize (s : State) (t : Map Block) : Nat := crateLen t (s.copiesOfTeam t).length

/-- The crate area of a function: where it begins, and its bytes (16 R390). -/
def State.crateArea (s : State) (vf : Nat) : Nat × Nat :=
  (natBits (s.reg .crbase vf).toNat 51 12 * 4096, natBits (s.reg .crlen vf).toNat 51 12 * 4096)

/-- The crates of a function in its area, and the places allotted to teams other than one that are still to be saved, as
first byte and end, 4 KiB apart. -/
def State.crates (s : State) (vf : Nat) (t : Map Block) : List (Nat × Nat) :=
  dedup (((s.saved.map Prod.snd).filter (fun v => v.vf == vf)).map (fun v => (v.at_, v.at_ + roundUp v.len 4096))
    ++ (s.blocks.filter (fun e => e.2.vf == vf && !e.2.ended && (Map.find? t e.1).isNone)).filterMap (fun e =>
      e.2.crate.map (fun c => (c.1, c.1 + roundUp c.2 4096))))

/-- The first place of an area where a crate fits (16 R390); none where the area has no room. -/
def firstFit (base len n : Nat) (used : List (Nat × Nat)) : Option Nat :=
  if base = 0 then none
  else (sortBy (fun a b => decide (a < b)) (base :: used.map Prod.snd)).find? (fun a =>
    decide (a + n ≤ base + len) && used.all (fun u => decide (a + roundUp n 4096 ≤ u.1) || decide (u.2 ≤ a)))

/-- The place of a team's crate of so many bytes in a function's area. -/
def State.crateRoom (s : State) (vf : Nat) (t : Map Block) (n : Nat) : Option Nat :=
  firstFit (s.crateArea vf).1 (s.crateArea vf).2 n (s.crates vf t)

/-- A piece of a crate: offset, bytes, value. -/
abbrev Piece := Nat × Nat × Nat

/-- Pieces moved by an offset. -/
def shiftPieces (k : Nat) (l : List Piece) : List Piece := l.map (fun p => (k + p.1, p.2))

/-- Condition codes of a lane, four bits each (05 R103; 16 R394). -/
def flagsNum (f : Flags) : Nat := f.toNat
def ccNum (m : Map Flags) : Nat := ((List.range 4).map (fun j => field (flagsNum (Map.get 0 m j)) (4 * j) 4)).sum

/-- A half of a 64-bit mask. -/
def halfOf (m : Lanes) (h : Nat) : Nat := natBits m.toNat (32 * h + 31) (32 * h)

/-- A thread's state code and argument in a crate; a sleeper resumes in RUN (16 R394). -/
def TStatus.code : TStatus → Nat × Nat
  | .maskWait m => (1, m)
  | .barWait b => (2, b)
  | .sbarWait sc => (3, sc)
  | .gate => (4, 0)
  | .exited => (5, 0)
  | _ => (0, 0)

/-- A thread entry of a crew record (16 R394). -/
def threadEntry : Option Thread → Nat
  | none => field 6 64 4
  | some t => field t.pc.toNat 0 64 + field t.st.code.1 64 4 + field t.st.code.2 68 4 + field (bit01 t.stalled) 72 1

/-- The record of a hardware crew: the half of a pair, or the whole of another crew (16 R394). -/
def crewRecord (b : Block) (c : Crew) (hw half : Nat) : List Piece :=
  let p := c.core
  let m := fun i => halfOf (p.mask i) half
  let head := ((List.range 12).map (fun i => field (m i) (32 * i) 32 + field (halfOf (Map.get 0 p.arrived i) half) (384 + 32 * i) 32)).sum
    + ((List.range 32).map (fun l => field (ccNum ((Map.find? p.threads (32 * half + l)).getD {}).cc) (768 + 16 * l) 16)).sum
    + ((List.range 4).map (fun i => field (Map.get 0 p.sl i).toNat (1280 + 32 * i) 32)).sum
    + ((List.range 48).map (fun i => field (Map.get 0 p.k i).toNat (1408 + 32 * i) 32)).sum
    + field (halfOf p.replay half) 2944 32 + field p.srn.toNat 2976 32
    + ((List.range 16).map (fun i =>
        let r := (Map.find? b.bars i).getD {}
        field (natBits r.arr.toNat (32 * hw + 31) (32 * hw)) (3008 + 64 * i) 32
          + field (natBits r.early.toNat (32 * hw + 31) (32 * hw)) (3040 + 64 * i) 32)).sum
  (0, 512, head) :: (List.range 32).map (fun l => (512 + 16 * l, 16, threadEntry (Map.find? p.threads (32 * half + l))))

/-- The registers of a hardware crew (16 R392). -/
def crewRegs (b : Block) (c : Crew) (half : Nat) : List Piece :=
  (List.range (hdrRegs b.header)).flatMap (fun r => (List.range 32).map (fun l =>
    (128 * r + 4 * l, 4, (c.core.vreg (32 * half + l) r).toNat)))

/-- The cubbies of a hardware crew, byte by byte as written (16 R392). -/
def crewCubby (b : Block) (c : Crew) (half : Nat) : List Piece :=
  (List.range 32).flatMap (fun l => ((c.thread (32 * half + l)).cubby).map (fun e => (hdrCubby b.header * l + e.1, 1, e.2.toNat)))

/-- A block's record (16 R393). -/
def Block.crateRecord (b : Block) : Nat :=
  field b.index 0 40 + ((List.range 16).map (fun i => field (bit01 ((Map.find? b.bars i).getD {}).phase) (40 + i) 1)).sum
    + field (bit01 b.gatePc.isSome) 56 1 + field (bit01 b.hasLoft) 57 1 + field (bit01 b.resumed) 58 1
    + field (b.hwCrews - 1) 59 5 + field (b.gatePc.getD 0).toNat 64 64 + field (bit01 b.zeroed) 128 1

/-- A tile's 4,608 bytes. -/
def tilePieces (at_ : Nat) (t : Tile) : List Piece := [(at_, 4096, t.data.toNat), (at_ + 4096, 512, t.side.toNat)]

/-- A block's Loft section (16 R395). -/
def loftSection (b : Block) (x : LoftCtx) : List Piece :=
  let r := x.regs
  let head := field r.pc.toNat 0 64 + ((List.range 32).map (fun i => field (Map.get 0 r.q i).toNat (64 + 64 * i) 64)).sum
    + ((List.range 4).map (fun i => field (Map.get 0 r.lc i).toNat (2112 + 32 * i) 32)).sum
    + ((List.range 4).map (fun i => field (flagsNum (Map.get 0 r.lf i)) (2240 + 4 * i) 4)).sum
    + ((Map.keys r.shadow).map (fun i => field 1 (2256 + i) 1)).sum
    + field x.frame.map 2264 6 + field (bit01 x.holding) 2270 2 + field x.frame.thread 2272 10
    + field b.loftSrn.toNat 2304 32 + ((List.range 8).map (fun i => field (Map.get 0 r.es i).toNat (2336 + 64 * i) 64)).sum
  [(0, 1024, head), (1024, 4096, r.g0.toNat), (5120, 4096, r.g1.toNat)]
    ++ (List.range (hdrHatch b.header)).flatMap (fun i => tilePieces (9216 + 4608 * i) ((Map.find? r.shadow i).getD Tile.zero))

/-- The `.discard` regions of a kernel: offset and length (07 R161; 15 R352). -/
def discards (h : BitVec 1024) : List (Nat × Nat) :=
  (List.range (recBits h 295 292)).map (fun i => (recBits h (64 * i + 530) (64 * i + 512), recBits h (64 * i + 550) (64 * i + 532)))

/-- Whether an offset lies in a `.discard` region. -/
def inDiscard (h : BitVec 1024) (off : Nat) : Bool :=
  (discards h).any (fun d => decide (d.1 ≤ off) && decide (off < d.1 + d.2))

/-- A section of a crate: its bytes, its pieces, and the ranges that are left unwritten; what else no piece gives is zero. -/
structure CrateSection where
  bytes : Nat
  pieces : List Piece
  holes : List (Nat × Nat) := []

/-- Sections laid one after another from an offset. -/
def lay (at_ : Nat) : List CrateSection → List (Nat × CrateSection)
  | [] => []
  | x :: r => (at_, x) :: lay (at_ + sect x.bytes) r

/-- The sections of a block after the block records (16 R392). -/
def Block.sections (b : Block) (disc : Bool) : List CrateSection :=
  let hw := List.range b.hwCrews
  let per := b.crewLanes / 32
  let crew := fun i => (Map.find? b.crews (i / per)).getD {}
  let holes := if disc then discards b.header else []
  (match b.loft with | some x => [⟨1024 + 8192 + hdrHatch b.header * 4608, loftSection b x, []⟩] | none => [])
    ++ hw.map (fun i => ⟨1024, crewRecord b (crew i) i (i % per), []⟩)
    ++ hw.map (fun i => ⟨128 * hdrRegs b.header, crewRegs b (crew i) (i % per), []⟩)
    ++ hw.map (fun i => ⟨32 * hdrCubby b.header, crewCubby b (crew i) (i % per), []⟩)
    ++ [⟨hdrScratch b.header, (b.scratch.filter (fun e => !(disc && inDiscard b.header e.1))).map (fun e => (e.1, 1, e.2.toNat)), holes⟩,
        ⟨recTiles b.record * 4608, (List.range (recTiles b.record)).flatMap (fun i => tilePieces (4608 * i) (Map.get Tile.zero b.tiles i)), []⟩]

/-- A copy record (16 R396). -/
def copyPiece (t : Map Block) (c : CopyReq) : Nat :=
  field c.src 0 64 + field c.dst 64 64 + field c.len 128 32 + field c.flag 160 32 + field c.value.toNat 192 32
    + field (bit01 c.ssp + 2 * bit01 c.dsp + 4 * bit01 c.fw + 8 * bit01 c.acq + 16 * bit01 c.rel + 32 * c.scope
        + 256 * bit01 c.acqDone + 512 * (if c.agent.crew = 64 then 1 else 0)) 224 10
    + field c.thread 234 10 + field ((Map.find? t c.agent.blk).map (fun b => b.index) |>.getD 0) 244 40 + field c.pc.toNat 288 64

/-- A log entry (16 R398). -/
def entryPiece (e : LogEntry) : Nat :=
  field e.kind 0 2 + field (if e.kind = 2 then 0 else e.lane) 2 5 + field e.slot 7 2 + field (if e.kind = 2 then 0 else e.size) 16 8
    + field e.ord 32 32 + field (if e.kind = 0 then 0 else e.addr) 64 64 + field e.value 128 128

/-- A replay log: header and entries (16 R398). -/
def logPieces (l : Nat × Bool × List LogEntry) : List Piece :=
  (0, 64, field l.1 0 8 + field (bit01 l.2.1) 8 1 + field l.2.2.length 16 32)
    :: (indexed l.2.2).map (fun e => (64 + 32 * e.1, 32, entryPiece e.2))

/-- The counters of a partition: sixteen values, zero beyond its share; the latched high half, and whether it is valid
(16 R397; 17 R413). -/
def State.counterWords (s : State) (core part : Nat) : List DWord :=
  let k := s.core core
  (List.range 16).map (fun n => if n < modeShare (s.mode core) then Map.get 0 k.ctr (16 * part + n) else 0)
    ++ (match Map.find? k.latch part with | some l => [BitVec.ofNat 64 l.1.toNat, BitVec.ofNat 64 (1 + 2 * l.2)] | none => [0, 0])

/-- The counters section. -/
def counterPieces (ws : List DWord) : List Piece :=
  (indexed ws).map (fun w => (8 * w.1, 8, if w.1 = 17 then w.2.toNat % 2 else w.2.toNat))

/-- Bytes of a range of memory made zero, but for those that lie in holes of it. -/
def State.clearMem (s : State) (pa n : Nat) (holes : List (Nat × Nat)) : State :=
  let k := s.memKey pa
  let keep := fun a => decide (a < k) || decide (k + n ≤ a) || holes.any (fun h => decide (k + h.1 ≤ a) && decide (a < k + h.1 + h.2))
  { s with mem := s.mem.filter (fun e => keep e.1), poison := s.poison.filter keep }

/-- A section written from an address. -/
def State.writeSection (s : State) (at_ : Nat) (x : CrateSection) : State :=
  x.pieces.foldl (fun s p => s.setNum (at_ + p.1) p.2.1 p.2.2) (s.clearMem at_ x.bytes x.holes)

/-- A saved team written to its place as a crate (16 R391, R392). -/
def State.writeCrate (s : State) (v : Saved) (mode lid hdr : Nat) (logs : List (Nat × Bool × List LogEntry)) : State :=
  let disc := v.why == 1 && v.blocks.any (fun e => recBits e.2.header 295 292 != 0)
  let blocks := crateBlocks v.blocks
  let head := field 1 0 32 + field v.vf 32 6 + field mode 38 2 + field (bit01 (v.why == 3)) 40 1 + field (bit01 disc) 41 1
    + field (bit01 (v.why == 4)) 42 1 + field lid 64 64 + field hdr 128 64 + field s.gts 192 64 + field v.len 256 64
    + field blocks.length 320 8 + field v.copies.length 328 8 + field logs.length 336 8 + field v.core 344 9
  let record := fun x : Nat => (⟨64, [(0, 64, x)], []⟩ : CrateSection)
  let parts := [record head] ++ blocks.map (fun b => record b.crateRecord) ++ blocks.flatMap (fun b => b.sections disc)
    ++ v.copies.map (fun c => record (copyPiece v.blocks c)) ++ logs.map (fun l => ⟨logBytes l.2.2.length, logPieces l, []⟩)
    ++ [⟨256, counterPieces v.counters, []⟩]
  (lay v.at_ parts).foldl (fun s p => s.writeSection p.1 p.2) s

/-! ### A team leaves (16 R389) -/

/-- A thread as a crate keeps it: sleepers in RUN, age 0, and its wait's beginning kept (16 R394; 04 R78, R96). -/
def Thread.saved (t : Thread) : Thread :=
  { t with age := 0, st := match t.st with
      | .sleep _ => .run
      | .yielded _ => .run
      | .flag _ _ _ => .run
      | x => x }

/-- Everything in flight finishes: engine results in the order of their times. -/
def landAll : Nat → Nat → State → State
  | 0, _, s => s
  | n + 1, blk, s =>
    match (match s.block? blk with | some b => b.loft | none => none) with
    | none => s
    | some x =>
      match (indexed x.flights).find? (fun f => x.flights.all (fun g => decide (f.2.ready ≤ g.ready))) with
      | none => s
      | some (k, f) =>
        landAll n blk (f.writes.foldl (fun s w => s.engWrite blk w)
          (s.modLoft blk (fun x => { x with flights := x.flights.eraseIdx k, clk := max x.clk f.ready })))

/-- A nest stopped at a beat boundary: how far it had run when the save was taken, a free choice past its fence's clock;
its accumulators and engine state as they then stand (09 R226, R227). A nest whose work is done while its stated busy period
still runs is stopped like any other, with es7 = 1 and its position at the end (log 75, DESIGN CHOICE). -/
def State.stopNest (s : State) (blk : Nat) : State :=
  match s.block? blk with
  | none => s
  | some b =>
    match b.loft with
    | none => s
    | some x =>
      match (indexed x.flights).find? (fun f => f.2.nest.isSome) with
      | none => s
      | some (k, f) =>
        match f.nest with
        | none => s
        | some n =>
          let (d, s) := s.pick (f.ready - x.clk)
          let e := min (x.clk + d) (f.ready - 1) - f.start
          let mode := s.mode b.core
          let ws := n.writesAt (n.posAt (modeParts mode) e) true (n.done + e) mode s.gts
          ws.foldl (fun s w => s.engWrite blk w)
            (s.modLoft blk (fun x => { x with flights := x.flights.eraseIdx k, clk := x.clk + d }))

/-- A Loft context as a crate keeps it: it issues a waiting TFENCE or QWAIT again (16 R389, R395, R399). -/
def LoftCtx.saved (x : LoftCtx) : LoftCtx :=
  let y : LoftCtx := match x.wait with
    | .tfence _ pc _ => { x with regs := { x.regs with pc := BitVec.ofNat 64 pc } }
    | _ => x
  { y with holding := false, clk := 0, busy := [], flights := [],
           wait := match x.wait with | .page f i => .page f i | _ => .none }

/-- A Loft context's engines settled for a save: a nest at its fence stops, everything else finishes. -/
def State.settleEngines (s : State) (blk : Nat) : State :=
  match s.block? blk with
  | none => s
  | some b =>
    match b.loft with
    | none => s
    | some x => landAll (x.flights.length + 1) blk (if x.atNestFence && b.leaving != 3 then s.stopNest blk else s)

/-- A block as a crate keeps it. -/
def Block.saved (b : Block) : Block :=
  { b with crews := Map.mapVals (fun _ c =>
             { c.mapThreads (fun _ t => t.saved) with paths := [], deferred := [] }) b.crews,
           loft := b.loft.map LoftCtx.saved }

/-- Every committed access of a team is performed, its fences and engines settled (16 R389; 12 R298). -/
def State.settleTeam (s : State) (t : Map Block) : State :=
  t.foldl (fun s e =>
    let s := (Map.keys e.2.crews).foldl (fun s c => s.completeFences e.1 c) s
    (s.settleEngines e.1).drain e.2.core (fun _ => true)) s

/-- The page requests that a team waits on (13 R319). -/
def teamWaits (t : Map Block) : List (Nat × Nat) :=
  dedup ((t.flatMap (fun e => e.2.threads.filterMap (fun x => x.2.2.hold)
    ++ (match e.2.loft with | some x => (match x.wait with | .page f i => [(f, i)] | _ => []) | none => []))))

/-- A team's blocks and copies leave their cores; a block's resources are free at once. -/
def State.dropTeam (s : State) (t : Map Block) : State :=
  let s := t.foldl (fun s e =>
    (s.modLoftq e.2.core e.2.part (fun q => q.filter (fun x => x != e.1))).modCore e.2.core (fun c =>
      { c with copies := c.copies.filter (fun p => p.agent.blk != e.1), ended := c.ended.filter (fun p => p.agent.blk != e.1) })) s
  { s with blocks := s.blocks.filter (fun e => (Map.find? t e.1).isNone) }

/-- The block whose partition's counters a crate carries: one on the core of the retired unit for which its team is saved, or
the lowest (16 R391, R397). -/
def crateCore (t : Map Block) : Option Block :=
  match Map.findBy (fun _ (b : Block) => b.unitCore == some b.core) t with
  | some (_, b) => some b
  | none => (crateBlocks t).head?

/-- A team saved at its place: its blocks and copies leave, and its crate is written (16 R389 to R398). -/
def State.saveTeam (s : State) (t0 : Map Block) (why at_ : Nat) (counts : Bool) : State :=
  let s := s.settleTeam t0
  let t : Map Block := t0.filterMap (fun e => (s.block? e.1).map (fun b => (e.1, b)))
  match crateCore t with
  | none => s
  | some b =>
    let copies := s.copiesOfTeam t
    let logs := teamLogs (crateBlocks t) 0 0
    let words := s.counterWords b.core b.part
    let v : Saved :=
      { launch := b.launch, team := b.team, vf := b.vf, blocks := Map.mapVals (fun _ b => b.saved) t, copies := copies,
        ended := s.cores.flatMap (fun e => e.2.ended.filter (fun c => (Map.find? t c.agent.blk).isSome)), at_ := at_,
        len := crateLen t copies.length, why := why,
        counters := if counts then words else List.replicate 18 0, core := b.core,
        waits := (teamWaits t).filter s.requestOpen, written := true }
    let s := (s.dropTeam t).writeCrate { v with blocks := Map.mapVals (fun k b => { b with loft := (Map.find? t k).bind (fun o =>
        o.loft.bind (fun x => b.loft.map (fun y => { y with holding := x.holding }))) }) v.blocks } (s.mode b.core) b.lid.toNat b.hdrAddr logs
    let (k, s) := s.takeId
    { s with saved := Map.insert s.saved k { v with blocks := Map.mapVals (fun _ b => { b with faultAt := some s.gts }) v.blocks } }

/-! ### A team returns (16 R399) -/

/-- A wait that goes on after a save: the time away counts toward no limit (13 R319). -/
def Thread.back (t : Thread) (away : Nat) : Thread :=
  { t with since := if t.since = 0 then 0 else t.since + away, ringWait := t.ringWait.map (fun n => n + away) }

/-- A block as it resumes: its place, its waits, and after a pre-emption its discarded regions zero (16 R399;
07 R161). -/
def Block.back (b : Block) (x : Spot) (why away clk : Nat) : Block :=
  let wiped := why == 1 && recBits b.header 295 292 != 0
  { b with core := x.core, part := x.part, leaving := 0, crate := none, carries := false, unitCore := none, faultAt := none, placedAt := b.placedAt + away,
           crews := (indexed b.crews).map (fun e =>
             let pl := x.crews.getD e.1 (0, 0)
             (e.2.1, { e.2.2.mapThreads (fun _ t => t.back away) with column := pl.1, slot := pl.2, lastRegroup := clk })),
           scratch := if wiped then b.scratch.filter (fun e => !inDiscard b.header e.1) else b.scratch,
           spoilt := if wiped then b.spoilt.filter (fun a => !inDiscard b.header a) else b.spoilt,
           resumed := b.resumed || why != 3, zeroed := b.zeroed || wiped }

/-- The slot of a partition in a function's counter area; none while the function has no area, and for a partition that the
core's mode does not have (17 R413; 18 R440). -/
def State.counterSlot (s : State) (vf core part : Nat) : Option Nat :=
  let base := natBits (s.reg .ctrarea vf).toNat 51 12 * 4096
  if base = 0 ∨ modeParts (s.mode core) ≤ part then none else some (base + 256 * (4 * core + (partColumns (s.mode core) part).headD 0))

/-- A retirement's counter values added to the partition on which the carrying block resumes, those at positions beyond its
share to its function's slot, and its latch loaded (17 R413, R416). -/
def State.addCounters (s : State) (vf core part : Nat) (ws : List DWord) : State :=
  let share := modeShare (s.mode core)
  let rest := (List.range 16).filter (fun n => decide (share ≤ n) && ws.getD n 0 != 0)
  let s := match s.counterSlot vf core part with
    | none => s
    | some a => rest.foldl (fun s n => s.setNum (a + 8 * n) 8 (s.num (a + 8 * n) 8 + (ws.getD n 0).toNat)) s
  s.modCore core (fun c =>
    { c with ctr := (List.range share).foldl (fun m n => Map.set 0 m (16 * part + n) (Map.get 0 m (16 * part + n) + ws.getD n 0)) c.ctr,
             latch := if (ws.getD 17 0).getLsbD 0 then
               Map.insert c.latch part (BitVec.ofNat 32 (ws.getD 16 0).toNat, (ws.getD 17 0).toNat / 2) else c.latch })

/-- A saved team resumes at these places: blocks, copies, Loft contexts at the tail of their queues (16 R399;
08 R186; 14 R342). -/
def State.restoreTeam (s : State) (key : Nat) (v : Saved) (spots : List Spot) : State :=
  let pairs := v.blocks.zip spots
  let s := pairs.foldl (fun s p =>
    let away := s.gts - p.1.2.faultAt.getD s.gts
    let b := p.1.2.back p.2 v.why away s.clk
    let s : State := { s with blocks := Map.insert s.blocks p.1.1 b }
    let s := s.l1Acquire b.core 6
    let s := if b.loft.isSome then s.modLoftq b.core b.part (fun q => q ++ [p.1.1]) else s
    let s := s.modCore b.core (fun c =>
      { c with copies := c.copies ++ (v.copies.filter (fun q => q.agent.blk == p.1.1)).map (fun q => { q with due := s.gts }),
               ended := c.ended ++ v.ended.filter (fun q => q.agent.blk == p.1.1) })
    if v.why = 4 ∧ p.1.2.core = v.core ∧ (pairs.find? (fun q => q.1.2.core == v.core)).map (fun q => q.1.1) = some p.1.1 then
      s.addCounters b.vf b.core b.part v.counters
    else s) s
  { s with saved := Map.erase s.saved key }

end Sys2Proof.Machine
end

