-- ==== Sys2Proof/Machine/EventsLaunch.lean ====
section
/-! DEFINITION. The launch path: LAUNCH and the doorbell, a queue's head and its checks, the D6's own accesses for a
queue, the distributor, retirement and completion (04 R71 to R73; 07 R163; 14 R329 to R348, R458). -/

namespace Sys2Proof.Machine

/-! ### Acceptance (14 R332, R333, R341) -/

/-- The 1,024 bits at a physical address. -/
def State.record (s : State) (pa : Nat) : BitVec 1024 := BitVec.ofNat 1024 (s.num pa 128)

/-- The ring entry at an index as the D6 would read it now. -/
def State.ringEntry (s : State) (q vf i : Nat) : TRes := translate s (ipaCtx vf) (s.ringAddr q i) 0

/-- The entry at a queue's tail accepted as its next launch (14 R332, R333). -/
def State.acceptOne (s : State) (q : Nat) : State :=
  let cfg := (s.reg .qcfg q).toNat
  let vf := natBits cfg 57 52
  let c := s.queue q
  let (h, s) := s.takeId
  let snap := match s.ringEntry q vf c.tail with
    | .ok pa _ _ => some (s.record pa)
    | _ => none
  { s.modQueue q (fun c => { c with tail := (c.tail + 1) % ringSize cfg, accepted := (c.accepted + 1) % 2 ^ 56 }) with
    launches := Map.insert s.launches h { queue := q, seq := c.accepted, ring := c.tail, vf := vf, snapshot := snap } }

/-- DOORBELL: the entries up to a new tail are accepted; a write by another function, while the queue is disabled, or
past the head is dropped (14 R331, R332). -/
def execDoorbell (fn queue : Nat) (tail : BitVec 16) (s : State) : Host.Outcome State Fault Refusal :=
  let cfg := (s.reg .qcfg queue).toNat
  let size := ringSize cfg
  let c := s.queue queue
  let used := (c.tail + size - c.head) % size
  let more := (tail.toNat + size - c.tail) % size
  .next (if 256 ≤ queue ∨ !natBit cfg 3 ∨ natBits cfg 57 52 ≠ fn ∨ size - 1 < used + more then s
    else (List.range more).foldl (fun s _ => s.acceptOne queue) s)

/-- One lane's LAUNCH: every earlier request of its core is performed, the record is read once and written to the ring's
tail, and the launch is accepted (14 R341, R342; 12 R288). -/
def State.launchLane (s : State) (b : Block) (l q va : Nat) : State :=
  let (go, s) := s.laneOutput l 128 va q
  if !go then s
  else
    let s := (s.noteWatch b l (b.linear s.cur.crew l) 0 0 va 128 0).drain b.core (fun _ => true)
    match translate s b.tctx va 0, translate s (ipaCtx b.vf) (s.ringAddr q (s.queue q).tail) 1 with
    | .ok pa e ups, .ok ea e2 ups2 =>
      let s := (s.useTrans b.tctx e ups).useTrans (ipaCtx b.vf) e2 ups2
      let (lo, s) := s.loadHome b.core b.part b.vf pa 64
      let (hi, s) := s.loadHome b.core b.part b.vf (pa + 64) 64
      let s := s.performBytes ea (toBytesLE 64 lo) ⟨some (s.agentOf l), some b.port⟩
      let s := s.performBytes (ea + 64) (toBytesLE 64 hi) ⟨some (s.agentOf l), some b.port⟩
      (s.modCore b.core (fun c => c.l1Drop (s.memKey ea) 128)).acceptOne q
    | _, _ => s

/-- LAUNCH (14 R340, R341). -/
def execLaunch (f : ArgsR) (s : State) : Host.Outcome State Fault Refusal :=
  let s := s.settle (.launch f)
  .next (s.forLanes (s.active f.g) (fun t l =>
    match t.gang? with
    | none => t
    | some (b, _) => t.launchLane b l (natBits f.x.toNat 7 0) (s.src true f.a l)))

/-- QSTAT_RESUME: the owner or the PF clears HALT (14 R331, R336). -/
def execQstatResume (fn queue : Nat) (s : State) : Host.Outcome State Fault Refusal :=
  .next (if fn = 0 ∨ natBits (s.reg .qcfg queue).toNat 57 52 = fn then
    s.setReg .qstat queue (s.reg .qstat queue &&& 0xFFFFFFFFFFFFFFFD)
  else s)

/-! ### The head (14 R334, R336, R338, R458) -/

/-- The launch id (14 R333). -/
def Launch.lid (l : Launch) : Nat := l.seq * 256 + l.queue

/-- The words of a record whose entry was written after its acceptance: each holds what it held then or what it holds
now (14 R332; log 8, DESIGN CHOICE). -/
def State.openRecord (s : State) (old new_ : BitVec 1024) : BitVec 1024 × State :=
  if old = new_ then (new_, s)
  else
    let (n, s) := s.takeFresh 16
    (BitVec.ofNat 1024 (((List.range 16).map (fun i =>
      field (recBits (if (Config.freeByte (n + i)).getLsbD 0 then old else new_) (64 * i + 63) (64 * i)) (64 * i) 64)).sum), s)

/-- An access that the D6 makes for a launch fails, or waits for a page (14 R458). -/
def State.launchAccess (s : State) (h : Nat) (l : Launch) (cause va ipa kind : Nat) : State :=
  match s.transVerdict l.vf cause va ipa kind 0 with
  | .hold c v i k _ =>
    let (w, s) := s.pageRequest l.vf c v i k l.lid
    s.modLaunch h (fun x => { x with hold := some w })
  | .fault c _ _ => s.failLaunch h l.seq c
  | _ => s

/-- The one read of a launch's ring entry (14 R332, R458). -/
def State.readEntry (s : State) (h : Nat) (l : Launch) : State :=
  if l.record.isSome ∨ l.hold.isSome ∨ l.failed.isSome then s
  else
    match s.ringEntry l.queue l.vf l.ring with
    | .ok pa e ups =>
      let s := s.useTrans (ipaCtx l.vf) e ups
      if s.poisoned pa 128 then s.failLaunch h l.seq 0x095 else
      let now := s.record pa
      let (r, s) := s.openRecord (l.snapshot.getD now) now
      s.modLaunch h (fun x => { x with record := some r })
    | .wait => s
    | .fail c _ i _ => s.launchAccess h l c 0 (if i = 0 then s.ringAddr l.queue l.ring else i) 0

/-- The translation of a launch's own addresses (14 R338; 17 R427). -/
def Launch.tctx (l : Launch) (r : BitVec 1024) : TCtx := ⟨l.vf, some (recRoot r, recAsid r), none, 0⟩

/-- The translation of the KERNEL that a record names, and whether a header stands there that the loader has loaded for a
function (14 R338, check 1). -/
def State.headerAt (s : State) (l : Launch) (r : BitVec 1024) : TRes := translate s (l.tctx r) (recBits r 63 0) 0
def State.loadedAt (s : State) (vf pa : Nat) : Bool := s.headers.any (fun h => h.vf == vf && h.pa == pa)

/-- The checks of a record at the head after the first, with its header (14 R338). -/
def State.recordCheck (s : State) (vf : Nat) (r h : BitVec 1024) : Option Nat :=
  if recBits r 234 222 ≠ 0 ∨ recBits r 340 320 ≠ 0 ∨ recBits r 454 448 ≠ 0 ∨ 64 < recTiles r ∨ (!recQuad r && recBits r 241 240 != 0)
      ∨ recBits r 385 384 ≠ 0 then some 0x1D0
  else if 1024 < recThreads r ∨ 2 ^ 40 < recBlocks r ∨ recTiles r < recBits h 287 280 then some 0x1D1
  else if !s.fitsEmpty vf r h allDies then some 0x1D2
  else if recCoop r && !s.fitsAtOnce vf r h allDies then some 0x1D3
  else none

/-- The address of a record's watchpoint table (14 R337). -/
def recWatch (r : BitVec 1024) : Nat := recBits r 511 455 * 128

/-- The read of a launch's watchpoint table, checked as a load (07 R167; 14 R458; 17 R427). -/
def State.watchAt (s : State) (l : Launch) (r : BitVec 1024) : TRes :=
  let a := recWatch r
  if natBits a 59 57 ≠ 0 then .fail 0x089 a 0 0
  else
    match translate s (l.tctx r) a 0 with
    | .ok pa e ups =>
      if s.isFrozen pa then .wait
      else if e.tg && s.tagDiffers a pa 128 then .fail 0x08A a 0 0
      else if s.poisoned pa 128 then .fail 0x095 a 0 0
      else .ok pa e ups
    | r => r

/-- A launch's watchpoint table read at head: a wait for a page keeps the launch at head, any other cause fails it (14 R458;
17 R427). -/
def State.readWatch (s : State) (h : Nat) (l : Launch) (r : BitVec 1024) : State :=
  let ready := fun (s : State) (w : BitVec 1024) => s.modLaunch h (fun x => { x with stage := 1, watch := w })
  if recWatch r = 0 then ready s 0
  else
    match s.watchAt l r with
    | .ok pa e ups => let s := s.useTrans (l.tctx r) e ups; ready s (s.record pa)
    | .wait => s
    | .fail c v i k => s.launchAccess h l c v i (if k = 6 then 6 else 0)

/-- The checks of a launch that becomes head, in order, of which the first waits for a page that moves; then its watchpoint
table (13 R326; 14 R338; 17 R427). -/
def State.checkHead (s : State) (h : Nat) (l : Launch) (r : BitVec 1024) : State :=
  match s.headerAt l r with
  | .wait => s
  | .fail _ _ _ _ => s.failLaunch h l.seq 0x1D4
  | .ok pa e ups =>
    let s := s.useTrans (l.tctx r) e ups
    if !s.loadedAt l.vf pa then s.failLaunch h l.seq 0x1D4
    else
      let hd := s.record pa
      match s.recordCheck l.vf r hd with
      | some c => s.failLaunch h l.seq c
      | none => (s.modLaunch h (fun x => { x with header := hd })).readWatch h { l with header := hd } r

/-- Whether a launch is wholly placed, or has failed: its successor may become head (14 R334). -/
def Launch.past (l : Launch) : Bool := decide (4 ≤ l.stage) || l.failed.isSome

/-- The sequence number of the last of a launch's original launches. -/
def Launch.lastSeq (l : Launch) : Nat := (l.joined.map (fun j => j.seq)).getD l.seq

/-- Whether the launch before another in its queue is still not completed. -/
def State.predecessorOpen (s : State) (l : Launch) : Bool :=
  s.launches.any (fun e => e.2.queue == l.queue && e.2.lastSeq + 1 == l.seq && e.2.stage != 5)

/-- The launch of a queue that comes next to its head: the oldest not past, where it is still only accepted. -/
def State.nextHead (s : State) (q : Nat) : Option (Nat × Launch) :=
  match List.find? (fun (e : Nat × Launch) => e.2.queue == q && !e.2.past) s.launches with
  | some (h, l) => if l.stage = 0 then some (h, l) else none
  | none => none

/-- LAUNCH_HEAD: the next launch's entry is read, and where nothing keeps it from the head its record is checked
(14 R334, R336, R338). -/
def execLaunchHead (queue : Nat) (s : State) : Host.Outcome State Fault Refusal :=
  .next (if natBit (s.reg .qstat queue).toNat 1 then s
    else
      match s.nextHead queue with
      | none => s
      | some (h, l) =>
        let s := s.readEntry h l
        match Map.find? s.launches h with
        | none => s
        | some l =>
          match l.record with
          | none => s
          | some r =>
            if l.hold.isSome ∨ l.failed.isSome ∨ (r.getLsbD 235 && s.predecessorOpen l) then s
            else (s.modLaunch h (fun x => { x with headAt := some (x.headAt.getD s.gts) })).checkHead h l r)

/-! ### Distribution (14 R344 to R348) -/

/-- A candidate of the distributor: its launch, the saved team or the blocks it places, teams of these sizes, its queue's
priority, whether it is its launch's first, and whether it places a whole cooperative grid. -/
structure Cand where
  launch : Nat
  saved : Option Nat
  blocks : List Nat
  prio : Nat
  first : Bool
deriving DecidableEq, Repr

/-- The priority of a queue (14 R331). -/
def State.prio (s : State) (q : Nat) : Nat := natBits (s.reg .qcfg q).toNat 7 5

/-- Blocks of a quad team, or one block. -/
def teamBlocks (r : BitVec 1024) (b : Nat) : List Nat :=
  let k := recTeam r
  (List.range (min k (recBlocks r - b / k * k))).map (fun i => b / k * k + i)

/-- Teams, each as its blocks, without repeats. -/
def teamsOf (r : BitVec 1024) (bs : List Nat) : List (List Nat) := dedup (bs.map (teamBlocks r))

/-- The first team of each size that is still to be placed for the first time; all of a cooperative grid at once
(14 R344, R346, R348). -/
def Launch.fresh (l : Launch) (r : BitVec 1024) : List (List Nat) :=
  let n := recBlocks r
  let k := recTeam r
  if n ≤ l.placed then []
  else if recCoop r then [(List.range (n - l.placed)).map (fun i => l.placed + i)]
  else if l.placed / k < (n - 1) / k then dedup [teamBlocks r l.placed] ++ (if n % k = 0 ∨ decide ((n - 1) / k * k ∈ l.early) then [] else [teamBlocks r (n - 1)])
  else if decide ((n - 1) / k * k ∈ l.early) then [] else [teamBlocks r l.placed]

/-- The first of the places of some blocks in the order of first placement. -/
def firstOf : List Nat → Nat
  | [] => 0
  | x :: xs => listMin x xs

/-- The candidates of a launch in rank order: saved and discarded teams by their first placement, then its unplaced
blocks (14 R344; 16 R388). Of a launch that has failed, only teams saved since come back (14 R336; 16 R400; log 73,
DEDUCED). -/
def State.candsOf (s : State) (h : Nat) (l : Launch) : List Cand :=
  let r := l.record.getD 0
  let p := s.prio l.queue
  let back := (s.saved.filter (fun v => v.2.launch == h && v.2.written && v.2.waits.isEmpty)).map (fun v =>
    (firstOf (v.2.blocks.map (fun b => b.2.order)), (⟨h, some v.1, v.2.blocks.map (fun b => b.2.index), p, false⟩ : Cand)))
  let out := Map.keys l.discarded
  let lost := if l.failed.isSome then [] else
    (dedup (out.map (fun i => (teamBlocks r i).filter (fun j => decide (j ∈ out))))).map (fun t =>
      (firstOf (t.map (fun i => (Map.find? l.discarded i).getD 0)), (⟨h, none, t, p, false⟩ : Cand)))
  let fresh := if l.stage = 3 ∧ l.failed.isNone then (l.fresh r).map (fun t => (⟨h, none, t, p, false⟩ : Cand)) else []
  let all := (sortBy (fun a b => decide (a.1 < b.1)) (back ++ lost)).map Prod.snd ++ fresh
  match all with
  | [] => []
  | c :: cs => { c with first := true } :: cs

/-- When the current head of a queue became head: its oldest launch that is not past, once it is head; where none is, the
latest of its launches that was (14 R334, R344; log 76, DESIGN CHOICE). -/
def State.headSince (s : State) (q : Nat) : Nat :=
  let ls := (s.launches.map Prod.snd).filter (fun l => l.queue == q)
  match (ls.find? (fun l => !l.past)).bind (fun l => l.headAt) with
  | some t => t
  | none => listMax (ls.filterMap (fun l => l.headAt))

/-- The launches of queues that may place blocks, none of a VF in maintenance mode, by queue rank: PRIO, then the time at
head, then the number; within a queue the older first (14 R344; 18 R443; log 76, DESIGN CHOICE). -/
def State.ranked (s : State) : List (Nat × Launch) :=
  let ls := s.launches.filter (fun e => (e.2.stage == 3 || e.2.stage == 4) && e.2.hold.isNone && !(s.maint && e.2.vf != 0))
  let headOf := s.headSince
  sortBy (fun (a b : Nat × Launch) =>
    let pa := s.prio a.2.queue
    let pb := s.prio b.2.queue
    let ha := headOf a.2.queue
    let hb := headOf b.2.queue
    decide (pb < pa) || (pa == pb && (decide (ha < hb) || (ha == hb && (decide (a.2.queue < b.2.queue) ||
      (a.2.queue == b.2.queue && decide (a.2.seq < b.2.seq))))))) ls

/-- The candidates in the order of R344. -/
def State.cands (s : State) : List Cand := s.ranked.flatMap (fun e => s.candsOf e.1 e.2)

/-- Whether a written value of PARTCFG still waits on a partition (17 R407). -/
def State.partWaits (s : State) (core part : Nat) : Bool :=
  match (s.core core).partPend with
  | none => false
  | some v => natBits v.toNat 1 0 != s.mode core || partOwner v part != partOwner (s.core core).partcfg part

/-- Whether a pre-emption request that is not complete keeps a function's blocks from a core: it names it, or has found a team
there that it drains (16 R385, R387). -/
def State.vacating (s : State) (vf core : Nat) : Bool :=
  s.preempts.any (fun p => p.vf == vf && ((decide (p.first ≤ core) && decide (core < p.first + p.count)) || decide (core ∈ p.drained)))

/-- Whether a partition is reserved for the head candidate of a launch: its reserved target, or every partition of the VF
for a cooperative launch that is not yet placed (14 R347, R348). -/
def Launch.reserves (l : Launch) (core part : Nat) : Bool :=
  let r := l.record.getD 0
  (l.stage == 3 && recCoop r && l.placed == 0) ||
    (match l.reserve with
     | none => false
     | some x => if recQuad r then x / 16 == core / 4 && x % 4 == part && decide (core % 4 < recTeam r) else x / 4 == core && x % 4 == part)

/-- Whether a candidate may use a partition: another launch's reservation keeps it off unless its priority is strictly
higher; its own binds it to the target (14 R347). -/
def State.allowed (s : State) (c : Cand) (core part : Nat) : Bool :=
  s.launches.all (fun e =>
    let l := e.2
    if (l.stage != 3 && l.stage != 4) || l.failed.isSome then true
    else if e.1 == c.launch && c.first then l.reserve.isNone || l.reserves core part
    else !(l.reserves core part && (match Map.find? s.launches c.launch with | some x => x.vf == l.vf | none => false)) || decide (s.prio l.queue < c.prio))

/-- The partitions on offer to a candidate (14 R344; 16 R385; 17 R407). -/
def State.offers (s : State) (vf : Nat) (c : Cand) : List Target :=
  ((s.ownParts vf s.dies).filter (fun p => !s.partWaits p.1 p.2 && !s.vacating vf p.1 && s.allowed c p.1 p.2)).map
    (fun p => ⟨p.1, p.2, s.partFree p.1 p.2⟩)

/-- The ranks in their teams of a candidate's blocks, team by team (14 R346). -/
def Cand.ranks (c : Cand) (r : BitVec 1024) : List (List Nat) :=
  (if recQuad r && recCoop r && c.saved.isNone then teamsOf r c.blocks
   else if recQuad r then [c.blocks] else c.blocks.map (fun b => [b])).map (fun t => t.map (fun b => b % recTeam r))

/-- The places of a candidate's blocks; none where it does not fit. -/
def State.spots (s : State) (l : Launch) (c : Cand) : Option (List Spot) :=
  let r := l.record.getD 0
  let d := demandOf r l.header
  if 384 * 48 < c.blocks.length then none else s.placeTeams l.vf (recQuad r) d (c.ranks r) (s.offers l.vf c)

/-- The threads of a crew that starts (04 R71, R72). -/
def newThreads (r h : BitVec 1024) (lanes crew : Nat) : Map Thread :=
  ((List.range lanes).filter (fun l => decide (lanes * crew + l < recThreads r))).map
    (fun l => (l, ({ pc := pcMask (recBits h 63 0) } : Thread)))

/-- The k registers of a crew that starts: PARAM, the record's address, and in a joined kernel the consumer's, with its
launch id (05 R102; 14 R339; 15 R368). -/
def State.newK (s : State) (l : Launch) (r : BitVec 1024) : Map Word :=
  let qva := (s.reg .qva l.queue).toNat / 128 * 128
  let put := fun (m : Map Word) (k x : Nat) => Map.set 0 (Map.set 0 m k (BitVec.ofNat 32 x)) (k + 1) (BitVec.ofNat 32 (x / 2 ^ 32))
  let m := put (put [] 0 (recBits r 127 64)) 2 (qva + 128 * l.ring)
  match l.joined with
  | none => m
  | some j => Map.set 0 (put (put m j.kp j.param) (j.kp + 2) (qva + 128 * j.ring)) (j.kp + j.kc) (BitVec.ofNat 32 (j.seq * 256 + l.queue))

/-- A block that starts (04 R71, R72; 14 R339). -/
def State.newBlock (s : State) (h : Nat) (l : Launch) (index : Nat) (x : Spot) : Block :=
  let r := l.record.getD 0
  let lanes := if hdrWidth l.header = 64 then 64 else 32
  { launch := h, index := index, vf := l.vf, lid := BitVec.ofNat 64 l.lid, record := r, header := l.header,
    entry := BitVec.ofNat 64 ((s.reg .qva l.queue).toNat / 128 * 128 + 128 * l.ring), core := x.core, part := x.part,
    team := index / recTeam r * recTeam r, placedAt := s.gts,
    crews := (indexed x.crews).map (fun c =>
      let core : CrewCore := { threads := newThreads r l.header lanes c.1, k := s.newK l r }
      (c.1, { core := core, checkpoint := core, column := c.2.1, slot := c.2.2 })) }

/-- Blocks of a launch started at their places; each core's L1 lines of non-SC pages go first (14 R342). -/
def State.startBlocks (s : State) (h : Nat) (l : Launch) (ps : List (Nat × Spot)) : State :=
  ps.foldl (fun s p =>
    let (k, s) := s.takeId
    let s := s.l1Acquire p.2.core 6
    { s with blocks := Map.insert s.blocks k { s.newBlock h l p.1 p.2 with order := (Map.find? l.discarded p.1).getD k } }) s

/-- What a placement does to its launch: blocks counted, its reservation and passes over (14 R334, R347). -/
def Launch.placedTeam (l : Launch) (c : Cand) : Launch :=
  let r := l.record.getD 0
  let l := if c.first then { l with reserve := none, passes := 0 } else l
  if c.saved.isSome then l
  else
    let b := c.blocks.headD 0
    let again := (Map.find? l.discarded b).isSome
    let l := { l with discarded := l.discarded.filter (fun x => decide (x.1 ∉ c.blocks)) }
    let l := if again then l else if b = l.placed then { l with placed := l.placed + c.blocks.length } else { l with early := l.early ++ [b] }
    let l := if l.placed < recBlocks r ∧ l.placed ∈ l.early then { l with placed := recBlocks r } else l
    if recBlocks r ≤ l.placed ∧ l.discarded = [] then { l with stage := max l.stage 4 } else { l with stage := 3 }

/-- A candidate placed. -/
def State.placeCand (s : State) (c : Cand) (l : Launch) (spots : List Spot) : State :=
  let s := match c.saved with
    | none => s.startBlocks c.launch l (c.blocks.zip spots)
    | some k => match Map.find? s.saved k with
      | some v => s.restoreTeam k v spots
      | none => s
  s.modLaunch c.launch (fun l => l.placedTeam c)

/-- The target reserved for a candidate passed eight times: the partition, or the quad's, with the most free crew slots
(14 R347). -/
def State.reserveFor (s : State) (c : Cand) (l : Launch) : Option Nat :=
  let r := l.record.getD 0
  let ts := (s.ownParts l.vf s.dies).map (fun p => (⟨p.1, p.2, s.partFree p.1 p.2⟩ : Target))
  if recQuad r then
    (mostOf (fun (x : Nat × Nat) => x.1) ((ts.filter (fun t => t.core % 4 == 0 && s.quadOwned l.vf (t.core / 4) t.part)).filterMap (fun t =>
      (quadTargets ts (t.core / 4) t.part (c.blocks.map (fun b => b % recTeam r))).map (fun q => ((q.map (fun u => u.free.slots)).sum, t.core * 4 + t.part))))).map Prod.snd
  else (mostOf (fun (t : Target) => t.free.slots) ts).map (fun t => t.core * 4 + t.part)

/-- The head candidate passed over by a later one: its pass count, and at 8 its reservation (14 R347). -/
def State.passHead (s : State) (c : Cand) : State :=
  match Map.find? s.launches c.launch with
  | none => s
  | some l =>
    s.modLaunch c.launch (fun x =>
      { x with passes := l.passes + 1,
               reserve := if 8 ≤ l.passes + 1 ∧ x.reserve.isNone then s.reserveFor c l else x.reserve })

/-- The first candidate that fits, with its places. -/
def State.choose (s : State) : List Cand → Option (Cand × Launch × List Spot)
  | [] => none
  | c :: cs =>
    match Map.find? s.launches c.launch with
    | none => s.choose cs
    | some l =>
      match s.spots l c with
      | some ps => some (c, l, ps)
      | none => s.choose cs

/-- DISTRIBUTOR_DECISION (14 R347). -/
def execDistributorDecision (s : State) : Host.Outcome State Fault Refusal :=
  let cs := s.cands
  .next (match s.choose cs with
    | none => s
    | some (c, l, ps) =>
      let t := s.placeCand c l ps
      match cs with
      | h :: _ => if h = c then t else t.passHead h
      | [] => t)

/-! ### Retirement (04 R73; 07 R163; 16 R379) -/

/-- Whether a block's conditions for retirement hold (04 R73). -/
def State.mayRetire (s : State) (h : Nat) (b : Block) : Bool :=
  !b.gone && b.threads.all (fun t => t.2.2.st == .exited) && b.loft.isNone && (!b.killed || b.ended) &&
    b.crews.all (fun c => c.2.fences.isEmpty && (b.ended || c.2.rerun.isNone)) &&
    (s.core b.core).posted.all (fun p => p.agent.blk != h) && (s.core b.core).copies.all (fun c => c.agent.blk != h)

/-- Pre-emption requests that are complete: no team of the VF remains on the cores they name (16 R384, R385). -/
def State.settlePreempts (s : State) : State :=
  let done := fun (p : Preempt) => !s.blocks.any (fun e => e.2.vf == p.vf && !e.2.gone && decide (p.first ≤ e.2.core) && decide (e.2.core < p.first + p.count))
  { (s.preempts.filter done).foldl (fun s p => s.setReg .predone p.fn (BitVec.ofNat 64 s.gts)) s with
    preempts := s.preempts.filter (fun p => !done p) }

/-- BLOCK_RETIRE: a block whose conditions hold frees what it holds; a block of a quad team keeps its scratchpad
until the team has retired (04 R73; 07 R163). -/
def execBlockRetire (blk : Nat) (s : State) : Host.Outcome State Fault Refusal :=
  .next (match s.block? blk with
    | none => s
    | some b =>
      if !s.mayRetire blk b then s
      else
        let s := s.modLaunch b.launch (fun l =>
          { l with retired := l.retired + 1, lifetimes := ((s.gts - b.placedAt) :: l.lifetimes).take 16 })
        let s : State := if recQuad b.record then
            (s.modBlock blk (fun b => { b with gone := true, crews := [], tiles := [], spoiltTiles := [] })).sweepTeams b.launch
          else { s with blocks := Map.erase s.blocks blk }
        (s.modCore b.core (fun c => { c with ended := c.ended.filter (fun p => p.agent.blk != blk) })).settlePreempts)

/-! ### Completion (14 R335, R336, R458) -/

/-- Whether a launch's conditions for completion hold: nothing of it is resident or saved, and its blocks are placed or
given up (14 R335, R336). -/
def State.mayComplete (s : State) (h : Nat) (l : Launch) : Bool :=
  l.past && l.stage != 5 && l.hold.isNone && !s.blocks.any (fun e => e.2.launch == h && !e.2.gone) && !s.saved.any (fun v => v.2.launch == h)
    && (l.failed.isSome || l.discarded.isEmpty)

/-- A queue halts with a sequence number and cause unless it is halted already (14 R336). -/
def State.haltQueue (s : State) (q seq cause : Nat) : State :=
  if natBit (s.reg .qstat q).toNat 1 then s
  else s.setReg .qstat q (BitVec.ofNat 64 (field seq 32 32 + field cause 16 9 + 2))

/-- Completed launches at the front of a queue leave it: their entries are freed and the count of completions advances
(14 R332, R335). -/
def popDone (q : Nat) : Nat → State → State
  | 0, s => s
  | n + 1, s =>
    match Map.findBy (fun _ l => l.queue == q && l.stage == 5 && l.seq == (s.queue q).done) s.launches with
    | none => s
    | some (h, l) =>
      let k := if l.joined.isSome then 2 else 1
      popDone q n ({ s with launches := Map.erase s.launches h }.modQueue q (fun c =>
        { c with head := (c.head + k) % ringSize (s.reg .qcfg q).toNat, done := (l.lastSeq + 1) % 2 ^ 56 }))

/-- The oldest QDONE write that a queue owes: those after it wait behind one that waits for a page; one that is refused or fails
is not made, and halts the queue under its own launch (14 R335, R458). -/
def State.writeDone (s : State) (q : Nat) : State :=
  let c := s.queue q
  match c.owed with
  | [] => s
  | v :: rest =>
  let cfg := (s.reg .qcfg q).toNat
  let vf := natBits cfg 57 52
  let a := natBits (s.reg .qdone q).toNat 51 3 * 8
  let paid := fun (s : State) => s.modQueue q (fun c => { c with owed := rest, doneRefused := false })
  if c.doneHold.isSome then s
  else if a = 0 then paid s
  else if c.doneRefused then (paid s).haltQueue q (v - 1) 0x086
  else
    match translate s (ipaCtx vf) a 1 with
    | .ok pa e ups => paid ((s.useTrans (ipaCtx vf) e ups).performBytes pa (toBytesLE 8 v) {})
    | .wait => s
    | .fail cause _ i _ =>
      match s.transVerdict vf cause 0 (if i = 0 then a else i) 1 0 with
      | .hold k va i kd _ =>
        let (w, s) := s.pageRequest vf k va i kd ((v - 1) * 256 + q)
        s.modQueue q (fun c => { c with doneHold := some w })
      | .fault k _ _ => (paid s).haltQueue q (v - 1) k
      | _ => s

/-- LAUNCH_COMPLETE: a launch whose conditions hold completes; the queue's word receives the number of launches completed
with all before them, which the queue may still owe (14 R335, R458). -/
def execLaunchComplete (queue seq : Nat) (s : State) : Host.Outcome State Fault Refusal :=
  let s := match Map.findBy (fun _ l => l.queue == queue && l.seq == seq) s.launches with
    | some (h, l) => if s.mayComplete h l then s.modLaunch h (fun x => { x with stage := 5 }) else s
    | none => s
  let t := popDone queue (s.launches.length + 1) s
  let d := (t.queue queue).done
  .next ((if d = (s.queue queue).done then t else t.modQueue queue (fun c => { c with owed := c.owed ++ [d] })).writeDone queue)

end Sys2Proof.Machine
end

