-- ==== Sys2Proof/Machine/EventsSave.lean ====
section
/-! DEFINITION. Pre-emption requests, the swap for a page fault, the writing of crates, and detected errors: classification
and retirement (13 R319; 16 R384 to R404; 17 R409, R416). -/

namespace Sys2Proof.Machine

/-! ### Swaps (13 R319) -/

/-- Whether requests of a team's posted accesses still stand returned MOVED: they are performed before it leaves
(12 R298; 13 R327). -/
def State.awaitsMoved (s : State) (t : Map Block) : Bool :=
  s.cores.any (fun e => e.2.posted.any (fun p => p.moved && (Map.find? t p.agent.blk).isSome))

/-- The page requests that a block waits on and that are unanswered. -/
def State.openWaits (s : State) (h : Nat) (b : Block) : Bool := (teamWaits [(h, b)]).any s.requestOpen

/-- Whether a block has waited HOLD ns since its first fault for a page, and is not leaving already (13 R319, R322). -/
def State.swapDue (s : State) (h : Nat) (b : Block) : Bool :=
  !b.ended && !b.gone && (b.leaving == 0 || b.leaving == 2) && s.openWaits h b &&
    (match b.faultAt with | some t => decide (t + (s.reg .hold b.vf).toNat ≤ s.gts) | none => false)

/-- The place of a swapped team's crate, where its area has room. -/
def State.swapRoom (s : State) (b : Block) : Option Nat := s.crateRoom b.vf (s.teamOf b) (s.crateSize (s.teamOf b))

/-- SWAP_OUT: the whole team leaves for its crate; where the area has no room it stays held (13 R319; 16 R389, R390). -/
def execSwapOut (blk : Nat) (s : State) : Host.Outcome State Fault Refusal :=
  .next (match s.block? blk with
    | none => s
    | some b =>
      let t := s.teamOf b
      if !s.swapDue blk b || s.awaitsMoved t then s
      else
        match s.swapRoom b with
        | none => s
        | some a =>
          let s := (Map.keys t).foldl (fun s k => s.modBlock k (fun x => { x with leaving := 3 })) s
          (s.saveTeam t 3 a true).settlePreempts)

/-! ### Pre-emption requests (16 R384 to R388) -/

/-- What a request does with a team. -/
inductive Choice where
  | drain
  | discard
  | save
deriving DecidableEq, Repr

/-- RESTART of a launch record (14 R337). -/
def recRestart (r : BitVec 1024) : Bool := r.getLsbD 237

/-- The cost estimator's choice for a team, by exact comparison (16 R386). -/
def State.estimate (s : State) (t : Map Block) (b : Block) (deadline force : Nat) : Choice :=
  let restartable := recRestart b.record && !recCoop b.record
  let bytes := s.crateSize t
  let room := (s.crateRoom b.vf t bytes).isSome
  let cfg := (s.reg .precfg 0).toNat
  let lives := ((Map.find? s.launches b.launch).map (fun l => l.lifetimes)).getD []
  let n := lives.length
  let sum := lives.sum
  let ages := t.map (fun e => s.gts - e.2.placedAt)
  let rate := max 1 (natBits cfg 15 0)
  let late := decide (deadline * rate < natBits cfg 31 16 * rate + bytes)
  let young := n != 0 && ages.all (fun a => decide (8 * a * n < sum * natBits cfg 34 32))
  if force = 2 then .drain
  else if force = 3 ∧ restartable then .discard
  else if force = 1 ∨ force = 3 then (if room then .save else .drain)
  else if n ≠ 0 ∧ ages.all (fun a => decide (sum ≤ (deadline + a) * n)) then .drain
  else if restartable && (late || young || !room) then .discard
  else if room then .save else .drain

/-- One more in a saturating field of PRESTAT. -/
def State.countPre (s : State) (fn lo : Nat) : State :=
  let x := (s.reg .prestat fn).toNat
  let n := natBits x (lo + 7) lo
  if n = 255 then s else s.setReg .prestat fn (BitVec.ofNat 64 (x + 2 ^ lo))

/-- A team marked to be saved, with a place allotted to its crate as long as it is now (16 R389, R390; log 51, DEDUCED). -/
def State.markSave (s : State) (t : Map Block) (b : Block) (why : Nat) : State :=
  let n := s.crateSize t
  let place := (s.crateRoom b.vf t n).map (fun a => (a, n))
  (Map.keys t).foldl (fun s k => s.modBlock k (fun x => { x with leaving := why, crate := if x.crate.isSome then x.crate else place })) s

/-- A team discarded: its blocks stop, their accesses are performed, their copies stop, and they return to the distributor
as unplaced blocks of their launch (16 R388). -/
def State.discardTeam (s : State) (t : Map Block) (b : Block) : State :=
  let s := t.foldl (fun s e =>
    let s := (Map.keys e.2.crews).foldl (fun s c => s.completeFences e.1 c) s
    s.drain e.2.core (fun _ => true)) s
  ((s.dropTeam t).modLaunch b.launch (fun l =>
    { l with discarded := t.foldl (fun m e => Map.insert m e.2.index e.2.order) l.discarded, stage := 3 })).sweepTeams b.launch

/-- The teams that saving a team saves with it: every team of a cooperative launch that no request has decided (16 R385). -/
def State.savedWith (s : State) (b : Block) : List Block :=
  if recCoop b.record then s.teams (fun x => x.launch == b.launch && x.leaving == 0) else [b]

/-- What a request does with a team: what the estimator chooses, but a team of a cooperative launch is saved where the estimator
saves another team of the launch that the request names (16 R385, R386). -/
def State.chosen (s : State) (named : List (Nat × Nat)) (b : Block) (deadline force : Nat) : Choice :=
  let own := s.estimate (s.teamOf b) b deadline force
  if recCoop b.record && named.any (fun e => e.2 == 0 && (s.block? e.1).any (fun x => x.launch == b.launch && x.leaving == 0
      && s.estimate (s.teamOf x) x deadline force == .save)) then .save else own

/-- A team that drains: its cores are offered to no block of its function until the request completes (16 R387). -/
def State.noteDrain (s : State) (fn : Nat) (t : Map Block) : State :=
  { s with preempts := s.preempts.map (fun p =>
      if p.fn = fn then { p with drained := dedup (p.drained ++ t.map (fun e => e.2.core)) } else p) }

/-- One team of a request decided, and counted; a team that is being saved already counts as saved (16 R385 to R388,
R400). -/
def State.decideTeam (s : State) (fn deadline force : Nat) (named : List (Nat × Nat)) (h : Nat) (before : Nat) : State :=
  match s.block? h with
  | none => s
  | some b =>
    if b.ended ∨ b.gone then s
    else if before = 1 ∨ before = 3 ∨ before = 4 then s.countPre fn 32
    else if before = 2 then (s.noteDrain fn (s.teamOf b)).countPre fn 16
    else if b.leaving ≠ 0 then s
    else
      let t := s.teamOf b
      match s.chosen named b deadline force with
      | .drain => (((Map.keys t).foldl (fun s k => s.modBlock k (fun x => { x with leaving := 2 })) s).noteDrain fn t).countPre fn 16
      | .discard => (s.discardTeam t b).countPre fn 24
      | .save => (s.savedWith b).foldl (fun s x => (s.markSave (s.teamOf x) x 1).countPre fn 32) s

/-- The teams of a VF resident on a run of cores: the handle of a block of each, and how it leaves already. -/
def State.namedTeams (s : State) (vf first count : Nat) : List (Nat × Nat) :=
  let q := fun (b : Block) => b.vf == vf && decide (first ≤ b.core) && decide (b.core < first + count)
  (s.teams q).filterMap (fun b => (Map.findBy (fun _ x => x == b) s.blocks).map (fun e => (e.1, b.leaving)))

/-- A write of PREQ0: dropped while the function's last request is in progress; else every team it names is decided
(16 R384, R385). -/
def State.preempt (s : State) (fn vf first count force : Nat) : State :=
  let vf := if fn = 0 then vf else fn
  if s.preempts.any (fun p => p.fn == fn) then s.setReg .prestat fn (s.reg .prestat fn ||| 2)
  else
    let deadline := natBits (s.reg .preq1 fn).toNat 31 0
    let s := s.setReg .prestat fn (s.reg .prestat fn &&& 2)
    let s : State := { s with preempts := s.preempts ++ [⟨fn, vf, first, count, deadline, force, s.gts, []⟩] }
    let ts := s.namedTeams vf first count
    (ts.foldl (fun s t => s.decideTeam fn deadline force ts t.1 t.2) s).settlePreempts

/-- PREEMPT_ESTIMATOR: FORCE 0 (16 R384 to R386). -/
def execPreemptEstimator (fn vf first count : Nat) (s : State) : Host.Outcome State Fault Refusal := .next (s.preempt fn vf first count 0)
/-- PREEMPT_SAVE: FORCE 1 (16 R386, R389). -/
def execPreemptSave (fn vf first count : Nat) (s : State) : Host.Outcome State Fault Refusal := .next (s.preempt fn vf first count 1)
/-- PREEMPT_DRAIN: FORCE 2 (16 R386, R387). -/
def execPreemptDrain (fn vf first count : Nat) (s : State) : Host.Outcome State Fault Refusal := .next (s.preempt fn vf first count 2)
/-- PREEMPT_DISCARD: FORCE 3 (16 R386, R388). -/
def execPreemptDiscard (fn vf first count : Nat) (s : State) : Host.Outcome State Fault Refusal := .next (s.preempt fn vf first count 3)

/-! ### Crates written (16 R389 to R392, R400) -/

/-- Whether a team that is to be saved stands at its stopping points with nothing left to perform elsewhere. -/
def State.teamReady (s : State) (t : Map Block) : Bool :=
  !t.isEmpty && t.all (fun e => (e.2.leaving == 1 || e.2.leaving == 4) && e.2.stopped) && !s.awaitsMoved t

/-- The place of a team's crate: what was allotted, or another with room where it has outgrown that. -/
def State.cratePlace (s : State) (t : Map Block) (b : Block) : Option Nat :=
  let n := s.crateSize t
  match b.crate with
  | some (a, k) => if n ≤ k then some a else s.crateRoom b.vf t n
  | none => s.crateRoom b.vf t n

/-- Whether a team's crate can be written now (16 R389, R390). -/
def State.crateDue (s : State) (b : Block) : Bool :=
  let t := s.teamOf b
  s.teamReady t && (s.cratePlace t b).isSome

/-- The counters of a core's partition, moved into a crate, start again from zero (17 R416). -/
def State.clearCounters (s : State) (core part : Nat) : State :=
  s.modCore core (fun c => { c with ctr := Map.clearRange c.ctr (16 * part) 16, latch := Map.erase c.latch part })

/-- CRATE_WRITE: a team that stands at its stopping points is saved, what a kill has left of it too (16 R389, R390, R400). -/
def execCrateWrite (blk : Nat) (s : State) : Host.Outcome State Fault Refusal :=
  .next (match s.block? blk with
    | none => s
    | some b =>
      let t := s.teamOf b
      if !s.crateDue b then s
      else
        match s.cratePlace t b with
        | none => s
        | some a =>
          let carrier := crateCore t
          let counts := b.leaving == 1 || t.any (fun e => e.2.carries)
          let s := (s.saveTeam t b.leaving a counts).settlePreempts
          match carrier with
          | some x => if b.leaving = 4 ∧ counts then s.clearCounters x.core x.part else s
          | none => s)

/-! ### Detected errors (16 R401 to R404) -/

/-- Bytes that an error in an SRAM or in the cellar may poison together: a 32-byte unit that holds an address
(16 R401; log 74, DESIGN CHOICE). -/
def eccUnit (a : Nat) : List Nat := (List.range 32).map (fun i => a / 32 * 32 + i)

/-- An uncorrectable error in memory: a granule of the cellar, the Larder, or an L2 slice that holds their bytes, freely chosen
(16 R401). -/
def State.spoilMemory (s : State) : State :=
  let (a, s) := s.pick (2 ^ 52)
  if aperture a = 0 ∨ aperture a = 1 then { s with poison := dedup (s.poison ++ eccUnit (s.memKey a)) } else s

/-- A mismatch in the engines of a block's Loft: where an instruction of engine T is in flight the record names its bundle, and in
ADDR the accumulator tile, the row and the beat, bits 7:0, 15:8 and 47:16, the row and beat freely chosen of those it has
begun (09 R231; log 75, DESIGN CHOICE). -/
def State.detectEngine (s : State) (blk : Nat) (x : LoftCtx) : State :=
  match x.flights.find? (fun f => f.engine == 2) with
  | none => s.detectLoft blk 0x061 x.regs.pc.toNat 4 0 0
  | some f =>
    let (row, s) := s.pick 32
    let (beat, s) := s.pick (max 1 (min (x.clk - f.start) (f.ready - f.start)))
    let tile := match f.writes.head? with | some (.tile c _) => c | _ => 0
    s.detectLoft blk 0x061 f.pc f.slot 6 (field tile 0 8 + field row 8 8 + field beat 16 32)

/-- An uncorrectable error in what a block holds at rest, at a freely chosen place: 66 its scratchpad, 67 a thread's cubby, 68 a
tile; 69 memory (16 R401). -/
def State.spoilRest (s : State) (blk : Nat) (b : Block) (what : Nat) : State :=
  match what with
  | 66 =>
    let (a, s) := s.pick (hdrScratch b.header)
    if hdrScratch b.header = 0 then s else s.modBlock blk (fun b => { b with spoilt := dedup (b.spoilt ++ eccUnit a) })
  | 67 =>
    let (t, s) := s.pick (recThreads b.record)
    let (a, s) := s.pick (hdrCubby b.header)
    if hdrCubby b.header = 0 then s
    else s.modThread blk (b.place t).1 (b.place t).2 (fun t => { t with spoilt := dedup (t.spoilt ++ eccUnit a) })
  | 68 =>
    let (i, s) := s.pick (recTiles b.record + hdrHatch b.header)
    if recTiles b.record + hdrHatch b.header = 0 then s
    else
      let c := if i < recTiles b.record then 64 + i else 128 + (i - recTiles b.record)
      s.modBlock blk (fun b => { b with spoiltTiles := dedup (b.spoiltTiles ++ [c]) })
  | 69 => s.spoilMemory
  | _ => s

/-- ECC_DETECTED: an uncorrectable register-file error of a crew, or a mismatch in a Loft's engines (crew 64): what detects it
rolls back. 65: a single-bit error of the block's partition, corrected and counted; 66 to 69: an uncorrectable one in data at
rest, which poisons it; 70: one in a line of the core's L1, which is dropped. With no block, 69 alone has an effect (16 R401,
R402; 09 R231). -/
def execEccDetected (blk crew : Nat) (s : State) : Host.Outcome State Fault Refusal :=
  .next (match s.block? blk with
    | none => if crew = 69 then s.spoilMemory else s
    | some b =>
      if b.ended ∨ b.gone ∨ b.killed then s
      else if crew = 64 then (match b.loft with | some x => s.detectEngine blk x | none => s)
      else if crew = 65 then s.count b.core b.part 0x0E 0 1
      else if 66 ≤ crew ∧ crew ≤ 69 then s.spoilRest blk b crew
      else if crew = 70 then
        (let (i, s) := s.pick (s.core b.core).l1.length
         s.modCore b.core (fun c => { c with l1 := c.l1.eraseIdx i }))
      else
        match Map.find? b.crews crew with
        | none => s
        | some c =>
          match lowLane c.core.live with
          | none => s
          | some l => s.detect blk crew l 0x062 (c.thread l).pc.toNat 4 0)

/-- Whether a crew's rerun has come as far as its next checkpoint, or to where no checkpoint can follow: every thread at an
end, or in the gate (16 R403). -/
def Crew.rerunReached (c : Crew) : Bool :=
  match c.rerun with
  | none => false
  | some r => r.reached || (c.nextEntry.isNone && c.core.threads.all (fun t => t.2.st == .exited || t.2.st == .gate))

/-- The same of a Loft context: at its next QSAFE, or at its UNHATCH. -/
def LoftCtx.rerunReached (x : LoftCtx) : Bool :=
  match x.rerun with
  | none => false
  | some r => r.reached || (x.nextEntry.isNone && x.wait == .unhatch)

/-- A classification of R403: 1 transient, 2 escaped, 3 lasting, 4 a rerun that a retirement moved is over; none yet. -/
def classOf (r : Rerun) (reached : Bool) : Option Nat :=
  if 4 ≤ r.run then some 3
  else if r.mismatch then some (if r.run = 3 then 3 else 2)
  else if reached then some (if r.run = 1 then 4 else 1)
  else none

/-- The class of a block's pending rerun, crew 64 being its Loft context; a rerun that waits to be saved has none. -/
def Block.rerunClass (b : Block) (crew : Nat) : Option Nat :=
  if b.ended ∨ b.gone then none
  else if crew = 64 then
    match b.loft with
    | none => none
    | some x => match x.rerun with | some r => classOf r x.rerunReached | none => none
  else
    match Map.find? b.crews crew with
    | none => none
    | some c => match c.rerun with | some r => classOf r c.rerunReached | none => none

/-- The record of a detection, of a crew or of a Loft context (16 R373, R375, R403). -/
def State.errorInfo (s : State) (b : Block) (crew cause : Nat) : Option TrapInfo :=
  if crew = 64 then
    match b.loft with
    | none => none
    | some x => x.rerun.map (fun r => { loftRecord s b x r.pc (if cause = 0 then r.cause else cause) r.addr 15 (2 ^ r.slot) r.unit with
        gts := if cause = 0 then r.at_ else s.gts, retried := true })
  else
    match Map.find? b.crews crew with
    | none => none
    | some c => c.rerun.map (fun r => { threadRecord s b crew c r.lane r.pc (if cause = 0 then r.cause else cause) 0 15 (2 ^ r.slot) r.unit with
        gts := if cause = 0 then r.at_ else s.gts, retried := true })

/-- A pending rerun changed, or ended. -/
def State.modRerun (s : State) (blk crew : Nat) (f : Rerun → Option Rerun) : State :=
  if crew = 64 then s.modLoft blk (fun x => { x with rerun := x.rerun.bind f })
  else s.modCrew blk crew (fun c => { c with rerun := c.rerun.bind f })

/-- Whether a block has a crew in a unit: a column of a core, or the core whole (16 R404). -/
def Block.inUnit (b : Block) (core : Nat) (col : Option Nat) : Bool :=
  b.core == core && !b.ended && !b.gone &&
    (match col with
     | none => true
     | some k => b.crews.any (fun e => decide (k ∈ b.colsOf e.2)))

/-- A unit marked retired: a column, or a core (02 R9; 16 R404). -/
def State.retireUnit (s : State) (core : Nat) (col : Option Nat) : State :=
  s.modCore core (fun c => match col with
    | some k => { c with retiredCols := dedup (c.retiredCols ++ [k]) }
    | none => { c with retired := true })

/-- The teams of a retired unit marked to be saved with RETIRE = 1; of each VF the first in block order carries the counters
(16 R404; 17 R416). -/
def State.markRetired (s : State) (core : Nat) (col : Option Nat) : State :=
  let ts := s.teams (fun b => b.inUnit core col)
  ts.foldl (fun s b =>
    let s := s.markSave (s.teamOf b) b 4
    let s := (Map.keys (s.teamOf b)).foldl (fun s k => s.modBlock k (fun x => { x with unitCore := some core })) s
    if ts.all (fun x => x.vf != b.vf || decide (b.index ≤ x.index)) then
      (Map.keys (s.teamOf b)).foldl (fun s k => s.modBlock k (fun x => { x with carries := true })) s
    else s) s

/-- A rerun that detected for the last time goes back to its checkpoint, from which a new unit runs it to its end
(16 R404). -/
def State.parkRerun (s : State) (blk crew : Nat) : State :=
  let s := match s.block? blk with
    | none => s
    | some b =>
      if crew = 64 then (match b.loft with
        | some x => if x.bundles = 0 then s else s.detectLoft blk 0 0 0 0 0
        | none => s)
      else (match Map.find? b.crews crew with
        | some c => if c.bundles = 0 then s else s.detect blk crew 0 0 0 0 0
        | none => s)
  s.modRerun blk crew (fun r => some { r with run := 1, pos := 0, reached := false, mismatch := false, detectedAt := [] })

/-- The record of a retirement: the core, and in CREW the column times 12, from the die's error classifier (16 R376,
R404). -/
def State.unitRetired (s : State) (b : Block) (core : Nat) (col : Option Nat) : State :=
  s.logError { gts := s.gts, launch := b.lid.toNat, crew := (col.getD 0) * 12, cause := 0x064, core := core, vf := b.vf,
               src := 24576 + 16 * (core / 64) + 2 }

/-- ERROR_CLASSIFY: a transient error is logged; an escaped one kills the block; a lasting one retires the column or core and
sends its teams elsewhere (16 R403, R404). -/
def execErrorClassify (blk crew : Nat) (s : State) : Host.Outcome State Fault Refusal :=
  .next (match s.block? blk with
    | none => s
    | some b =>
      match b.rerunClass crew with
      | none => s
      | some 1 =>
        (match s.errorInfo b crew 0 with | some t => s.logError t | none => s).modRerun blk crew (fun _ => none)
      | some 2 =>
        (match s.errorInfo b crew 0x063 with | some t => s.killBlock blk t | none => s).settleKills (s.blocks.length + 1)
      | some 3 =>
        let col := if crew = 64 then none else
          (Map.find? b.crews crew).bind (fun c => c.rerun.map (fun r => c.columnOf r.lane))
        (((s.parkRerun blk crew).retireUnit b.core col).markRetired b.core col).unitRetired b b.core col
      | some _ => s.modRerun blk crew (fun _ => none))

end Sys2Proof.Machine
end

