-- ==== Sys2Proof/Machine/EventsDebug.lean ====
section
/-! DEFINITION. Partitions and world switches, counters as drivers read them, trace samples, and the debugger's commands
(17 R405 to R431). -/

namespace Sys2Proof.Machine

/-! ### Areas of memory that registers name (13 R305) -/

/-- Whether an area that a register names stays out of the reserved top of the cellar (13 R305). -/
def areaOk (pa n : Nat) : Bool := aperture pa != 0 || decide (pa + n ≤ cellarTop)

/-! ### Counter slots (17 R413) -/

/-- A partition's counters, selectors and latch saved to its owner's slot (17 R410, R413). -/
def State.saveCounters (s : State) (vf core part : Nat) : State :=
  match s.counterSlot vf core part with
  | none => s
  | some a =>
    let c := s.core core
    let s := (List.range (modeShare (s.mode core))).foldl (fun s n =>
      (s.setNum (a + 8 * n) 8 (Map.get 0 c.ctr (16 * part + n)).toNat).setNum (a + 128 + 4 * n) 4 (Map.get 0 c.sel (16 * part + n)).toNat) s
    match Map.find? c.latch part with
    | none => (s.setNum (a + 192) 8 0).setNum (a + 200) 1 0
    | some l => (s.setNum (a + 192) 8 l.1.toNat).setNum (a + 200) 1 (1 + 2 * l.2)

/-- The latch that a slot holds. -/
def State.slotLatch (s : State) (a : Nat) : Option (Word × Nat) :=
  if natBit (s.num (a + 200) 1) 0 then some (BitVec.ofNat 32 (s.num (a + 192) 8), natBits (s.num (a + 200) 1) 4 1) else none

/-- A partition's counters, selectors and latch from its owner's slot; all zero without one (17 R410; 18 R440). -/
def State.loadCounters (s : State) (vf core part : Nat) : State :=
  match s.counterSlot vf core part with
  | none => s
  | some a =>
    let ns := List.range (modeShare (s.mode core))
    let ctr := ns.map (fun n => BitVec.ofNat 64 (s.num (a + 8 * n) 8))
    let sel := ns.map (fun n => BitVec.ofNat 32 (s.num (a + 128 + 4 * n) 4))
    let l := s.slotLatch a
    s.modCore core (fun c =>
      { c with ctr := (ns.zip ctr).foldl (fun m e => Map.set 0 m (16 * part + e.1) e.2) c.ctr,
               sel := (ns.zip sel).foldl (fun m e => Map.set 0 m (16 * part + e.1) e.2) c.sel,
               latch := match l with | some x => Map.insert c.latch part x | none => Map.erase c.latch part })

/-! ### World switches (17 R407, R410; 13 R323) -/

/-- EN of an owner byte, and its VF (17 R407). -/
def ownEn (b : Nat) : Bool := natBit b 7
def ownFn (b : Nat) : Nat := natBits b 5 0

/-- Whether a VF owns a partition anywhere. -/
def State.ownsAny (s : State) (vf : Nat) : Bool :=
  s.cores.any (fun e => (List.range (modeParts (s.mode e.1))).any (fun p => partOwner e.2.partcfg p == 128 + vf))

/-- The outgoing half of a switch: what the partition held of its owner goes to the owner's slot or is dropped
(17 R410, steps 1 and 2). -/
def State.switchOut (s : State) (core part : Nat) : State :=
  let o := partOwner (s.core core).partcfg part
  let s := if ownEn o then s.saveCounters (ownFn o) core part else s
  let cols := partColumns (s.mode core) part
  s.modCore core (fun c =>
    { c with ctr := Map.clearRange c.ctr (16 * part) 16, sel := Map.clearRange c.sel (16 * part) 16, latch := Map.erase c.latch part,
             l1 := c.l1.filter (fun e => e.1 / 2 ^ 52 != part),
             utlb := if ownEn o then c.utlb.filter (fun e => e.vf != ownFn o) else c.utlb,
             shelf := c.shelf.filter (fun e => !(e.vf == ownFn o && decide (e.column ∈ cols))) })

/-- The incoming half: the new owner's counters are loaded (17 R410, steps 3 and 4). -/
def State.switchIn (s : State) (core part : Nat) : State :=
  let o := partOwner (s.core core).partcfg part
  if ownEn o then s.loadCounters (ownFn o) core part else s

/-- A VF's slice begins: CUR flips, and the bitmap that now records is zeroed (13 R323). -/
def State.sliceIn (s : State) (vf : Nat) : State :=
  if vf = 0 ∨ vf ∈ s.switchedIn then s
  else
    let m := (s.reg .wsmap vf).toNat
    let n := wsBytes (s.wsWindow vf).2
    let s : State := { s with switchedIn := s.switchedIn ++ [vf] }.setReg .wsmap vf (s.reg .wsmap vf ^^^ 1)
    if natBits m 51 12 = 0 then s
    else s.clearMem (natBits m 51 12 * 4096 + (if natBit m 0 then 0 else n)) n []

/-- Slices begun and ended after a change of owners: at a VF's first partition, and at its last (13 R323; 17 R410). -/
def State.settleSlices (s : State) (before after : List Nat) : State :=
  let s := (after.filter ownEn).foldl (fun s o => s.sliceIn (ownFn o)) s
  { s with switchedIn := s.switchedIn.filter (fun vf => !(before.any (fun o => o == 128 + vf)) || s.ownsAny vf) }

/-- The bits of PARTCFG that it holds: MODE and the OWN bytes without their reserved bit (17 R407). -/
def partcfgBits : DWord := 0xBFBFBFBF03

/-- Owner bytes of the partitions that a core's mode has. -/
def State.ownBytes (s : State) (core : Nat) : List Nat :=
  (List.range (modeParts (s.mode core))).map (fun p => partOwner (s.core core).partcfg p)

/-- A written value of PARTCFG that has taken effect whole waits no longer; bytes of partitions that the mode does not have
follow it (17 R407). -/
def State.settlePart (s : State) (core : Nat) : State :=
  match (s.core core).partPend with
  | none => s
  | some v =>
    if natBits v.toNat 1 0 = s.mode core ∧ (List.range (modeParts (s.mode core))).all (fun p => partOwner v p == partOwner (s.core core).partcfg p) then
      s.modCore core (fun c => { c with partcfg := v, partPend := none })
    else s

/-- PARTCFG_WRITE: the value waits until the core, or each partition whose owner changes, is empty; MODE 3 drops the write;
a later write replaces what still waits (17 R407). -/
def execPartcfgWrite (core : Nat) (value : DWord) (s : State) : Host.Outcome State Fault Refusal :=
  let v := value &&& partcfgBits
  .next (if 384 ≤ core ∨ natBits v.toNat 1 0 = 3 then s
    else (s.modCore core (fun c => { c with partPend := some v })).settlePart core)

/-- Whether nothing is resident on a core and no copy of it runs. -/
def State.coreEmpty (s : State) (core : Nat) : Bool :=
  s.blocks.all (fun e => e.2.core != core) && (s.core core).copies.isEmpty

/-- Whether a partition is empty. -/
def State.partEmpty (s : State) (core part : Nat) : Bool := s.blocks.all (fun e => e.2.core != core || e.2.part != part)

/-- Whether a change of a partition that waits may take effect now. -/
def State.switchDue (s : State) (core part : Nat) : Bool :=
  match (s.core core).partPend with
  | none => false
  | some v =>
    if natBits v.toNat 1 0 ≠ s.mode core then s.coreEmpty core
    else decide (part < modeParts (s.mode core)) && partOwner v part != partOwner (s.core core).partcfg part && s.partEmpty core part

/-- An owner byte put into PARTCFG. -/
def putOwner (cfg : DWord) (p o : Nat) : DWord :=
  (cfg &&& ~~~ BitVec.ofNat 64 (0xFF * 2 ^ (8 * p + 8))) ||| BitVec.ofNat 64 (o * 2 ^ (8 * p + 8))

/-- For each incoming owner of a core's partitions, the owner before of the columns that it takes (13 R324). -/
def State.noteSwitch (s : State) (core oldMode : Nat) (before : List Nat) : State :=
  let from_ := ((indexed (s.ownBytes core)).filterMap (fun e =>
    let col := (partColumns (s.mode core) e.1).headD 0
    let o := before.getD ((List.range (modeParts oldMode)).findIdx (fun p => decide (col ∈ partColumns oldMode p))) 0
    if ownEn e.2 && ownEn o && ownFn e.2 != ownFn o then some (ownFn e.2, ownFn o) else none))
  { s with switchedFrom := from_.foldl (fun m x => Map.insert m x.1 x.2) s.switchedFrom }

/-- WORLD_SWITCH: a partition changes its owner, or a core its mode and all its partitions with it (17 R407, R410). -/
def execWorldSwitch (core part : Nat) (s : State) : Host.Outcome State Fault Refusal :=
  .next (match (s.core core).partPend with
    | none => s
    | some v =>
      if !s.switchDue core part then s
      else
        let before := s.ownBytes core
        let mode := s.mode core
        if natBits v.toNat 1 0 ≠ s.mode core then
          let s := (List.range (modeParts (s.mode core))).foldl (fun s p => s.switchOut core p) s
          let s := s.modCore core (fun c => { c with partcfg := v, partPend := none })
          (((List.range (modeParts (s.mode core))).foldl (fun s p => s.switchIn core p) s).settleSlices before (s.ownBytes core)).noteSwitch
            core mode before
        else
          let s := (s.switchOut core part).modCore core (fun c => { c with partcfg := putOwner c.partcfg part (partOwner v part) })
          ((((s.switchIn core part).settleSlices before (s.ownBytes core)).noteSwitch core mode before).settlePart core))

/-! ### Reading counters (17 R414, R419) -/

/-- Whether a function owns a partition now. -/
def State.ownsNow (s : State) (fn core part : Nat) : Bool :=
  decide (part < modeParts (s.mode core)) && partOwner (s.core core).partcfg part == 128 + fn

/-- A counter as its function sees it: the partition's while it owns it, its slot's otherwise; zero beyond the share or
without a slot (17 R414). -/
def State.counterOf (s : State) (fn core part n : Nat) : DWord :=
  if s.ownsNow fn core part then (if n < modeShare (s.mode core) then Map.get 0 (s.core core).ctr (16 * part + n) else 0)
  else match s.counterSlot fn core part with
    | some a => if n < 16 then BitVec.ofNat 64 (s.num (a + 8 * n) 8) else 0
    | none => 0

/-- A selector as its function sees it: the partition's while it owns it, its slot's otherwise (17 R414). -/
def State.selectorOf (s : State) (fn core part n : Nat) : Nat :=
  if s.ownsNow fn core part then (if n < modeShare (s.mode core) then (Map.get 0 (s.core core).sel (16 * part + n)).toNat else 0)
  else ((s.counterSlot fn core part).map (fun a => if n < 16 then s.num (a + 128 + 4 * n) 4 else 0)).getD 0

/-- The latch as a function sees it. -/
def State.latchOf (s : State) (fn core part : Nat) : Option (Word × Nat) :=
  if s.ownsNow fn core part then Map.find? (s.core core).latch part
  else match s.counterSlot fn core part with
    | some a => s.slotLatch a
    | none => none

/-- The latch written or emptied. -/
def State.setLatch (s : State) (fn core part : Nat) (l : Option (Word × Nat)) : State :=
  if s.ownsNow fn core part then
    s.modCore core (fun c => { c with latch := match l with | some x => Map.insert c.latch part x | none => Map.erase c.latch part })
  else match s.counterSlot fn core part with
    | some a =>
      (match l with
       | some x => (s.setNum (a + 192) 8 x.1.toNat).setNum (a + 200) 1 (1 + 2 * x.2)
       | none => s.setNum (a + 200) 1 0)
    | none => s

/-- CTRLO_READ: the low half is returned and the high half latched; core 512 names the function's shared counters, which
have a latch of their own (17 R414, R419). -/
def execCtrloRead (fn core part n : Nat) (s : State) : Host.Outcome State Fault Refusal :=
  .next (if core = 512 then
      let x := s.reg .sctr (8 * fn + n % 8)
      { s with readOut := BitVec.ofNat 64 (loWord x).toNat, sctrLatch := Map.insert s.sctrLatch fn (hiWord x, n % 8) }
    else
      let x := s.counterOf fn core part n
      { s.setLatch fn core part (some (hiWord x, n)) with readOut := BitVec.ofNat 64 (loWord x).toNat })

/-- CTRHI_READ: the latched half where the latch holds this counter, and the latch is emptied; else the live half
(17 R414, R419). -/
def execCtrhiRead (fn core part n : Nat) (s : State) : Host.Outcome State Fault Refusal :=
  .next (if core = 512 then
      match Map.find? s.sctrLatch fn with
      | some (h, k) =>
        if k = n % 8 then { s with readOut := BitVec.ofNat 64 h.toNat, sctrLatch := Map.erase s.sctrLatch fn }
        else { s with readOut := BitVec.ofNat 64 (hiWord (s.reg .sctr (8 * fn + n % 8))).toNat }
      | none => { s with readOut := BitVec.ofNat 64 (hiWord (s.reg .sctr (8 * fn + n % 8))).toNat }
    else
      match s.latchOf fn core part with
      | some (h, k) =>
        if k = n then { s.setLatch fn core part none with readOut := BitVec.ofNat 64 h.toNat }
        else { s with readOut := BitVec.ofNat 64 (hiWord (s.counterOf fn core part n)).toNat }
      | none => { s with readOut := BitVec.ofNat 64 (hiWord (s.counterOf fn core part n)).toNat })

/-- SCSNAP: a function's eight shared counters copied to 64 bytes of memory at one time (17 R421). -/
def execScsnap (fn : Nat) (addr : DWord) (s : State) : Host.Outcome State Fault Refusal :=
  let pa := natBits addr.toNat 51 6 * 64
  .next (if areaOk pa 64 then
    s.deviceWrite pa ((List.range 8).flatMap (fun n => toBytesLE 8 (s.reg .sctr (8 * fn + n)).toNat))
  else s)

/-! ### Trace samples (17 R426) -/

/-- The sampling period of a partition's owner in clk, 0 for none. -/
def State.samplePeriod (s : State) (core part : Nat) : Nat :=
  let o := partOwner (s.core core).partcfg part
  if ownEn o then natBits (s.reg .trccfg (ownFn o)).toNat 23 8 * 1024 else 0

/-- Whether a partition's next sample is due: one in each period (17 R426). -/
def State.sampleDue (s : State) (core part : Nat) : Bool :=
  let p := s.samplePeriod core part
  p != 0 && decide (Map.get 0 (s.core core).sampleAt part / p < s.clk / p)

/-- A hardware crew that holds a thread: its place, its block's handle, crew, and half. -/
def State.heldCrews (s : State) (core part : Nat) : List (Nat × Nat × Nat × Nat) :=
  (s.blocks.filter (fun e => e.2.core == core && e.2.part == part && !e.2.ended && !e.2.gone)).flatMap (fun e =>
    e.2.crews.flatMap (fun c => ((List.range (e.2.crewLanes / 32)).filter (fun h => halfOf c.2.core.live h != 0)).map (fun h =>
      (c.2.place (32 * h), e.1, c.1, h))))

/-- The sample of one hardware crew, or of its Loft context while it stands in GATE (17 R425, R426). -/
def State.sampleCrew (s : State) (blk crew half : Nat) : State :=
  match s.crew? blk crew with
  | none => s
  | some (b, c) =>
    let mine := c.core.live &&& subCrew 32 half
    match (if (laneList mine).all (fun l => (c.thread l).st == .gate) then b.loft else none) with
    | some x => s.traceLoft b x 3 (field 4 32 4 + field (2 ^ (x.frame.thread % 32)) 0 32)
    | none =>
      let path := (c.paths.headD 0) &&& mine
      let run := lanesWhere mine (fun l => (c.thread l).st == .run)
      let one := fun (m : Lanes) => match lowLane m with | some l => laneBit l | none => 0
      let m := if path != 0 then path else if run != 0 then one run else one mine
      match lowLane m with
      | none => s
      | some l => s.traceThread b crew c l (c.thread l).pc.toNat 3 (field (halfOf m half) 0 32 + field (c.thread l).st.code.1 32 4)

/-- TRACE_SAMPLE: the next crew in slot order that holds a thread (17 R426). -/
def execTraceSample (core part : Nat) (s : State) : Host.Outcome State Fault Refusal :=
  .next (if !s.sampleDue core part then s
    else
      let cs := sortBy (fun a b => decide (a.1 < b.1)) (s.heldCrews core part)
      let at_ := Map.get 0 (s.core core).sampleNext part
      let s := s.modCore core (fun c => { c with sampleAt := Map.set 0 c.sampleAt part s.clk })
      match (cs.find? (fun c => decide (at_ ≤ c.1))).or cs.head? with
      | none => s
      | some (p, blk, crew, half) =>
        (s.modCore core (fun c => { c with sampleNext := Map.set 0 c.sampleNext part (p + 1) })).sampleCrew blk crew half)

/-! ### Stops and the debugger's commands (17 R429 to R431) -/

/-- STOP_BROADCAST: a broadcast reaches a crew or Loft context (crew 64), which stops and says where (17 R429). -/
def execStopBroadcast (blk crew : Nat) (s : State) : Host.Outcome State Fault Refusal :=
  .next (match s.block? blk with
    | none => s
    | some b =>
      let addr := fun (t : Stop) (hit : Nat) => field t.skid 0 16 + field (s.gts - hit) 32 32
      if crew = 64 then
        match b.loft with
        | none => s
        | some x =>
          match x.stop.due with
          | none => s
          | some (hit, _) =>
            (s.trap (loftRecord s b x x.regs.pc.toNat 0x181 (addr x.stop hit) 15 0 4)).modLoft blk (fun x => { x with stop := { stopped := true } })
      else
        match Map.find? b.crews crew with
        | none => s
        | some c =>
          match c.stop.due, lowLane c.core.live with
          | some (hit, _), some l =>
            (s.trap (threadRecord s b crew c l (c.thread l).pc.toNat 0x181 (addr c.stop hit) 15 0 3)).modCrew blk crew
              (fun c => { c with stop := { stopped := true } })
          | _, _ => s.modCrew blk crew (fun c => { c with stop := { c.stop with due := none } }))

/-- Whether a launch id names a launch: its own, or of a joined kernel's launch its consumer's (15 R368, R371). -/
def namesLaunch (id lid : DWord) (joined : Bool) : Bool := id == lid || (joined && id == lid + 256)

/-- Whether a block belongs to the launch that a function's DBGATT names (17 R430). -/
def State.debugs (s : State) (fn : Nat) (b : Block) : Bool :=
  b.vf == fn && b.lid != 0 && namesLaunch (s.reg .dbgatt fn) b.lid b.spliced

/-- The crews and contexts of a function's attached launch that meet a test of their source number, resumed (17 R430). -/
def State.resume (s : State) (fn : Nat) (q : Nat → Bool) : State :=
  { s with blocks := Map.mapVals (fun _ b =>
      if s.debugs fn b then
        { b with crews := Map.mapVals (fun _ c =>
                   if q (srcOf b.core c 0) || (b.width == 64 && q (srcOf b.core c 32)) then { c with stop := {} } else c) b.crews,
                 loft := b.loft.map (fun x => if q (b.core * 64 + 48 + b.part) then { x with stop := {} } else x) }
      else b) s.blocks }

/-- The crew of a function's attached launch that a source number names: its block's handle and number. -/
def State.crewAt (s : State) (fn src : Nat) : Option (Nat × Nat) :=
  (s.blocks.filter (fun e => s.debugs fn e.2 && !e.2.ended && !e.2.gone)).findSome? (fun e =>
    (Map.findBy (fun _ c => srcOf e.2.core c 0 == src || (e.2.width == 64 && srcOf e.2.core c 32 == src)) e.2.crews).map (fun c => (e.1, c.1)))

/-- DBGWIN: a stopped crew's record, then its registers, byte by byte; zeros for a crew that is not stopped (17 R430). -/
def State.dbgwin (s : State) (fn src off : Nat) : Byte :=
  match s.crewAt fn src with
  | none => 0
  | some (blk, ci) =>
    match s.crew? blk ci with
    | none => 0
    | some (b, c) =>
      if !c.stop.stopped then 0
      else
        let half := if srcOf b.core c 0 = src then 0 else 1
        let ps := crewRecord b c (ci * (b.crewLanes / 32) + half) half ++ shiftPieces 1024 (crewRegs b c half)
        match ps.find? (fun p => decide (p.1 ≤ off) && decide (off < p.1 + p.2.1)) with
        | none => 0
        | some p => BitVec.ofNat 8 (p.2.2 >>> (8 * (off - p.1)))

/-- DBGATT_WRITE: attaches to a launch; what another launch had stopped is resumed (17 R430). -/
def execDbgattWrite (fn : Nat) (value : DWord) (s : State) : Host.Outcome State Fault Refusal :=
  .next ((if s.reg .dbgatt fn = value then s else s.resume fn (fun _ => true)).setReg .dbgatt fn value)

/-- RESUME_ALL (17 R430). -/
def execResumeAll (fn : Nat) (s : State) : Host.Outcome State Fault Refusal := .next (s.resume fn (fun _ => true))

/-- RESUME_ONE_CREW: the crew that SRC names (17 R430). -/
def execResumeOneCrew (fn crew : Nat) (s : State) : Host.Outcome State Fault Refusal := .next (s.resume fn (fun n => n == crew))

/-- STEP: a stopped crew with a thread in RUN is to take one issue opportunity; one with none says where its lowest thread
waits (17 R431). -/
def execStep (fn crew : Nat) (s : State) : Host.Outcome State Fault Refusal :=
  .next (match s.crewAt fn crew with
    | none => s
    | some (blk, ci) =>
      match s.crew? blk ci with
      | none => s
      | some (b, c) =>
        if !c.stop.stopped then s
        else if b.runnable c != 0 then s.modCrew blk ci (fun c => { c with stop := { stopped := true, stepping := true } })
        else
          let l := (lowLane c.core.live).getD 0
          let k := (c.thread l).st.code
          s.trap (threadRecord s b ci c l (c.thread l).pc.toNat 0x184 (field k.1 0 4 + field k.2 4 4) 15 0 3))

/-- STOP_LAUNCH: a broadcast over the whole launch with no hit (17 R430). -/
def execStopLaunch (fn : Nat) (s : State) : Host.Outcome State Fault Refusal :=
  .next (match Map.findBy (fun _ b => s.debugs fn b) s.blocks with
    | none => s
    | some (_, b) => s.broadcast b 6)

/-- RELOAD_WATCHPOINTS: the attached launch's table is read again; a read that cannot be made changes nothing (17 R427,
R430). -/
def execReloadWatchpoints (fn : Nat) (s : State) : Host.Outcome State Fault Refusal :=
  .next (match Map.findBy (fun _ l => l.vf == fn && l.record.isSome && namesLaunch (s.reg .dbgatt fn) (BitVec.ofNat 64 l.lid) l.joined.isSome) s.launches with
    | none => s
    | some (h, l) =>
      let r := l.record.getD 0
      if recWatch r = 0 then s
      else
        match s.watchAt l r with
        | .ok pa e ups => (s.useTrans (l.tctx r) e ups).modLaunch h (fun x => { x with watch := s.record pa })
        | _ => s)

end Sys2Proof.Machine
end

