-- ==== Sys2Proof/Machine/Nyone.lean ====
section
/-! DEFINITION. Nyone: its records, the checks of 15 R353 to R357, and the analysis that the loader's translation rests
on: which value each operand names, how long each value lives, and the register it is given (logs 25 to 28). -/

namespace Sys2Proof.Machine

/-! ### Records (15 R353, R354) -/

/-- A Nyone record with the fields of its extension, if it has one. -/
structure NyRec where
  op : Nat
  gc : Nat
  gk : Nat
  d1 : Nat
  d2 : Nat
  d3 : Nat
  port : Bool
  keep : Bool
  w64 : Bool
  unif : Bool
  /-- a reserved bit is set -/
  junk : Bool
  ext : Bool := false
  rd : Nat := 0
  ra : Nat := 240
  rb : Nat := 240
  rc : Nat := 240
  low : Nat := 0
deriving DecidableEq, Repr

/-- The fields of a record's word (15 R353). -/
def nyFields (w : Nat) : NyRec :=
  { op := natBits w 63 51, gc := natBits w 50 49, gk := natBits w 48 45, d1 := natBits w 44 32, d2 := natBits w 31 19,
    d3 := natBits w 18 6, port := natBit w 5, keep := natBit w 4, w64 := natBit w 1, unif := natBit w 0,
    junk := natBits w 3 2 != 0 }

/-- A record with its extension's payload (15 R354). -/
def NyRec.extend (r : NyRec) (w : Nat) : NyRec :=
  { r with ext := true, rd := natBits w 63 56, ra := natBits w 55 48, rb := natBits w 47 40, rc := natBits w 39 32,
           low := natBits w 27 0 }

/-- One word of the stream: the records so far, last first, and whether the word before was an extension's marker. -/
def nyStep (st : Except (Nat × Nat) (List NyRec × Bool)) (w : Nat) : Except (Nat × Nat) (List NyRec × Bool) :=
  match st with
  | .error e => .error e
  | .ok (acc, true) =>
    match acc with
    | [] => .error (0x1C1, 0)
    | r :: rs => if natBits w 31 28 = 0 then .ok (r.extend w :: rs, false) else .error (0x1C1, rs.length)
  | .ok (acc, false) =>
    if natBits w 63 51 = 0x1FFF then
      match acc with
      | [] => .error (0x1C1, 0)
      | r :: rs => if r.ext ∨ natBits w 50 0 ≠ 0 then .error (0x1C1, rs.length) else .ok (acc, true)
    else .ok (nyFields w :: acc, false)

/-- The records of a stream of words, or the defect and the position it stands at (15 R353 to R355). -/
def nyParse (ws : List Nat) : Except (Nat × Nat) (List NyRec) :=
  match ws.foldl nyStep (.ok ([], false)) with
  | .error e => .error e
  | .ok (acc, true) => .error (0x1C1, acc.length - 1)
  | .ok (acc, false) => .ok acc.reverse

def nyLoop : Nat := 0x1FFC
def nyEnd : Nat := 0x1FFD
def nyCarry : Nat := 0x1FFE

/-- The unit of a record's operation, and its OP. -/
def NyRec.unit (r : NyRec) : Nat := r.op / 1024
def NyRec.opc (r : NyRec) : Nat := r.op % 1024
/-- Whether a record is an operation and no part of a loop's frame. -/
def NyRec.isOp (r : NyRec) : Bool := decide (r.op < nyLoop)

/-- Operations that Nyone has no form of: control flow, safe points, SHELF, CHK and NOP (15 R353). -/
def nyBarred (u op : Nat) : Bool :=
  op == 1 || (u == 3 && ((decide (0x010 ≤ op) && decide (op ≤ 0x014)) || op == 0x039 || op == 0x03A))
    || (u == 4 && (op == 0x020 || op == 0x021 || op == 0x027)) || (u == 1 && op == 0x060)

/-- The loads and stores that a port may mark (15 R350, R366). -/
def nyPortKind (u op : Nat) : Option Bool :=
  if u = 2 ∧ 0x010 ≤ op ∧ op ≤ 0x019 then some (op % 2 == 1)
  else if u = 5 ∧ op = 0x010 then some false else if u = 5 ∧ op = 0x011 then some true else none

/-- The bits of LOW that an operation's form uses (15 R354): 28 in form I, 20 in forms M and TG, and of form T 20 where
the C field holds modifiers; 12 otherwise. -/
def nyLowBits (u op : Nat) : Nat :=
  if (u = 0 ∧ op ∈ [0x014, 0x025, 0x026, 0x027, 0x041, 0x045, 0x046]) ∨ (u = 4 ∧ op = 0x013) then 28
  else if u = 2 ∨ (u = 3 ∧ 0x028 ≤ op ∧ op ≤ 0x02A) ∨ (u = 6 ∧ op = 0x012) then 20
  else if (u = 5 ∧ op = 0x012) ∨ (u = 7 ∧ (op = 0x012 ∨ op = 0x01C)) then 12
  else if 5 ≤ u then 20 else 12

/-- A slot word from its fields, alone in its bundle (03 R42, R44). -/
def slotWord (u op gc gk d a b c low : Nat) : Nat :=
  2 ^ 63 + field u 60 3 + field op 50 10 + field gc 48 2 + field gk 44 4 + field d 36 8 + field a 28 8 + field b 20 8
    + field c 12 8 + low
where
  /-- a field placed at its low bit -/
  field (x lo w : Nat) : Nat := (x % 2 ^ w) * 2 ^ lo

/-- What a slot word encodes, a NOP where nothing. -/
def wordInstr (w : Nat) : Instr :=
  match decodeSlot (BitVec.ofNat 64 w) with
  | .ok i => i
  | .error _ => .nop 0 0

/-- A record's native word with its register fields zero (15 R354). -/
def NyRec.template (r : NyRec) : Nat := slotWord r.unit r.opc r.gc r.gk 0 0 0 0 r.low

/-- The defect of a record by itself; LOOP and CARRY have no bits in LOW, and of a port's id alone in RD (15 R353, R354). -/
def NyRec.defect (r : NyRec) : Option Nat :=
  if r.junk ∨ (r.keep && !r.port) ∨ (r.port && !r.ext) ∨ (!r.isOp && (r.low != 0 || (r.rd != 0 && !r.port))) then some 0x1C1
  else if r.isOp then
    if (decodeSlot (BitVec.ofNat 64 (slotWord r.unit r.opc 0 0 0 0 0 0 0))).toOption.isNone ∨ nyBarred r.unit r.opc
        ∨ r.low / 2 ^ nyLowBits r.unit r.opc ≠ 0 then some 0x1C1
    else none
  else none

/-- Whether a port's record is no load or store (15 R350, 0x1CB). -/
def NyRec.portBad (r : NyRec) : Bool := r.port && (!r.isOp || (nyPortKind r.unit r.opc).isNone)

/-! ### Sections and loops (15 R355, R356) -/

/-- A record in its place: whether it stands in tile code, which section of the image it stands in, and the LOOPs around
it, innermost first. -/
structure NyNode where
  r : NyRec
  tile : Bool
  sec : Nat
  encl : List Nat
deriving DecidableEq, Repr

/-- The walk over the records: open loops, side, section, whether a CARRY may stand here, the nodes last first, and the
defects. -/
structure NyWalk where
  stack : List Nat := []
  tile : Bool := false
  sec : Nat := 0
  head : Bool := false
  nodes : List NyNode := []
  bad : List (Nat × Nat) := []
deriving DecidableEq, Repr

/-- One record of the walk; any record but ENDLOOP may carry a guard (15 R355, R356). -/
def NyWalk.step (k : NyWalk) (r : NyRec) : NyWalk :=
  let p := k.nodes.length
  let err := fun (b : Bool) (c : Nat) => if b then [(c, p)] else []
  if r.op = nyLoop then
    { k with
      stack := p :: k.stack, head := true, nodes := ⟨r, k.tile, k.sec, k.stack⟩ :: k.nodes,
      bad := k.bad ++ err (decide (8 ≤ k.stack.length) || r.d2 != 0 || r.d3 != 0) 0x1C2 }
  else if r.op = nyCarry then
    { k with
      nodes := ⟨r, k.tile, k.sec, k.stack⟩ :: k.nodes,
      bad := k.bad ++ err (!k.head || r.d3 != 0) 0x1C2 }
  else if r.op = nyEnd then
    let side := match k.stack with
      | [] => false
      | l :: _ => (k.nodes.reverse[l]?).any (fun n => n.tile == k.tile && n.sec == k.sec || !k.tile && !n.tile)
    { k with
      stack := k.stack.tail, head := false, nodes := ⟨r, k.tile, k.sec, k.stack⟩ :: k.nodes,
      bad := k.bad ++ err (!side || r != nyFields (nyEnd * 2 ^ 51)) 0x1C2 }
  else
    let u := r.unit
    let hatch := u == 3 && r.opc == 0x038
    let out := u == 4 && r.opc == 0x025
    { k with
      tile := if hatch then true else if out then false else k.tile,
      sec := if hatch || out then k.sec + 1 else k.sec, head := false,
      nodes := ⟨r, k.tile, k.sec, k.stack⟩ :: k.nodes,
      bad := k.bad ++ err (decide (4 ≤ u) != k.tile) 0x1C1 }

/-- The nodes of a run of records, or the first defect: the lowest cause, and of it the first position. -/
def nyWalk (rs : List NyRec) : List NyNode × List (Nat × Nat) :=
  let k := rs.foldl NyWalk.step {}
  let own := (rs.zip (List.range rs.length)).filterMap (fun p => p.1.defect.map (fun c => (c, p.2)))
  (k.nodes.reverse, own ++ k.bad ++ k.stack.map (fun l => (0x1C2, l)) ++ (if k.tile then [(0x1C1, rs.length - 1)] else []))

/-- The first of a list of defects: the lowest cause, then the lowest position (log 25, DEDUCED). -/
def nyFirstBad (l : List (Nat × Nat)) : Option (Nat × Nat) :=
  (sortBy (fun (a b : Nat × Nat) => decide (a.1 < b.1) || (a.1 == b.1 && decide (a.2 < b.2))) l).head?

/-- A node by position. -/
def nyAt (ns : List NyNode) (p : Nat) : NyNode := (ns[p]?).getD ⟨nyFields 0, false, 0, []⟩

/-- The ENDLOOP of a LOOP. -/
def nyEndOf (ns : List NyNode) (l : Nat) : Nat :=
  match (List.range ns.length).find? (fun i => (nyAt ns i).r.op == nyEnd && (nyAt ns i).encl.head? == some l) with
  | some e => e
  | none => ns.length

/-! ### Values and operands (15 R355) -/

/-- Where a value is held: v, k, q, tile or gather latch. -/
inductive NyCls where
  | v | k | q | t | g
deriving DecidableEq, Repr

/-- What an operand names: the value of a position, or a register code. -/
inductive NyOpr where
  | val (p : Nat)
  | code (c : Nat)
deriving DecidableEq, Repr

/-- What the loader decodes a kernel's words against: the directives, every tile and hatch tile, and no launch-time
state (15 R350, R358). -/
def loaderEnv (loft : Bool) (regs kregs width : Nat) (shadow : Option (Nat × Nat)) : DecodeEnv :=
  { loft := loft, regs := regs, kregs := kregs, width := width, shadow := shadow, tiles := 64, hatch := 0xFF, beatMul := 0,
    fslots := [] }

/-- What the checks of a record's fields give, with its register fields zero. -/
def NyRec.sig (width : Nat) (r : NyRec) : Sig := (wordInstr r.template).sig (loaderEnv (decide (4 ≤ r.unit)) 192 48 width none)

/-- Whether a field's operand is read, given whether an accumulator is (09 R219). -/
def nyReadsField (acc : Bool) : Opnd → Bool
  | .src _ | .regSrc _ | .upd _ | .vSrcQuad | .regQuad | .maskSrc | .chkA _ | .chkB _ | .qSrc | .qReg | .qRegOrZero | .qPair
  | .qMovA _ | .tSrc | .tLatch => true
  | .accDst | .tUpd => acc
  | _ => false

/-- The width an operand needs, in registers. -/
def nyWidth : Opnd → Nat
  | .src p | .regSrc p | .upd p | .dst p | .vDst p => regCount p
  | .vSrcQuad | .vDstQuad | .regQuad => 4
  | .qMovA true | .qPair => 2
  | _ => 1

/-- The classes of values that an operand accepts (03 R53, R55; 08 R196; 09 R214). -/
def nyAccepts : Opnd → List NyCls
  | .src _ | .regSrc _ | .upd _ | .regQuad => [.v, .k]
  | .vSrcQuad => [.v]
  | .qSrc => [.q, .k]
  | .qReg | .qRegOrZero | .qPair => [.q]
  | .qMovA p => if p then [.k] else [.q, .k]
  | .tSrc | .tUpd | .accDst => [.t]
  | .tLatch => [.t, .g]
  | _ => []

/-- The class and width of what a destination field produces (15 R355), but for a q record's W64. -/
def nyMakes : Opnd → Option (NyCls × Nat)
  | .dst p | .upd p | .vDst p => some (.v, regCount p)
  | .vDstQuad => some (.v, 4)
  | .qDst => some (.q, 1)
  | .tDst | .tUpd | .accDst => some (.t, 1)
  | .latchDst => some (.g, 1)
  | _ => none

/-- The class and width of what a record's D produces: a q record with W64 makes the pair that a TCP's descriptor needs, its D
zero-extended (15 R353, R355; log 26, DEDUCED). -/
def NyRec.makes (width : Nat) (r : NyRec) : Option (NyCls × Nat) :=
  match nyMakes (r.sig width).d.1 with
  | some (.q, _) => some (.q, if r.w64 then 2 else 1)
  | x => x

/-- Whether a record reads the tile its D names: TMMA without ZA, TGEMM and TRESUME, and a reduction with ACC (09 R219,
R221; 10 R248, R249; log 26, DEDUCED). -/
def NyRec.readsAcc (r : NyRec) : Bool :=
  if r.unit = 6 ∧ r.opc = 0x010 then !natBit r.low 12
  else if r.unit = 7 then decide (0x016 ≤ r.opc) && decide (r.opc ≤ 0x018) && natBit r.low 15
  else true

/-- The fields a record reads, in operand order: field number (0 D, 1 A, 2 B, 3 C) and role. -/
def NyRec.reads (width : Nat) (r : NyRec) : List (Nat × Opnd) :=
  ((List.range 4).zip ((r.sig width).fields.map Prod.fst)).filter (fun f => nyReadsField r.readsAcc f.2)

/-- Distances and codes of a record's operands. -/
def NyRec.dists (r : NyRec) : List Nat := [r.d1, r.d2, r.d3]
def NyRec.codes (r : NyRec) : List Nat := [r.ra, r.rb, r.rc]

/-- The class and width of a record's value; a tile CARRY carries what its first operand is (15 R355, R356). -/
def nyValue (width : Nat) (vals : List (Option (NyCls × Nat))) (n : NyNode) : Option (NyCls × Nat) :=
  let r := n.r
  let p := vals.length
  if r.op = nyLoop then some (if n.tile then .q else .v, 1)
  else if r.op = nyCarry then
    if n.tile then
      let t := if r.d1 = 0 then decide (128 ≤ r.ra) && decide (r.ra < 136)
        else (vals[p - r.d1]?).any (fun v => v == some (.t, 1))
      some (if t then (.t, 1) else (.q, if r.w64 then 2 else 1))
    else some (.v, if r.w64 then 2 else 1)
  else if r.op = nyEnd then none
  else r.makes width

/-- Every record's value. -/
def nyValues (width : Nat) (ns : List NyNode) : List (Option (NyCls × Nat)) :=
  ns.foldl (fun vs n => vs ++ [nyValue width vs n]) []

/-- Whether an operation reads or writes the cc that its CI names (05 R109; 15 R357). -/
def NyRec.readsCc (r : NyRec) : Bool := r.unit == 0 && (r.opc == 0x012 || r.opc == 0x013 || r.opc == 0x043 || r.opc == 0x048)

/-- The cc, or in tile code the lf, that a record writes. -/
def NyRec.ccWritten (r : NyRec) : Option Nat :=
  if !r.isOp then none
  else if r.unit = 0 ∧ r.opc = 0x041 then some (r.rd % 4)
  else if (r.unit = 0 ∨ r.unit = 1 ∨ r.unit = 4) ∧ nyLowBits r.unit r.opc = 12 ∧ natBit r.low 11 then some (natBits r.low 10 9)
  else none

/-- The cc registers that a record uses. -/
def NyRec.ccUsed (r : NyRec) : List Nat :=
  if !r.isOp then []
  else (if r.gk = 0 then [] else [r.gc]) ++ r.ccWritten.toList ++ (if r.readsCc then [natBits r.low 10 9] else [])

/-- A use of a value: whose, at which position it is last needed, and from tile code. -/
structure NyUse where
  val : Nat
  at_ : Nat
  tile : Bool
deriving DecidableEq, Repr

/-- The position up to which a value used at a position must live: the end of every loop around the use that the value
stands outside of. -/
def nyUpTo (ns : List NyNode) (t at_ : Nat) (encl : List Nat) : Nat :=
  encl.foldl (fun u l => if l ∈ (nyAt ns t).encl then u else max u (nyEndOf ns l)) at_

/-- Whether a guard holds only where another does (03 R45). -/
def nyImplies (gc gk gc' gk' : Nat) : Bool :=
  gk' == 0 || (gc == gc' && (List.range 16).all (fun f => !condHolds gk (BitVec.ofNat 4 f) || condHolds gk' (BitVec.ofNat 4 f)))

/-- The defects of one operand named by distance, from a base position, for a reader at a position inside given loops
(15 R355 to R357). carry says that it is a CARRY's next value. A guarded LOOP's index is there wherever its body runs. -/
def nyNameBad (ns : List NyNode) (vals : List (Option (NyCls × Nat))) (p base d : Nat) (encl : List Nat) (carry : Bool)
    (need : Nat) (accepts : List NyCls) : List (Nat × Nat) :=
  if base < d then [(0x1C1, p)]
  else
    let t := base - d
    let n := nyAt ns t
    let m := nyAt ns p
    match (vals[t]?).join with
    | none => [(0x1C1, p)]
    | some (c, w) =>
      let inner := if n.r.op = nyCarry then n.encl.tail else if n.r.op = nyLoop then t :: n.encl else n.encl
      let kOk := c == .v && n.r.unif && m.tile && .k ∈ accepts && decide (w ≤ 2)
      let same := if n.tile then n.tile == m.tile && (c == .t || n.sec == m.sec) && decide (c ∈ accepts)
        else if m.tile then kOk else decide (c ∈ accepts)
      (if inner.all (fun l => l ∈ encl) then [] else [(0x1C2, p)])
        ++ (if same && w == need && n.r.w64 == (w == 2) then [] else [(0x1C1, p)])
        ++ (if n.r.gk = 0 || carry || n.r.op = nyLoop then []
            else
              let upto := encl.foldl (fun u l => if l ∈ n.encl then u else max u (nyEndOf ns l)) p
              let cut := (List.range ns.length).any (fun i => decide (t ≤ i) && decide (i < upto) &&
                (nyAt ns i).r.ccWritten == some n.r.gc && (nyAt ns i).tile == n.tile)
              if nyImplies m.r.gc m.r.gk n.r.gc n.r.gk && !cut then [] else [(0x1C1, p)])

/-- Whether a register code may stand in an extension (15 R354). -/
def nyCodeOk (tile : Bool) (c : Nat) : Bool :=
  (decide (192 ≤ c) && decide (c < 196)) || (if tile then
    (decide (48 ≤ c) && decide (c < 64)) || (decide (128 ≤ c) && decide (c < 136)) || crewInvariant (BitVec.ofNat 8 c)
  else decide (240 ≤ c))

/-- Whether a code is one that the operand's field, or a copy of it, takes (03 R54, R55; 15 R354). -/
def nyCodeFits (width : Nat) (tile : Bool) (role : Opnd) (c : Nat) : Bool :=
  let env := loaderEnv tile 192 48 width none
  let x := BitVec.ofNat 8 c
  match role with
  | .regSrc p | .upd p => Opnd.legal env x (.src p)
  | .vSrcQuad | .regQuad => c == 192 || c == 240
  | .accDst | .tUpd => Opnd.legal env x .tSrc
  | _ => role.legal env x

/-- MSET, whose mask operand is a pair at width 64: there its register code may be odd here, and is then a 0x1CA (15 R358). -/
def NyRec.isMset (r : NyRec) : Bool := r.unit == 3 && r.opc == 0x018 && r.isOp

/-- Whether a record is an MSET of an odd register at width 64 (15 R358). -/
def NyRec.oddMask (width : Nat) (r : NyRec) : Bool := width == 64 && r.isMset && r.d1 == 0 && r.ra % 2 == 1 && decide (r.ra < 240)

/-- The defects of one operand of an operation. -/
def nyOperandBad (width : Nat) (ns : List NyNode) (vals : List (Option (NyCls × Nat))) (p : Nat) (role : Opnd) (d c : Nat) :
    List (Nat × Nat) :=
  let n := nyAt ns p
  let width := if n.r.isMset && d == 0 then 32 else width
  let role := if n.r.isMset && d == 0 then .src false else role
  if role = .maskSrc then if d ≠ 0 ∨ 11 < c then [(0x1C1, p)] else []
  else if d = 0 then if nyCodeOk n.tile c && nyCodeFits width n.tile role c then [] else [(0x1C1, p)]
  else nyNameBad ns vals p p d n.encl false (nyWidth role) (nyAccepts role)

/-- What RD may hold (15 R354): a mask index, ICMPI's cc, a port id, or a latch's number for TGAT (log 26, DEDUCED). -/
def nyRdOk (width : Nat) (r : NyRec) : Bool :=
  r.port || (r.unit == 0 && r.opc == 0x041 && decide (r.rd < 4)) || r.rd == 0 || (r.sig width).d.1 == .maskDst
    || ((r.sig width).d.1 == .latchDst && r.rd == 1)

/-- A code that a field of each role takes, for a record whose own registers are not chosen yet. -/
def nyDummy : Opnd → Nat
  | .maskDst => 1
  | .latchDst => 40
  | .tDst | .tSrc | .tUpd | .accDst | .tLatch => 64
  | .lcUpd => 32
  | .qMovA true => 192
  | _ => 0

/-- The thread-side or Loft-side defect of a word: one whose fields no native instruction accepts (03 R62; 15 R353; log 25,
DEDUCED). -/
def wordBad (regs kregs width : Nat) (shadow : Option (Nat × Nat)) (w : Nat) : Bool :=
  (bundleDefect (loaderEnv (decide (4 ≤ natBits w 62 60)) regs kregs width shadow) [BitVec.ofNat 64 w]).isSome

/-- Whether no native word could carry a record's modifiers, whatever registers it is given. -/
def NyRec.wordless (width : Nat) (r : NyRec) : Bool :=
  let d := fun (i : Nat) => nyDummy ((r.sig width).fields.getD i (.unused, 0)).1
  let base := slotWord r.unit r.opc r.gc r.gk (d 0) (d 1) (d 2) 0
  wordBad 192 48 width none (base r.low + (if nyLowBits r.unit r.opc = 12 then d 3 * 2 ^ 12 else 0))

/-- The defects of a record's operands (15 R354 to R357). -/
def nyRecBad (width : Nat) (ns : List NyNode) (vals : List (Option (NyCls × Nat))) (p : Nat) : List (Nat × Nat) :=
  let n := nyAt ns p
  let r := n.r
  if r.op = nyLoop then
    if r.d1 = 0 then if nyCodeOk n.tile r.ra then [] else [(0x1C1, p)]
    else nyNameBad ns vals p p r.d1 n.encl false 1 (if n.tile then [.q, .k] else [.v, .k])
  else if r.op = nyEnd then []
  else if r.op = nyCarry then
    match n.encl with
    | [] => []
    | l :: up =>
      let e := nyEndOf ns l
      let w := match (vals[p]?).join with | some (_, w) => w | none => 1
      let cs := match (vals[p]?).join with | some (.t, _) => [NyCls.t] | _ => if n.tile then [.q, .k] else [.v, .k]
      let pair := w == 2 && decide (r.ra < 240) && r.ra % 2 == 1
      (if r.d1 = 0 then if nyCodeOk n.tile r.ra && !pair then [] else [(0x1C1, p)]
        else if l ≤ p - r.d1 ∧ r.d1 ≤ p then [(0x1C2, p)]
        else nyNameBad ns vals p p r.d1 up false w cs)
      ++ (if r.d2 = 0 ∨ e < r.d2 ∨ e - r.d2 ≤ l then [(0x1C2, p)]
        else nyNameBad ns vals p e r.d2 n.encl true w cs)
  else
    let rs := r.reads width
    let g := r.sig width
    let mask := g.d.1 != .maskDst || (decide (1 ≤ r.rd) && decide (r.rd ≤ 11))
    (if nyRdOk width r && mask && g.mod && g.res && !r.wordless width then [] else [(0x1C1, p)])
      ++ (if (r.dists.drop rs.length).all (· == 0) then [] else [(0x1C1, p)])
      ++ (rs.zip (r.dists.zip r.codes)).flatMap (fun x => nyOperandBad width ns vals p x.1.2 x.2.1 x.2.2)

/-- What an operand names. -/
def nyOpr (base d c : Nat) : NyOpr := if d = 0 then .code c else .val (base - d)

/-- The values a record uses, with how long each is needed; a port's operands live to the end of its outermost loop
(log 28, DESIGN CHOICE). -/
def nyUses (width : Nat) (ns : List NyNode) (p : Nat) : List NyUse :=
  let n := nyAt ns p
  let r := n.r
  let use := fun (base d upto : Nat) (encl : List Nat) =>
    if d = 0 then [] else [(⟨base - d, nyUpTo ns (base - d) upto encl, n.tile⟩ : NyUse)]
  if r.op = nyLoop then use p r.d1 (nyEndOf ns p) n.encl
  else if r.op = nyEnd then []
  else if r.op = nyCarry then
    match n.encl with
    | [] => []
    | l :: up => use p r.d1 l up ++ use (nyEndOf ns l) r.d2 (nyEndOf ns l) n.encl
  else
    let upto := if r.port then match n.encl.getLast? with | some l => nyEndOf ns l | none => p else p
    ((r.reads width).zip r.dists).flatMap (fun x => if x.1.2 = .maskSrc then [] else use p x.2 upto n.encl)

/-! ### Lifetimes and registers (15 R357; log 27, DESIGN CHOICE) -/

/-- A value to be held: its name (a position, or a number of the translator's from 2^20 on), class, width, and the
positions it lives from and to. -/
structure NyLife where
  id : Nat
  cls : NyCls
  n : Nat
  first : Nat
  last : Nat
deriving DecidableEq, Repr

/-- Names of the translator's own values: a loop's saved cc or trips left (0), a tile loop's constant 1 (1), a copy of an
operand (2 to 5), a CARRY's next value read ahead (6). -/
def nyTemp (kind p : Nat) : Nat := 2 ^ 20 + 8 * p + kind

/-- The values that a CARRY names as next and whose record is guarded: they hold the initial value until the record acts. -/
def nyHeld (ns : List NyNode) : List (Nat × Nat) :=
  (List.range ns.length).filterMap (fun c =>
    let n := nyAt ns c
    match n.encl with
    | [] => none
    | l :: _ =>
      let t := nyEndOf ns l - n.r.d2
      if n.r.op = nyCarry ∧ (nyAt ns t).r.gk ≠ 0 ∧ (nyAt ns t).r.isOp then some (t, c) else none)

/-- An analysed kernel: its directives, its nodes and values, uses, and the free cc that loop tests use. -/
structure NyKernel where
  regs : Nat
  kregs : Nat
  width : Nat
  shadow : Option (Nat × Nat)
  /-- v registers that layout maps take, which hold no value -/
  maps : List Nat
  nodes : List NyNode
  vals : List (Option (NyCls × Nat))
  uses : List NyUse
  test : Option Nat
deriving DecidableEq, Repr

/-- A node of a kernel. -/
def NyKernel.at_ (k : NyKernel) (p : Nat) : NyNode := nyAt k.nodes p
/-- Its LOOP's end. -/
def NyKernel.endOf (k : NyKernel) (l : Nat) : Nat := nyEndOf k.nodes l
/-- Whether any record names a value. -/
def NyKernel.named (k : NyKernel) (p : Nat) : Bool := k.uses.any (fun u => u.val == p)
/-- Whether a thread loop's trip count is the constant 1, of an LI without a guard: it needs no test (15 R357). -/
def NyKernel.once (k : NyKernel) (l : Nat) : Bool :=
  let n := k.at_ l
  let t := (k.at_ (l - n.r.d1)).r
  !n.tile && n.r.d1 != 0 && t.op == 0x045 && t.gk == 0 && t.low == 1
/-- The last position that needs a value. -/
def NyKernel.lastUse (k : NyKernel) (p : Nat) : Nat := ((k.uses.filter (fun u => u.val == p)).map (fun u => u.at_)).foldl max p

/-- The class of a value: a uniform one that tile code names is held in a k register, which tile code can read (15 R353). -/
def NyKernel.clsOf (k : NyKernel) (p : Nat) : Option (NyCls × Nat) :=
  match (k.vals[p]?).join with
  | some (.v, w) => some (if (k.at_ p).r.unif && k.uses.any (fun u => u.val == p && u.tile) then .k else .v, w)
  | x => x

/-- Whether an operand is a k register as held. -/
def NyKernel.inK (k : NyKernel) : NyOpr → Bool
  | .code c => decide (192 ≤ c) && decide (c < 240)
  | .val p => (k.clsOf p).any (fun x => x.1 == .k)

/-- The operands of an operation: field, role and what each names. -/
def NyKernel.oprs (k : NyKernel) (p : Nat) : List (Nat × Opnd × NyOpr) :=
  let r := (k.at_ p).r
  ((r.reads k.width).zip (r.dists.zip r.codes)).map (fun x => (x.1.1, x.1.2, nyOpr p x.2.1 x.2.2))

/-- The fields that need a copy of their operand in a v register: k reads beyond the second (03 R64), a store's or an
atomic's special datum. -/
def NyKernel.copied (k : NyKernel) (p : Nat) : List (Nat × Opnd × NyOpr) :=
  if (k.at_ p).tile then [] else
  let os := k.oprs p
  let ks := (os.filter (fun o => k.inK o.2.2)).drop 2
  os.filter (fun o => decide (o ∈ ks) || (match o.2.1, o.2.2 with
    | .regSrc _, .code c => decide (240 ≤ c)
    | .vSrcQuad, .code _ => true
    | .regQuad, .code c => decide (196 ≤ c)
    | _, _ => false))

/-- Whether a record updates its destination in place: it reads and writes the register in D. -/
def NyKernel.updates (k : NyKernel) (p : Nat) : Option NyOpr :=
  let r := (k.at_ p).r
  if !r.isOp ∨ (r.makes k.width).isNone then none
  else ((k.oprs p).find? (fun o => o.1 == 0)).map (fun o => o.2.2)

/-- The lives of a kernel's values, its loops' own and its copies'. -/
def NyKernel.lives (k : NyKernel) : List NyLife :=
  let held := nyHeld k.nodes
  let own := (List.range k.nodes.length).filterMap (fun p =>
    let n := k.at_ p
    if n.r.op = nyLoop ∧ k.once p ∧ !k.named p then none
    else (k.clsOf p).map (fun x =>
      let loop := if n.r.op = nyLoop then some p else if n.r.op = nyCarry then n.encl.head? else none
      let start := match loop with | some l => l | none => p
      let stop := match loop with | some l => max (k.lastUse p) (k.endOf l) | none => k.lastUse p
      match held.find? (fun h => h.1 == p) with
      | some h => (⟨p, x.1, x.2, (k.at_ h.2).encl.headD start, stop⟩ : NyLife)
      | none => ⟨p, x.1, x.2, start, stop⟩))
  let temps := (List.range k.nodes.length).flatMap (fun p =>
    let n := k.at_ p
    if n.r.op = nyLoop then
      if n.tile then [(⟨nyTemp 0 p, .q, 1, p, k.endOf p⟩ : NyLife), ⟨nyTemp 1 p, .q, 1, p, k.endOf p⟩]
      else if k.test.isNone && !k.once p then [⟨nyTemp 0 p, .v, 1, p, k.endOf p⟩] else []
    else if n.r.op = nyCarry then
      match n.encl.head?, k.clsOf p with
      | some l, some x =>
        let t := k.endOf l - n.r.d2
        if (k.at_ t).r.op = nyCarry ∧ t ≠ p ∧ (k.at_ t).encl = n.encl then [⟨nyTemp 6 p, x.1, x.2, k.endOf l, k.endOf l⟩] else []
      | _, _ => []
    else if n.r.isOp then (k.copied p).map (fun o => ⟨nyTemp (2 + o.1) p, .v, nyWidth o.2.1, p, p⟩)
    else [])
  own ++ temps

/-- The tile whose register a tile value takes over: the operand that its record updates, where nothing needs that operand's
value later; a CARRY's initial value, on the same terms, or where only CARRYs of its loop take it, the first of them (log 27,
DESIGN CHOICE). -/
def NyKernel.takesOver (k : NyKernel) (p : Nat) : Option Nat :=
  let n := k.at_ p
  let held := nyHeld k.nodes
  if k.clsOf p ≠ some (.t, 1) then none
  else
    let t := if n.r.op = nyCarry then if n.r.d1 = 0 then none else some (p - n.r.d1, n.encl.headD p)
      else match k.updates p with
        -- one that holds a CARRY's value where its guard fails takes over from that CARRY alone
        | some (.val t) => if held.any (fun h => h.1 == p) && decide ((p, t) ∉ held) then none else some (t, p)
        | _ => none
    match t with
    | none => none
    | some (t, at_) =>
      -- a CARRY is needed in its loop only up to its last use there; after the loop its register holds the next value
      let inLoop := k.uses.filter (fun u => u.val == t && !((k.at_ t).r.op == nyCarry &&
        (k.at_ t).encl.head?.any (fun l => decide (k.endOf l < u.at_))))
      let first := n.r.op == nyCarry && (List.range p).all (fun q => let m := k.at_ q
        !(m.r.op == nyCarry && m.encl == n.encl && m.r.d1 != 0 && q - m.r.d1 == t))
      if inLoop.all (fun u => decide (u.at_ ≤ at_)) && (first || (inLoop.filter (fun u => u.at_ == at_)).length == 1) then some t else none

/-- The first of the values that a tile value takes over from. -/
def NyKernel.rootOf (k : NyKernel) : Nat → Nat → Nat
  | 0, p => p
  | n + 1, p => match k.takesOver p with
    | none => p
    | some t => k.rootOf n t

/-- The CARRY whose register the first tile of its next value's chain takes: nothing in the loop needs the CARRY, or what has
taken it over, once that tile is written (log 27, DESIGN CHOICE). -/
def NyKernel.nextOf (k : NyKernel) (w : Nat) : Option Nat :=
  let root := k.rootOf k.nodes.length
  let r := (k.at_ w).r
  -- a loop nest's accumulators keep their own place
  if k.clsOf w ≠ some (.t, 1) ∨ (k.takesOver w).isSome ∨ (r.unit = 6 ∧ r.opc = 0x012) ∨ (r.unit = 4 ∧ r.opc = 0x026) then none
  else (List.range w).find? (fun c =>
    let n := k.at_ c
    match n.encl with
    | [] => false
    | l :: _ =>
      let e := k.endOf l
      n.r.op == nyCarry && n.tile && decide (w < e) && k.clsOf c == some (.t, 1) && root (e - n.r.d2) == w
        && k.uses.all (fun u => decide (u.at_ ≤ w) || decide (e < u.at_) || k.clsOf u.val != some (.t, 1) || root u.val != root c)
        && (List.range e).all (fun q => decide (q ≤ c) || (k.at_ q).r.op != nyCarry || k.clsOf q != some (.t, 1) || root q != root c
            || decide (k.endOf ((k.at_ q).encl.headD 0) ≤ w)))

/-- The tile whose register a tile value takes (log 27, DESIGN CHOICE). -/
def NyKernel.inPlace (k : NyKernel) (p : Nat) : Option Nat := k.takesOver p <|> k.nextOf p

/-- The value whose register each tile value shares, found back through in-place updates. -/
def NyKernel.webOf (k : NyKernel) : Nat → Nat → Nat
  | 0, p => p
  | n + 1, p => match k.inPlace p with
    | none => p
    | some t => k.webOf n t

/-- Lives with the tiles that share a register made one. -/
def NyKernel.webs (k : NyKernel) : List NyLife :=
  k.lives.foldl (fun acc x =>
    if x.cls ≠ .t then acc ++ [x]
    else
      let w := if x.id < 2 ^ 20 then k.webOf k.nodes.length x.id else x.id
      if acc.any (fun y => y.id == w) then
        acc.map (fun y => if y.id == w then { y with first := min y.first x.first, last := max y.last x.last } else y)
      else acc ++ [{ x with id := w }]) []

/-- Whether a tile web is a loop nest's accumulators, which run on from their first tile (09 R223). -/
def NyKernel.nestWeb (k : NyKernel) (w : Nat) : Bool :=
  (List.range k.nodes.length).any (fun p =>
    let r := (k.at_ p).r
    ((r.unit == 6 && r.opc == 0x012) || (r.unit == 4 && r.opc == 0x026)) && r.isOp && k.webOf k.nodes.length p == w)

/-- The registers a value of a class may take. -/
def NyKernel.avail (k : NyKernel) (c : NyCls) (n : Nat) : List Nat :=
  let fit := fun (lo hi : Nat) => (List.range hi).filter (fun r => decide (lo ≤ r) && decide (r + n ≤ hi) && r % n == 0)
  match c with
  | .v => (fit 0 k.regs).filter (fun r => (List.range n).all (fun i =>
      decide ((r + i) ∉ k.maps) && !(k.shadow.any (fun s => decide (s.1 ≤ r + i) && decide (r + i ≤ s.2)))))
  | .k => fit 4 k.kregs
  | .q => fit 0 32
  | .t => List.range 64
  | .g => [0, 1]

/-- A value with its first register. -/
structure NyReg where
  life : NyLife
  base : Nat
  /-- registers it keeps from others -/
  span : Nat
deriving DecidableEq, Repr

/-- Whether a register run is free of the values that live at the same time. -/
def nyFree (done : List NyReg) (x : NyLife) (r n : Nat) : Bool :=
  done.all (fun y => y.life.cls != x.cls || decide (y.life.last < x.first) || decide (x.last < y.life.first)
    || decide (r + n ≤ y.base) || decide (y.base + y.span ≤ r))

/-- One value given the first registers free for its whole life; a loop nest's accumulators, every tile from theirs on. -/
def NyKernel.give (k : NyKernel) (done : List NyReg) (x : NyLife) : Except (Nat × Nat) (List NyReg) :=
  let nest := x.cls == .t && k.nestWeb x.id
  match (k.avail x.cls x.n).find? (fun r => nyFree done x r (if nest then 64 - r else x.n)) with
  | some r => .ok (done ++ [⟨x, r, if nest then 64 - r else x.n⟩])
  | none => .error (0x1C9, x.first)

/-- Every value given its registers, in the order the values begin, loop nests last. -/
def NyKernel.allot (k : NyKernel) : Except (Nat × Nat) (List NyReg) :=
  let ws := sortBy (fun (a b : NyLife) => decide (a.first < b.first)) k.webs
  let nest := fun (x : NyLife) => x.cls == .t && k.nestWeb x.id
  (ws.filter (fun x => !nest x) ++ ws.filter nest).foldl (fun a x => match a with
    | .error e => .error e
    | .ok d => k.give d x) (.ok [])

/-- The first register of a value. -/
def NyKernel.regOf (k : NyKernel) (rs : List NyReg) (id : Nat) : Nat :=
  let w := if id < 2 ^ 20 ∧ k.clsOf id = some (.t, 1) then k.webOf k.nodes.length id else id
  match rs.find? (fun x => x.life.id == w) with
  | some x => x.base
  | none => 0

/-- An analysed kernel from its records and directives, or the first defect of 15 R353 to R357: the lowest cause of all. -/
def nyAnalyse (rs : List NyRec) (regs kregs width : Nat) (shadow : Option (Nat × Nat)) (maps : List Nat) :
    Except (Nat × Nat) NyKernel :=
  let (ns, bad) := nyWalk rs
  let vals := nyValues width ns
  match nyFirstBad (bad ++ (List.range ns.length).flatMap (nyRecBad width ns vals)) with
  | some e => .error e
  | none =>
    let used := (ns.filter (fun n => !n.tile)).flatMap (fun n => n.r.ccUsed)
    .ok { regs := regs, kregs := kregs, width := width, shadow := shadow,
          maps := if ns.any (fun n => n.r.isOp && n.r.unit == 3 && n.r.opc == 0x038) then maps else [], nodes := ns, vals := vals,
          uses := (List.range ns.length).flatMap (nyUses width ns),
          test := (List.range 4).find? (fun c => decide (c ∉ used)) }

end Sys2Proof.Machine
end

