-- ==== Sys2Proof/Machine/Translate.lean ====
section
/-! DEFINITION. The native code that the loader makes of Nyone, one slot a bundle: operations with the registers chosen
for them, loops, safe points with their live lists, and the duplicates of a shadow range (06 R156, R157; 15 R356 to R360;
logs 25 to 28). The same functions emit the two parts of a spliced kernel under the offsets of 15 R368. -/

namespace Sys2Proof.Machine

/-- A word of translated code: the record it stands for with a number within it, and for a safe point its live bitmap. -/
structure PWord where
  w : Nat
  key : Nat
  live : Option Nat := none
deriving DecidableEq, Repr

/-- How a kernel's values become registers: its allotment, and in a spliced kernel what 15 R368 changes of it. -/
structure NyCtx where
  k : NyKernel
  rs : List NyReg
  offV : Nat := 0
  offK : Nat := 0
  offT : Nat := 0
  offMap : Nat := 0
  /-- what is added to scratchpad and cubby offsets; codes of v registers that hold cc registers for the parts, and of further
  ones to add offsets in -/
  scratch : Nat := 0
  cubby : Nat := 0
  kept : List Nat := []
  extra : List Nat := []
  /-- the register that %launch reads become -/
  launch : Nat := 253
  /-- tile load ports with the producer's tile that stands for each -/
  tiles : List (Nat × Nat) := []
  /-- register load ports with the register of the producer's datum, and store ports, which stand elsewhere -/
  moved : List (Nat × Option Nat) := []
  /-- live bits of the other part, thread side and tile side -/
  liveV : Nat := 0
  liveT : Nat := 0
deriving DecidableEq, Repr

/-- The class of a value or translator's own name. -/
def NyCtx.clsOf (x : NyCtx) (id : Nat) : NyCls :=
  if id < 2 ^ 20 then match x.k.clsOf id with | some (c, _) => c | none => .v
  else match x.rs.find? (fun y => y.life.id == id) with | some y => y.life.cls | none => .v

/-- The code of a class's register. -/
def NyCtx.codeOf (x : NyCtx) (c : NyCls) (base : Nat) : Nat :=
  match c with
  | .v => base + x.offV
  | .k => 192 + base + x.offK
  | .q => base
  | .g => 40 + base
  | .t => 64 + base + x.offT

/-- The code of the register that holds a value. -/
def NyCtx.valCode (x : NyCtx) (id : Nat) : Nat :=
  match x.tiles.find? (fun e => e.1 == id) with
  | some e => e.2
  | none => x.codeOf (x.clsOf id) (x.k.regOf x.rs id)

/-- The code of what an operand names. -/
def NyCtx.code (x : NyCtx) : NyOpr → Nat
  | .val p => x.valCode p
  | .code c => if 192 ≤ c ∧ c < 196 then c + x.offK else if c = 253 then x.launch else c

/-- A guard: its cc and its condition. -/
abbrev NyGuard : Type := Nat × Nat
/-- The guard of a record. -/
def NyRec.guard (r : NyRec) : NyGuard := (r.gc, r.gk)

/-- A move of one, two or four v or k registers under a guard (05 R115). -/
def movWords (key : Nat) (g : NyGuard) (d a n : Nat) : List PWord :=
  if n = 1 then [⟨slotWord 0 0x044 g.1 g.2 d a 0 0 0, key, none⟩]
  else
    let one := fun (d a : Nat) => (⟨slotWord 0 0x044 g.1 g.2 d a 0 0 0x80, key, none⟩ : PWord)
    if n = 2 then [one d a] else [one d a, one (d + 2) (if 240 ≤ a then a else a + 2)]

/-- A TFENCE of every engine (08 R200). -/
def fenceWord (key : Nat) : PWord := ⟨slotWord 4 0x028 0 0 0 0 0 0 0, key, none⟩

/-- A tile copied: transposed twice, with every engine idle before, between and after; its sidecar is then zero
(08 R195, R205). -/
def tileCopy (key : Nat) (g : NyGuard) (d a : Nat) : List PWord :=
  let tx := fun (a : Nat) => (⟨slotWord 5 0x013 g.1 g.2 d a 0 0 127, key, none⟩ : PWord)
  [fenceWord key, tx a, fenceWord key, tx d, fenceWord key]

/-- A QMOV under a guard, of a pair two (08 R197). -/
def qmovWords (key : Nat) (g : NyGuard) (d a n : Nat) : List PWord :=
  (List.range n).map (fun i => ⟨slotWord 4 0x017 g.1 g.2 (d + i) (if 48 ≤ a then a else a + i) 0 0 0, key, none⟩)

/-- A value moved into a register of its class under a guard. -/
def moveTo (key : Nat) (g : NyGuard) (c : NyCls) (n d a : Nat) : List PWord :=
  if d = a then []
  else match c with
    | .v | .k => movWords key g d a n
    | .t => tileCopy key g d a
    | .q | .g => qmovWords key g d a n

/-- LI of a small constant into a v or k register, QLI into a q register (05 R116; 08 R197). -/
def setWord (key : Nat) (tile : Bool) (d x : Nat) : PWord :=
  ⟨slotWord (if tile then 4 else 0) (if tile then 0x013 else 0x045) 0 0 d 0 0 0 x, key, none⟩

/-- A record's LOW with its map index moved (15 R368). -/
def NyCtx.low (x : NyCtx) (r : NyRec) : Nat := if r.unit = 3 ∧ r.opc = 0x038 then r.low + x.offMap else r.low

/-! ### Scratchpad and cubby operands of a part that is moved (15 R368, step 2; log 28, DESIGN CHOICE of the words) -/

/-- How a record's scratchpad or cubby operands are moved: not; by an amount added to the address in A; of a CP, of a TCP, of
a gather, of a loop nest. -/
inductive NyShift where
  | none
  | a (n : Nat)
  | cp
  | tcp
  | gather
  | nest
deriving DecidableEq, Repr

/-- How a record's operands are moved by its part's offsets. -/
def NyCtx.shift (x : NyCtx) (r : NyRec) : NyShift :=
  let by_ := fun (h : NyShift) => if x.scratch = 0 then .none else h
  if !r.isOp then .none
  else if r.unit = 2 ∧ (r.opc = 0x014 ∨ r.opc = 0x015) then if x.cubby = 0 then .none else .a x.cubby
  else if (r.unit = 2 ∧ r.opc ∈ [0x012, 0x013, 0x018, 0x019, 0x020, 0x021, 0x028]) ∨ (r.unit = 5 ∧ r.opc ≤ 0x011 ∧ natBit r.low 15)
      ∨ (r.unit = 4 ∧ (r.opc = 0x023 ∨ r.opc = 0x024)) then by_ (.a x.scratch)
  else if r.unit = 3 ∧ r.opc = 0x030 ∧ natBits r.low 7 5 ≠ 0 then by_ .cp
  else if r.unit = 5 ∧ r.opc = 0x012 then by_ .tcp
  else if r.unit = 5 ∧ (r.opc = 0x014 ∨ r.opc = 0x015) then by_ .gather
  else if r.unit = 6 ∧ r.opc = 0x012 then by_ .nest
  else .none

/-- The sizes of the spare registers that a shift takes: of class q in tile code, else v. -/
def NyShift.sizes (h : NyShift) (r : NyRec) : List Nat :=
  match h with
  | .none => []
  | .a _ => [1]
  | .cp => (if natBit r.low 5 then [4] else []) ++ (if natBit r.low 6 then [2] else []) ++ (if natBit r.low 7 then [2] else [])
  | .tcp => [2, 1, 1, 1, 1]
  | .gather => [1, 1]
  | .nest => [1, 1, 1]

/-- Codes of spare registers for a record at a position: those of its own part's allotment that hold no value there, then the
further ones; none where there are too few. -/
def NyCtx.spares (x : NyCtx) (p : Nat) (c : NyCls) (sizes : List Nat) : Option (List Nat) :=
  let busy := fun (r n : Nat) => x.rs.any (fun y => y.life.cls == c && decide (y.life.first ≤ p) && decide (p ≤ y.life.last)
    && decide (r < y.base + y.span) && decide (y.base < r + n))
  let own := fun (n : Nat) => ((x.k.avail c n).filter (fun r => !busy r n)).map (x.codeOf c)
  let further := fun (n : Nat) => if c = .v then x.extra.filter (fun e => e % n == 0 && (List.range n).all (fun i => decide (e + i ∈ x.extra))) else []
  (sizes.foldl (fun (acc : Option (List (Nat × Nat))) n =>
    match acc with
    | none => none
    | some l =>
      (((own n ++ further n).find? (fun e => (List.range n).all (fun i => decide (c ≠ .v ∨ e + i ∉ x.kept))
        && l.all (fun y => decide (e + n ≤ y.1) || decide (y.1 + y.2 ≤ e)))).map (fun e => l ++ [(e, n)]))) (some [])).map (fun l => l.map Prod.fst)

/-- A word of unit Q with no modifiers. -/
def qWord (key op d a b : Nat) : PWord := ⟨slotWord 4 op 0 0 d a b 0 0, key, none⟩
/-- IADDI. -/
def addiWord (key d a n : Nat) : PWord := ⟨slotWord 0 0x014 0 0 d a 0 0 n, key, none⟩

/-- Bit i of a q register, times a number, in a spare one, with a second one to work in. -/
def bitTimes (key t u q i n : Nat) : List PWord :=
  [setWord key true u i, ⟨slotWord 4 0x014 0 0 t q u 0 1, key, none⟩, setWord key true u 1, qWord key 0x015 t t u,
    setWord key true u n, qWord key 0x012 t t u]

/-- The words that move a record's operands into spare registers with the part's offset added, and the codes of its fields
after them. -/
def NyCtx.shifted (x : NyCtx) (p : Nat) (field : Nat → Nat) : List PWord × (Nat → Nat) :=
  let r := (x.k.at_ p).r
  let tile := (x.k.at_ p).tile
  let h := x.shift r
  let key := 64 * p + 3
  let ts := (x.spares p (if tile then .q else .v) (h.sizes r)).getD []
  let t := fun (i : Nat) => ts.getD i 0
  let put := fun (l : List (Nat × Nat)) (f : Nat) => match l.find? (fun e => e.1 == f) with
    | some e => e.2
    | none => field f
  match h with
  | .none => ([], field)
  | .a n =>
    (if tile then [setWord key true (t 0) n, qWord key 0x010 (t 0) (field 1) (t 0)] else [addiWord key (t 0) (field 1) n], put [(1, t 0)])
  | .cp =>
    let j := if natBit r.low 5 then 1 else 0
    let i := if natBit r.low 6 then j + 1 else j
    let move := fun (b : Bool) (d f n o : Nat) =>
      if b then movWords key (0, 0) d (field f) n ++ [addiWord key (d + o) (d + o) x.scratch] else []
    (move (natBit r.low 5) (t 0) 3 4 1 ++ move (natBit r.low 6) (t j) 1 2 0 ++ move (natBit r.low 7) (t i) 2 2 0,
      put ((if natBit r.low 5 then [(3, t 0)] else []) ++ (if natBit r.low 6 then [(1, t j)] else [])
        ++ (if natBit r.low 7 then [(2, t i)] else [])))
  | .tcp =>
    -- the descriptor says which sides, and whether a completion word, lie in the scratchpad (08 R204)
    (qmovWords key (0, 0) (t 0) (field 3) 2 ++ bitTimes key (t 3) (t 4) (field 3) 58 x.scratch ++ [qWord key 0x010 (t 1) (field 1) (t 3)]
      ++ bitTimes key (t 3) (t 4) (field 3) 59 x.scratch ++ [qWord key 0x010 (t 2) (field 2) (t 3)]
      ++ bitTimes key (t 3) (t 4) (field 3) 52 x.scratch
      ++ [setWord key true (t 4) 32, qWord key 0x014 (t 3) (t 3) (t 4), qWord key 0x010 (t 0) (t 0) (t 3)],
      put [(1, t 1), (2, t 2), (3, t 0)])
  | .gather =>
    ([setWord key true (t 0) x.scratch, qWord key 0x010 (t 1) (field 2) (t 0), qWord key 0x010 (t 0) (field 1) (t 0)],
      put [(1, t 0), (2, t 1)])
  | .nest =>
    -- BASE counts 128-byte units from bit 26 (09 R221)
    ([setWord key true (t 0) (x.scratch / 128), setWord key true (t 1) 26, qWord key 0x014 (t 0) (t 0) (t 1),
      qWord key 0x010 (t 2) (field 2) (t 0), qWord key 0x010 (t 1) (field 1) (t 0)],
      put [(1, t 1), (2, t 2)])

/-- Whether every record's shift finds its spare registers. -/
def NyCtx.shiftable (x : NyCtx) : Bool :=
  (List.range x.k.nodes.length).all (fun p =>
    (x.spares p (if (x.k.at_ p).tile then .q else .v) ((x.shift (x.k.at_ p).r).sizes (x.k.at_ p).r)).isSome)

/-- Whether the loader duplicates an operation of a kernel with a shadow range: of unit A or B, with a v destination, and
no flag that its own guard or carry reads (06 R156; log 29, DEDUCED). -/
def NyCtx.duplicable (x : NyCtx) (p : Nat) : Bool :=
  let r := (x.k.at_ p).r
  (r.unit == 0 || (r.unit == 1 && decide (r.opc < 0x050)))
    && (match (r.sig x.k.width).d.1 with | .dst _ => x.clsOf p == .v | _ => false)
    && (match r.ccWritten with | none => true | some c => !r.readsCc && !(r.gk != 0 && r.gc == c))

/-- A value that a shadow register holds a copy of since the last safe point: its name, the register's code and its width. -/
structure ShadowCopy where
  val : Nat
  code : Nat
  n : Nat
deriving DecidableEq, Repr

/-- The shadow register a duplicate takes, and the copies that then still stand: the first free run of the range, else its
first, every copy given up (06 R156). -/
def NyCtx.shadowFor (x : NyCtx) (held : List ShadowCopy) (n : Nat) : Option (Nat × List ShadowCopy) :=
  match x.k.shadow with
  | none => none
  | some (a, b) =>
    let runs := ((List.range (b + 1)).filter (fun r => decide (a ≤ r) && r % n == 0 && decide (r + n ≤ b + 1))).map (fun r => r + x.offV)
    match runs.find? (fun r => held.all (fun h => decide (h.code + h.n ≤ r) || decide (r + n ≤ h.code))), runs with
    | some r, _ => some (r, held)
    | none, r :: _ => some (r, [])
    | none, [] => none

/-- The engine that a record of tile code keeps busy (08 R195, R200). -/
def NyRec.engine (r : NyRec) : Option Nat :=
  if 5 ≤ r.unit then some r.unit else if r.unit = 4 ∧ r.opc = 0x026 then some 6 else none

/-- What has run since the last safe point: words, engines that may be busy, and copies in the shadow range. -/
structure NyRun where
  words : Nat := 0
  busy : List Nat := []
  held : List ShadowCopy := []
deriving DecidableEq, Repr

/-- The words of an operation (15 R357), with the engines that may be busy before and after it: copies of operands, the
operand of an in-place update under the record's guard, a wait for an engine that may be busy, the word itself, and its
duplicate, which reads the shadow copies of its sources (06 R156), with the check of it. -/
def NyCtx.opWords (x : NyCtx) (p : Nat) (run : NyRun) : List PWord × NyRun :=
  let r := (x.k.at_ p).r
  let g := r.sig x.k.width
  let cps := x.k.copied p
  let src := fun (f : Nat) (o : NyOpr) =>
    if cps.any (fun c => c.1 == f) then x.valCode (nyTemp (2 + f) p) else x.code o
  let oprs := x.k.oprs p
  let field := fun (f : Nat) => match oprs.find? (fun o => o.1 == f) with
    | some (_, .maskSrc, .code c) => c
    | some (_, _, o) => src f o
    | none => 0
  let made := r.makes x.k.width
  let dest := if made.isSome then x.valCode p
    else if g.d.1 = .maskDst then r.rd
    else if r.unit = 0 ∧ r.opc = 0x041 then r.rd
    else field 0
  let copies := cps.flatMap (fun c => movWords (64 * p + 1) (0, 0) (x.valCode (nyTemp (2 + c.1) p)) (x.code c.2.2) (nyWidth c.2.1))
  let update := match x.k.updates p, made with
    | some _, some (_, w) => moveTo (64 * p + 2) r.guard (x.clsOf p) w dest (field 0)
    | _, _ => []
  let (moved, field) := x.shifted p field
  -- the upper half of a q pair
  let upper := if made = some (.q, 2) then [(⟨slotWord 4 0x013 r.gc r.gk (dest + 1) 0 0 0 0, 64 * p + 12, none⟩ : PWord)] else []
  let word := fun (f : Nat → Nat) (d low : Nat) => slotWord r.unit r.opc r.gc r.gk d (f 1) (f 2) (f 3) low
  let main : PWord := ⟨word field dest (x.low r), 64 * p, none⟩
  let busy := if x.clsOf p == .t && !update.isEmpty then [] else run.busy
  let wait := r.engine.any (fun e => decide (e ∈ busy))
  let fence := if wait then [fenceWord (64 * p + 4)] else []
  let shadow := fun (f : Nat) => match oprs.find? (fun o => o.1 == f) with
    | some (_, _, .val v) => ((run.held.find? (fun h => h.val == v)).map (fun h => h.code)).getD (field f)
    | _ => field f
  let (dup, held) := match made with
    | some (_, w) =>
      match if x.duplicable p then x.shadowFor run.held w else none with
      | some (sd, held) =>
        let low := if nyLowBits r.unit r.opc ≠ 12 then x.low r
          else if r.readsCc then x.low r - bit01 (natBit r.low 11) * 2048 else x.low r % 512
        ([(⟨word shadow sd low, 64 * p + 5, none⟩ : PWord), ⟨slotWord 1 0x060 r.gc r.gk 0 dest sd 0 (w - 1), 64 * p + 6, none⟩],
          ⟨p, sd, w⟩ :: held)
      | none => ([], run.held)
    | none => ([], run.held)
  let ws := copies ++ update ++ moved ++ upper ++ fence ++ [main] ++ dup
  (ws, ⟨run.words + ws.length, r.engine.toList ++ (if wait then [] else busy), held⟩)

/-! ### Live lists (15 R360) -/

/-- The register codes of one side of a part's own values that meet a test on their lives, as a bitmap. -/
def NyCtx.liveOwn (x : NyCtx) (tile : Bool) (test : NyLife → Bool) : Nat :=
  (x.rs.filter (fun y => test y.life && (y.life.cls == .k || (y.life.cls == .v) != tile))).foldl (fun m y =>
    m ||| ((2 ^ y.span - 1) * 2 ^ x.codeOf y.life.cls y.base)) 0

/-- What every list of a side names beside: the launch values; thread side, the registers of layout maps; tile side, the
flags, the engine state and the hatch tiles. -/
def NyCtx.liveFixed (x : NyCtx) (tile : Bool) : Nat :=
  (15 * 2 ^ (192 + x.offK)) ||| (if x.launch = 253 then 0 else 2 ^ x.launch)
    ||| (if tile then 15 * 2 ^ 36 ||| 255 * 2 ^ 56 ||| 255 * 2 ^ 128 else 0)
    ||| (if tile then 0 else x.k.maps.foldl (fun m r => m ||| 2 ^ (r + x.offV)) 0)

/-- A safe point of a side, with the live list of the values that meet a test (15 R359, R360). -/
def NyCtx.safe (x : NyCtx) (tile : Bool) (key : Nat) (test : NyLife → Bool) : PWord :=
  ⟨if tile then slotWord 4 0x027 0 0 0 0 0 0 0 else slotWord 3 0x039 0 0 0 0 0 0 0, key,
    some (x.liveOwn tile test ||| x.liveFixed tile ||| (if tile then x.liveT else x.liveV))⟩

/-- A value that a record at a position and what follows it may read. -/
def NyLife.liveBefore (p : Nat) (y : NyLife) : Bool := decide (y.first < p) && decide (p ≤ y.last)
/-- A value that stands at the head of a loop. -/
def NyLife.liveAtLoop (l : Nat) (y : NyLife) : Bool := decide (y.first ≤ l) && decide (l < y.last)

/-! ### Loops (15 R356) -/

/-- The CARRY records of a LOOP. -/
def NyKernel.carries (k : NyKernel) (l : Nat) : List Nat :=
  (List.range k.nodes.length).filter (fun p => (k.at_ p).r.op == nyCarry && (k.at_ p).encl.head? == some l)

/-- The width of a value. -/
def NyKernel.widthOf (k : NyKernel) (p : Nat) : Nat := match k.clsOf p with | some (_, w) => w | none => 1

/-- What stands before a loop's head: the index from 0, a tile loop's trips and constant, and under each CARRY's guard its
initial value, which the guarded record that it names next holds too. -/
def NyCtx.loopInit (x : NyCtx) (l : Nat) : List PWord :=
  let n := x.k.at_ l
  let key := 64 * l
  let held := nyHeld x.k.nodes
  (if x.k.once l && !x.k.named l then [] else [setWord key n.tile (x.valCode l) 0])
    ++ (if n.tile then
        [(⟨slotWord 4 0x017 n.r.gc n.r.gk (x.valCode (nyTemp 0 l)) (x.code (nyOpr l n.r.d1 n.r.ra)) 0 0 0, key, none⟩ : PWord),
         setWord key true (x.valCode (nyTemp 1 l)) 1]
      else [])
    ++ (x.k.carries l).flatMap (fun c =>
        let r := (x.k.at_ c).r
        let a := x.code (nyOpr c r.d1 r.ra)
        moveTo (64 * c) r.guard (x.clsOf c) (x.k.widthOf c) (x.valCode c) a ++
          (held.filter (fun h => h.2 == c)).flatMap (fun h =>
            moveTo (64 * c) r.guard (x.clsOf h.1) (x.k.widthOf c) (x.valCode h.1) a))

/-- A loop's head: its safe point, in tile code with every engine idle, and the test that leaves it once every trip has run, by so many words from the branch
to the loop's exit. A thread loop whose cc registers are all in use keeps c0 in a v register across the test (15 R357). -/
def NyCtx.loopHead (x : NyCtx) (l : Nat) (rest : Nat) : List PWord :=
  let n := x.k.at_ l
  let key := 64 * l + 8
  let sp := x.safe n.tile (64 * l + 7) (NyLife.liveAtLoop l)
  let idx := x.valCode l
  let trips := x.code (nyOpr l n.r.d1 n.r.ra)
  let plain := fun (w : Nat) => (⟨w, key, none⟩ : PWord)
  let off := fun (k : Nat) => (k % 2 ^ 24) * 2 ^ 12
  if x.k.once l then [sp]
  else if n.tile then
    [fenceWord key, sp, plain (slotWord 4 0x017 0 0 32 (x.valCode (nyTemp 0 l)) 0 0 0), plain (slotWord 4 0x021 0 0 32 0 0 0 (off 2)),
      plain (slotWord 4 0x020 0 0 0 0 0 0 (off (rest + 1)))]
  else match x.k.test with
    | some c =>
      [sp, plain (slotWord 0 0x040 0 0 0 idx trips 0 (2048 + 512 * c)), plain (slotWord 3 0x010 c 8 0 0 0 0 (off (rest + 1)))]
    | none =>
      let s := x.valCode (nyTemp 0 l)
      [sp, plain (slotWord 0 0x048 0 0 s 0 0 0 0), plain (slotWord 0 0x040 0 0 0 idx trips 0 2048),
        plain (slotWord 3 0x010 0 8 0 0 0 0 (off (rest + 2))), plain (slotWord 0 0x049 0 0 0 s 0 0 2048)]

/-- The words of a loop's head. -/
def NyCtx.headLen (x : NyCtx) (l : Nat) : Nat := (x.loopHead l 0).length

/-- What stands at the end of a loop's body: CARRYs take their next values all at once, each under its guard, and the index
goes on. -/
def NyCtx.loopStep (x : NyCtx) (l : Nat) : List PWord :=
  let n := x.k.at_ l
  let e := x.k.endOf l
  let cs := x.k.carries l
  let next := fun (c : Nat) => e - (x.k.at_ c).r.d2
  let ahead := cs.filter (fun c => next c != c && decide (next c ∈ cs))
  ahead.flatMap (fun c => moveTo (64 * c + 9) (0, 0) (x.clsOf c) (x.k.widthOf c) (x.valCode (nyTemp 6 c)) (x.valCode (next c)))
    ++ cs.flatMap (fun c => moveTo (64 * c + 9) (x.k.at_ c).r.guard (x.clsOf c) (x.k.widthOf c) (x.valCode c)
        (if c ∈ ahead then x.valCode (nyTemp 6 c) else x.valCode (next c)))
    ++ (if x.k.once l then []
      else if n.tile then
        let one := x.valCode (nyTemp 1 l)
        let left := x.valCode (nyTemp 0 l)
        [(⟨slotWord 4 0x010 0 0 (x.valCode l) (x.valCode l) one 0 0, 64 * e, none⟩ : PWord),
         ⟨slotWord 4 0x011 0 0 left left one 0 0, 64 * e, none⟩]
      else [⟨slotWord 0 0x014 0 0 (x.valCode l) (x.valCode l) 0 0 1, 64 * e, none⟩])

/-- The jump past a guarded loop in the lanes where its guard fails: two words before so many others (15 R357; log 26,
DEDUCED: the body then runs no time). -/
def NyCtx.skipWords (x : NyCtx) (l rest : Nat) : List PWord :=
  let n := x.k.at_ l
  let jump := fun (g : NyGuard) (k : Nat) =>
    (⟨slotWord (if n.tile then 4 else 3) (if n.tile then 0x020 else 0x010) g.1 g.2 0 0 0 0 (k * 2 ^ 12), 64 * l + 13, none⟩ : PWord)
  if n.r.gk = 0 then [] else [jump n.r.guard 2, jump (0, 0) (rest + 1)]

/-- A whole loop from its parts: what stands before it, the jump past it of a guarded one, its head, its body with the step,
the branch back, and at its exit the saved cc; one that runs once needs neither branch. -/
def NyCtx.loopWords (x : NyCtx) (l : Nat) (init body : List PWord) : List PWord :=
  let n := x.k.at_ l
  let h := x.headLen l
  let back := 2 ^ 24 - (h + body.length)
  let jump : PWord := ⟨slotWord (if n.tile then 4 else 3) (if n.tile then 0x020 else 0x010) 0 0 0 0 0 0 (back * 2 ^ 12), 64 * l + 9, none⟩
  let exit_ := if n.tile || x.k.test.isSome then [] else [(⟨slotWord 0 0x049 0 0 0 (x.valCode (nyTemp 0 l)) 0 0 2048, 64 * l + 10, none⟩ : PWord)]
  let loop := if x.k.once l then x.loopHead l 0 ++ body else x.loopHead l (body.length + 1) ++ body ++ [jump] ++ exit_
  init ++ x.skipWords l loop.length ++ loop

/-- A safe point stands before a record when so many words have run since the last. -/
def safeEvery : Nat := 1024

/-- The words of the records from a position up to another, with what has run since the last safe point (15 R357, R359). -/
def NyCtx.range (x : NyCtx) : Nat → Nat → Nat → NyRun → List PWord × NyRun
  | 0, _, _, run => ([], run)
  | f + 1, i, j, run =>
    if j ≤ i then ([], run)
    else
      let n := x.k.at_ i
      if n.r.op = nyCarry ∨ n.r.op = nyEnd then x.range f (i + 1) j run
      else
        let due := decide (safeEvery ≤ run.words)
        let sp := if due then (if run.busy.isEmpty then [] else [fenceWord (64 * i + 11)]) ++ [x.safe n.tile (64 * i + 11) (NyLife.liveBefore i)]
          else []
        let run := if due then {} else run
        if n.r.op = nyLoop then
          let e := x.k.endOf i
          let init := x.loopInit i
          let (body, inner) := x.range f (i + 1) e ⟨x.headLen i, [], []⟩
          let ws := x.loopWords i init (body ++ x.loopStep i)
          let past : NyRun := if x.k.once i then { inner with words := inner.words + (x.loopStep i).length, held := [] }
            else ⟨x.headLen i + 1, [], []⟩
          -- a lane that jumps past the loop meets no safe point of it
          let past := if n.r.gk = 0 then past else { past with words := max past.words (run.words + init.length + 2), busy := past.busy ++ run.busy }
          let (rest, run) := x.range f (e + 1) j past
          (sp ++ ws ++ rest, run)
        else
          let (ws, next) := match x.moved.find? (fun m => m.1 == i) with
            | none => if x.tiles.any (fun t => t.1 == i) then ([], run) else x.opWords i run
            | some (_, none) => ([], run)
            | some (_, some a) =>
              let ws := moveTo (64 * i) (0, 0) .v (x.k.widthOf i) (x.valCode i) a
              (ws, { run with words := run.words + ws.length })
          let next := if n.r.unit = 4 ∧ n.r.opc = 0x025 then { next with busy := [] } else next
          let (rest, run) := x.range f (i + 1) j next
          (sp ++ ws ++ rest, run)

/-- EXIT, as after the last record (15 R357). -/
def exitWord (key : Nat) : PWord := ⟨slotWord 3 0x015 0 0 0 0 0 0 0, key, none⟩

/-- A kernel's code by itself. -/
def NyCtx.words (x : NyCtx) : List PWord :=
  let n := x.k.nodes.length
  (x.range (n + 1) 0 n {}).1 ++ [exitWord (64 * n)]

/-! ### Checks of what is emitted -/

/-- Whether a tile record's sidecar may hold scales: only then does a copy lose something (10 R239, R242). -/
def NyRec.maySidecar (r : NyRec) : Bool :=
  !(r.unit == 6 || r.unit == 4 || (r.unit == 5 && (r.opc == 0x013 || r.opc == 0x015 || r.opc == 0x016 || (r.opc == 0x010 && !natBit r.low 14))))

/-- Whether a tile value's sidecar may hold scales: a CARRY's where that of a value it takes may. -/
def NyKernel.scaled (k : NyKernel) : Nat → Nat → Bool
  | 0, _ => true
  | f + 1, p =>
    let r := (k.at_ p).r
    if r.op = nyCarry then
      (r.d1 != 0 && k.scaled f (p - r.d1)) || (k.at_ p).encl.head?.any (fun l => k.endOf l - r.d2 != p && k.scaled f (k.endOf l - r.d2))
    else r.maySidecar

/-- The CARRYs that need a tile copied whose sidecar may hold scales, which no sequence of instructions copies; an update reads
its destination's elements alone, so a copy for one loses nothing (09 R219; log 27, DESIGN CHOICE). -/
def NyCtx.lossy (x : NyCtx) : List (Nat × Nat) :=
  (List.range x.k.nodes.length).flatMap (fun p =>
    let n := x.k.at_ p
    let bad := fun (o : NyOpr) => match o with
      | .val t => x.valCode t != x.valCode p && x.k.scaled x.k.nodes.length t
      | .code _ => false
    match n.encl with
    | [] => []
    | l :: _ =>
      if n.r.op = nyCarry ∧ x.k.clsOf p = some (.t, 1) ∧ (bad (nyOpr p n.r.d1 n.r.ra) || bad (.val (x.k.endOf l - n.r.d2))) then
        [(0x1C9, p)]
      else [])

/-- A translated kernel: its allotment and its code. -/
structure NyCode where
  x : NyCtx
  code : List PWord
deriving DecidableEq, Repr

/-- An analysed kernel's native code, or why it needs more registers than it has (15 R357). -/
def NyKernel.translate (k : NyKernel) : Except (Nat × Nat) NyCode :=
  match k.allot with
  | .error e => .error e
  | .ok rg =>
    let x : NyCtx := { k := k, rs := rg }
    match x.lossy with
    | e :: _ => .error e
    | [] => .ok ⟨x, x.words⟩

/-- Nyone translated, or the first defect with its cause and position (15 R353 to R357). -/
def translateNy (ws : List Nat) (regs kregs width : Nat) (shadow : Option (Nat × Nat)) (maps : List Nat) :
    Except (Nat × Nat) NyCode :=
  match nyParse ws with
  | .error e => .error e
  | .ok rs =>
    match nyAnalyse rs regs kregs width shadow maps with
    | .error e => .error e
    | .ok k => k.translate

end Sys2Proof.Machine
end

