-- ==== Sys2Proof/Machine/Loader.lean ====
section
/-! DEFINITION. The loader: load requests, the checks of an image with their verdicts, the code region and the kernel
header it writes; and the invalidation of code that a core holds (15 R350 to R352, R357 to R361; logs 25 to 30). -/

namespace Sys2Proof.Machine

/-- LOADREQ: a load request is queued; the PF's may not name the reserved range (13 R305; 15 R351). -/
def execLoadreq (fn : Nat) (addr : DWord) (s : State) : Host.Outcome State Fault Refusal :=
  let ipa := natBits addr.toNat 51 6 * 64
  .next (if fn = 0 ∧ !areaOk ipa 64 then s
    else { s.setReg .loadreq fn (BitVec.ofNat 64 ipa) with loads := s.loads ++ [⟨fn, ipa⟩] })

/-- Every core drops the words and Shelf bodies of a function's code that it holds (15 R361). -/
def State.codeInvalidate (s : State) (fn : Nat) : State :=
  { s with cores := Map.mapVals (fun _ c =>
      { c with icache := c.icache.filter (fun e => e.2.vf != fn), shelf := c.shelf.filter (fun e => e.vf != fn) }) s.cores }

/-- ICINV (15 R361). -/
def execIcinv (fn : Nat) (s : State) : Host.Outcome State Fault Refusal := .next (s.codeInvalidate fn)

/-! ### Native code (15 R350, R358, R359) -/

/-- A native bundle: its offset in words, and its words. -/
structure NatBundle where
  off : Nat
  ws : List Nat
deriving DecidableEq, Repr

/-- Words split into bundles: up to and with the first whose E is 1, four at most (03 R42). -/
def natSplit : Nat → Nat → List Nat → List NatBundle
  | 0, _, _ => []
  | _, _, [] => []
  | f + 1, o, w :: ws =>
    let b := (bundleWords 4 ((w :: ws).take 4 |>.map (BitVec.ofNat 64))).map BitVec.toNat
    ⟨o, b⟩ :: natSplit f (o + b.length) ((w :: ws).drop b.length)

/-- The side a bundle's first slot stands on. -/
def NatBundle.loft (b : NatBundle) : Bool := decide (4 ≤ natBits (b.ws.headD 0) 62 60)

/-- Whether a slot word is of a unit and OP. -/
def wordIs (u op w : Nat) : Bool := natBits w 62 60 == u && natBits w 59 50 == op

/-- Whether a slot word is a crew-level operation (04 R82). -/
def crewLevel (w : Nat) : Bool :=
  let u := natBits w 62 60
  let op := natBits w 59 50
  (u == 0 && decide (0x050 ≤ op) && decide (op ≤ 0x052)) || (u == 3 && decide (0x018 ≤ op) && decide (op ≤ 0x01E))
    || (u == 1 && decide (0x050 ≤ op) && decide (op ≤ 0x052))
    || (decide (u < 4) && ((wordInstr w).sig (loaderEnv false 192 48 32 none)).fields.any (fun f =>
        (match f.1 with | .src _ | .chkA _ => true | _ => false) && (f.2 == 241 || f.2 == 248)))

/-- Whether a slot word names a register of the shadow range (05 R104). -/
def namesShadow (shadow : Nat × Nat) (w : Nat) : Bool :=
  decide (natBits w 62 60 < 4) && ((wordInstr w).sig (loaderEnv false 192 48 32 none)).fields.any (fun f =>
    let n := match f.1 with
      | .src p | .regSrc p | .dst p | .upd p | .vDst p => regCount p
      | .vSrcQuad | .vDstQuad | .regQuad => 4
      | _ => 0
    decide (0 < n) && decide (f.2.toNat ≤ shadow.2) && decide (shadow.1 < f.2.toNat + n))

/-- The tiles that a slot word names in fixed fields, counted from t0 (14 R338; 15 R352). -/
def tilesNamed (w : Nat) : Nat :=
  if natBits w 62 60 < 4 then 0
  else listMax (((wordInstr w).sig (loaderEnv true 192 48 32 none)).fields.map (fun f =>
    let t := match f.1 with
      | .tSrc | .tDst | .tUpd | .accDst | .tLatch => true
      | _ => false
    if t && decide (64 ≤ f.2.toNat) && decide (f.2.toNat < 128) then f.2.toNat - 63 else 0))

/-- Whether a bundle holds a safe point. -/
def NatBundle.safe (b : NatBundle) : Bool := b.ws.any (fun w => wordIs 3 0x039 w || wordIs 4 0x027 w)

/-- Where a bundle may go by direct transfer: its targets in words, those before the code left out, and whether it may go on in
sequence (04 R86 to R90; 08 R198). -/
def NatBundle.next (b : NatBundle) : List Nat :=
  let jump := fun (w : Nat) => wordIs 3 0x010 w || wordIs 3 0x012 w || wordIs 4 0x020 w || wordIs 4 0x021 w
  let targets := (b.ws.filter jump).filterMap (fun w => Int.toNat? ((b.off : Int) + toSigned 24 (natBits w 35 12)))
  let away := b.ws.any (fun w => natBits w 47 44 == 0 &&
    (wordIs 3 0x010 w || wordIs 4 0x020 w || wordIs 3 0x011 w || wordIs 3 0x014 w || wordIs 3 0x015 w))
  targets ++ (if away then [] else [b.off + b.ws.length])

/-- The bundle that a fetch at a word of the code meets. -/
def natAt (ws : List Nat) (o : Nat) : NatBundle := ⟨o, ((bundleWords 4 ((ws.drop o).take 4 |>.map (BitVec.ofNat 64))).map BitVec.toNat)⟩

/-- The code's bundles with those that a direct transfer into the middle of one makes, by rounds; a path that leaves the code
runs none of its bundles (log 30, DEDUCED). -/
def natPaths (ws : List Nat) : Nat → List NatBundle → List NatBundle
  | 0, bs => bs
  | n + 1, bs =>
    let new := (dedup (bs.flatMap NatBundle.next)).filter (fun t => decide (t < ws.length) && bs.all (fun b => b.off != t))
    if new.isEmpty then bs else natPaths ws n (bs ++ new.map (natAt ws))

/-- How many bundles may run from each before a safe point, counted as far as a limit; by rounds. -/
def safeRun (bs : List NatBundle) : Nat → Map Nat
  | 0 => []
  | n + 1 =>
    let m := safeRun bs n
    bs.foldl (fun acc b => Map.set 0 acc b.off (if b.safe then 0 else 1 + listMax (b.next.map (fun t => Map.get 0 m t)))) []

/-- Every path of direct transfers meets a safe point within 2,048 bundles (15 R359): the first start of one that does not. -/
def safeBound (bs : List NatBundle) : Option Nat :=
  let m := safeRun bs 2049
  let starts := bs.filter (fun b => b.off == 0 || b.safe)
  (starts.find? (fun b => decide (2048 < (if b.safe then listMax (b.next.map (fun t => Map.get 0 m t)) else Map.get 0 m b.off)))).map
    (fun b => b.off)

/-- A place of the code whose bundle must hold a SAFEPT and does not: after CALL or CALLX, or at a word offset (15 R359). -/
def safeMissing (bs : List NatBundle) (labels : List Nat) : Option Nat :=
  let after := (bs.filter (fun b => b.ws.any (fun w => wordIs 3 0x012 w || wordIs 3 0x013 w))).map (fun b => b.off + b.ws.length)
  (sortBy (fun (a b : Nat) => decide (a < b)) (after ++ labels)).find? (fun o => !bs.any (fun b => b.off == o && b.ws.any (wordIs 3 0x039)))

/-! ### The image (15 R350) -/

/-- A kernel's directives, as the directive block or a kernel header holds them (15 R350, R352). -/
structure Directives where
  bits : BitVec 1024
deriving DecidableEq, Repr

def Directives.regs (d : Directives) : Nat := hdrRegs d.bits
def Directives.kregs (d : Directives) : Nat := hdrKregs d.bits
def Directives.width (d : Directives) : Nat := hdrWidth d.bits
def Directives.ndisc (d : Directives) : Nat := recBits d.bits 295 292
/-- Region i's offset and length (07 R161). -/
def Directives.disc (d : Directives) (i : Nat) : Nat × Nat :=
  (recBits d.bits (64 * i + 530) (64 * i + 512), recBits d.bits (64 * i + 550) (64 * i + 532))

/-- Bits that fjas leaves zero in a directive block (15 R350, R352). -/
def Directives.junk (d : Directives) : Bool :=
  recBits d.bits 255 0 != 0 || recBits d.bits 511 384 != 0 || recBits d.bits 319 310 != 0 || recBits d.bits 351 339 != 0
    || recBits d.bits 383 371 != 0
    || (List.range 8).any (fun i => natBit d.bits.toNat (64 * i + 531) || recBits d.bits (64 * i + 575) (64 * i + 551) != 0)

/-- The limits of the directives (03 R69; 05 R104; 07 R161). -/
def Directives.ok (d : Directives) : Bool :=
  let r := d.regs
  decide (8 ≤ r) && decide (r ≤ 192) && r % 8 == 0 && decide (4 ≤ d.kregs) && decide (d.kregs ≤ 48)
    && decide (d.width ∈ [0, 8, 16, 32, 64]) && hdrScratch d.bits % 4096 == 0 && decide (hdrScratch d.bits ≤ 393216)
    && hdrCubby d.bits % 64 == 0 && decide (hdrCubby d.bits ≤ 8192) && decide (d.ndisc ≤ 8)
    && (match hdrShadow d.bits with
        | none => true
        | some (a, b) => a % 2 == 0 && b % 2 == 1 && decide (a < b) && decide (b < r))
    && (List.range d.ndisc).all (fun i => (d.disc i).1 % 4 == 0 && (d.disc i).2 % 4 == 0
        && decide ((d.disc i).1 + (d.disc i).2 ≤ hdrScratch d.bits))

/-- A slice of an image. -/
def imgNum (img : List Byte) (off n : Nat) : Nat := ofBytesLE ((img.drop off).take n)
/-- The 64-bit words of a slice. -/
def imgWords (img : List Byte) (off n : Nat) : List Nat := (List.range (n / 8)).map (fun i => imgNum img (off + 8 * i) 8)

/-- Field n of the image header, of its 64-bit words. -/
def imgField (img : List Byte) (n : Nat) : Nat := imgNum img (8 * n) 8

/-- The sections of an image: offset and bytes of those present (15 R350). -/
def imgSections (img : List Byte) (ports : Nat) : List (Nat × Nat) :=
  let f := imgField img
  let opt := fun (off n : Nat) => if off = 0 then [] else [(off, n)]
  (if natBit (f 0) 32 then [(f 1, f 2)] else []) ++ (if natBit (f 0) 33 then [(f 3, f 4)] else []) ++ opt (f 5) 2048
    ++ opt (f 6) 64 ++ opt (f 7) 128 ++ opt (f 8) (2 * ports) ++ opt (f 9) (f 10) ++ opt (f 11) (f 12) ++ opt (f 14) (f 15)

/-- Whether two byte ranges share a byte. -/
def bytesMeet (a b : Nat × Nat) : Bool := decide (a.1 < b.1 + b.2) && decide (b.1 < a.1 + a.2) && a.2 != 0 && b.2 != 0

/-- A relocation entry: section, code label, byte offset (15 R350). -/
structure Reloc where
  data : Bool
  label : Bool
  off : Nat
deriving DecidableEq, Repr

/-- The relocation entries of an image. -/
def imgRelocs (img : List Byte) : List Reloc :=
  (imgWords img (imgField img 14) (imgField img 15)).map (fun w => ⟨natBit w 63, natBit w 62, natBits w 61 0⟩)

/-- The word a relocation names, and the label's value in it. -/
def relocValue (img : List Byte) (r : Reloc) : Nat :=
  imgNum img ((if r.data then imgField img 11 else imgField img 9) + r.off) 8

/-- The format of an image: 0x1C0 where it breaks 15 R350 (log 30, DEDUCED); of native code a code label is a bundle's. -/
def imgFormatOk (img : List Byte) (len ports : Nat) (bundles : Option (List Nat)) : Bool :=
  let f := imgField img
  let secs := imgSections img ports
  let nat_ := natBit (f 0) 32
  let ny := natBit (f 0) 33
  natBits (f 0) 31 0 == 1 && (nat_ || ny) && f 7 != 0
    && [1, 2, 3, 4, 15].all (fun i => f i % 8 == 0)
    && (nat_ || (f 1 == 0 && f 2 == 0)) && (ny || (f 3 == 0 && f 4 == 0)) && (f 9 != 0 || f 10 == 0) && (f 11 != 0 || f 12 == 0)
    && (f 14 != 0 || f 15 == 0) && f 13 % 64 == 0 && (f 9 != 0 || f 11 != 0 || f 13 == 0)
    && secs.all (fun x => decide (128 ≤ x.1) && decide (x.1 + x.2 ≤ len))
    && (List.range secs.length).all (fun i => (List.range i).all (fun j => !bytesMeet (secs.getD i (0, 0)) (secs.getD j (0, 0))))
    && !(Directives.junk ⟨BitVec.ofNat 1024 (imgNum img (f 7) 128)⟩)
    && (imgRelocs img).all (fun r => r.off % 8 == 0
        && decide (r.off + 8 ≤ (if r.data then f 12 else f 10)) && (!r.label || bundles.all (fun bs => decide (relocValue img r ∈ bs))))

/-! ### Layout maps (08 R188) -/

/-- A hatch descriptor's registers: first and count. -/
def descRange (d : Nat) : Nat × Nat := (natBits d 15 8, natBits d 7 0)

/-- A descriptor that meets 08 R188 by itself. -/
def descOk (regs : Nat) (shadow : Option (Nat × Nat)) (d : Nat) : Bool :=
  if !natBit d 31 then d == 0
  else
    let w := 8 * 2 ^ natBits d 28 27
    let p := 2 ^ natBits d 26 25
    let r := descRange d
    natBits d 30 29 != 3 && natBits d 28 27 != 3 && natBits d 26 25 != 3 && natBits d 24 16 == 0 && decide (p * w ≤ 32)
      && decide (1 ≤ r.2) && decide (r.2 * p ≤ 1024 / w) && decide (r.1 + r.2 ≤ regs)
      && (match shadow with | none => true | some (a, b) => !bytesMeet r (a, b + 1 - a))

/-- The eight descriptors of a map of a table's bytes. -/
def mapDescs (tab : List Byte) (i : Nat) : List Nat := (List.range 8).map (fun j => imgNum tab (32 * i + 4 * j) 4)

/-- A map that meets 08 R188. -/
def mapOk (regs : Nat) (shadow : Option (Nat × Nat)) (ds : List Nat) : Bool :=
  ds.all (descOk regs shadow) &&
    (List.range ds.length).all (fun i => (List.range i).all (fun j =>
      !(natBit (ds.getD i 0) 31 && natBit (ds.getD j 0) 31 && bytesMeet (descRange (ds.getD i 0)) (descRange (ds.getD j 0)))))

/-- The hatch tiles that a map defines. -/
def mapTiles (ds : List Nat) : Nat := (ds.filter (fun d => natBit d 31)).length

/-- The v registers that a table's maps take. -/
def mapRegs (tab : List Byte) : List Nat :=
  dedup ((List.range 64).flatMap (fun i => ((mapDescs tab i).filter (fun d => natBit d 31)).flatMap (fun d =>
    (List.range (descRange d).2).map (fun j => (descRange d).1 + j))))

/-! ### What a load makes -/

/-- A safe point of the code: byte offset, whether a QSAFE, live bitmap. -/
structure SafeEntry where
  off : Nat
  loft : Bool
  live : Nat
deriving DecidableEq, Repr

/-- The safe-point table at a base address (15 R360). -/
def safeBytes (entry : Nat) (es : List SafeEntry) : List Byte :=
  toBytesLE 8 es.length ++ es.flatMap (fun e => toBytesLE 8 (entry + e.off + bit01 e.loft) ++ toBytesLE 32 e.live)

/-- Bytes padded with zeros to a length. -/
def padded (n : Nat) (bs : List Byte) : List Byte := bs ++ List.replicate (n - bs.length) 0

/-- Register codes of a side that name a register (15 R360). -/
def codesOf (loft : Bool) (regs kregs : Nat) : Nat :=
  ((2 ^ kregs - 1) * 2 ^ 192) ||| (if loft then (2 ^ 42 - 1) ||| ((2 ^ 80 - 1) * 2 ^ 56) else 2 ^ regs - 1)

/-- What a load writes: the code region's bytes and the kernel header; and the offset of a safe point whose `.live` list names
a register outside the allotment, which is the last check (15 R351). -/
structure Built where
  region : List Byte
  header : Nat
  liveBad : Option Nat := none
deriving DecidableEq, Repr

/-- The header of a loaded kernel (15 R352). -/
def headerBits (d : Directives) (entry side safe ny tmax h maps ports : Nat) (loft : Bool) : Nat :=
  let w4 := recBits d.bits 319 256 / 2 ^ 36 * 2 ^ 36 + recBits d.bits 279 256 + field tmax 24 8 + field h 32 4
  let w5 := natBits (recBits d.bits 383 320) 48 0 + field (bit01 loft) 49 1
  field entry 0 64 + field side 64 64 + field safe 128 64 + field ny 192 64 + w4 * 2 ^ 256 + w5 * 2 ^ 320 + field maps 384 64
    + field ports 448 64 + recBits d.bits 1023 512 * 2 ^ 512

/-- The code region laid out: code, the two sections at their places, then the safe-point table, the layout maps, the port
list, the side table's count and the retained Nyone with its length before it; 0x1CC where they do not fit (15 R350, R352;
log 30, DEDUCED). -/
def layOut (img : List Byte) (d : Directives) (code codeLen : Nat) (words : List Nat) (safes : List SafeEntry) (h tmax : Nat)
    (ports : Nat) (nat_ : Bool) : Except (Nat × Nat) Built :=
  let f := imgField img
  let cb := words.flatMap (toBytesLE 8)
  -- which bundle of Nyone's code stands for a native one is not stated: some bundle of it (log 82, DESIGN CHOICE)
  let value := fun (r : Reloc) =>
    let v := relocValue img r
    if r.label && !nat_ then 8 * (Config.nyoneLabel v % max 1 words.length) else v
  let fix := fun (data : Bool) (bs : List Byte) => ((imgRelocs img).filter (fun r => r.data == data)).foldl (fun (bs : List Byte) r =>
    bs.take r.off ++ toBytesLE 8 ((code + value r) % 2 ^ 64) ++ bs.drop (r.off + 8)) bs
  let const := fix false ((img.drop (f 9)).take (f 10))
  let data := fix true ((img.drop (f 11)).take (f 12))
  let secs := f 9 != 0 || f 11 != 0
  let dataAt := roundUp (f 13 + f 10) 64
  let stop := if secs then max (f 13 + f 10) (if f 11 = 0 then 0 else dataAt + f 12) else cb.length
  let tabs := roundUp stop 64
  let sb := safeBytes code safes
  let maps := if f 5 = 0 then [] else (img.drop (f 5)).take 2048
  let portb := if f 8 = 0 then [] else padded (roundUp (2 * ports) 8) ((img.drop (f 8)).take (2 * ports))
  let nyb := if nat_ then [] else toBytesLE 8 (f 4 / 8) ++ (img.drop (f 3)).take (f 4)
  let mapAt := tabs + sb.length
  let portAt := mapAt + maps.length
  let sideAt := portAt + portb.length
  let nyAt := sideAt + 8
  let total := nyAt + nyb.length
  let body := padded tabs (if secs then padded dataAt (padded (f 13) cb ++ const) ++ data else cb)
  if codeLen < total ∨ (secs && decide (f 13 < cb.length)) then .error (0x1CC, 0)
  else .ok ⟨body ++ sb ++ maps ++ portb ++ List.replicate 8 0 ++ nyb,
    headerBits d code (code + sideAt) (code + tabs) (if nat_ then 0 else code + nyAt + 8) tmax h
      (if f 5 = 0 then 0 else code + mapAt) (if f 8 = 0 then 0 else code + portAt) (words.any (fun w => decide (4 ≤ natBits w 62 60))),
    (safes.find? (fun e => e.live &&& codesOf e.loft d.regs d.kregs != e.live)).map (fun e => e.off)⟩

/-- The largest map, the maps' registers, and whether every map meets 08 R188. -/
def imgMaps (img : List Byte) (d : Directives) : Nat × List Nat × Bool :=
  if imgField img 5 = 0 then (0, [], true)
  else
    let tab := (img.drop (imgField img 5)).take 2048
    (listMax ((List.range 64).map (fun i => mapTiles (mapDescs tab i))), mapRegs tab,
      (List.range 64).all (fun i => mapOk d.regs (hdrShadow d.bits) (mapDescs tab i)))

/-- A native image checked from cause 0x1C3 on, and laid out. The register allotment is launch-time state, so a register
beyond it is no load verdict (03 R67; 15 R351). -/
def buildNative (img : List Byte) (d : Directives) (code codeLen : Nat) (bs : List NatBundle) : Except (Nat × Nat) Built :=
  let at_ := fun (p : NatBundle → Bool) => (bs.find? p).map (fun b => 8 * b.off)
  let (h, _, mapsOk) := imgMaps img d
  let labels := ((imgRelocs img).filter (fun r => r.label && !r.data)).map (fun r => relocValue img r / 8)
  let env := fun (b : NatBundle) => loaderEnv b.loft 192 48 d.width (hdrShadow d.bits)
  let words := bs.flatMap (fun b => b.ws)
  let paths := natPaths words words.length bs
  let find := fun (c : Nat) (x : Option Nat) => x.map (fun w => (c, w))
  let bad := (if d.width = 0 then find 0x1C3 (at_ (fun b => b.ws.any crewLevel)) else none)
    <|> (if d.ok then none else some (0x1C4, 0))
    <|> (match hdrShadow d.bits with | none => none | some r => find 0x1C5 (at_ (fun b => b.ws.any (namesShadow r))))
    <|> find 0x1C6 (at_ (fun b => b.ws.any (wordIs 1 0x060)))
    <|> (if mapsOk then none else some (0x1C7, 0))
    <|> find 0x1C8 ((safeBound paths <|> safeMissing paths labels).map (8 * ·))
    <|> find 0x1CA (at_ (fun b => (bundleDefect (env b) (b.ws.map (BitVec.ofNat 64))).isSome))
  match bad with
  | some e => .error e
  | none =>
    let safes := (bs.filter NatBundle.safe).map (fun b => (⟨8 * b.off, b.loft, Config.nativeLive img (8 * b.off) % 2 ^ 256⟩ : SafeEntry))
    layOut img d code codeLen words safes h (listMax (words.map tilesNamed)) 0 true

/-- Whether a record is a crew-level operation, or reads %lane or %crew (04 R82). -/
def NyRec.crewLevel (width : Nat) (r : NyRec) : Bool :=
  r.isOp && (Machine.crewLevel r.template || (decide (r.unit < 4) &&
    ((r.reads width).zip (r.dists.zip r.codes)).any (fun x => x.1.2 != .maskSrc && x.2.1 == 0 && (x.2.2 == 241 || x.2.2 == 248))))

/-- The port marks against the port list (15 R350): every port a load or store, no port of two records, and each record's
entry in the list. -/
def portsBad (img : List Byte) (rs : List NyRec) : Option Nat :=
  let ps := (rs.zip (List.range rs.length)).filter (fun p => p.1.port)
  let list := (List.range ps.length).map (fun i => imgNum img (imgField img 8 + 2 * i) 2)
  let entry := fun (r : NyRec) => r.rd * 256 + bit01 (nyPortKind r.unit r.opc == some true) * 2 + bit01 r.keep
  (ps.find? (fun p => p.1.portBad || decide (1 < (ps.filter (fun q => q.1.rd == p.1.rd)).length)
      || (imgField img 8 != 0 && decide (entry p.1 ∉ list)))).map (fun p => p.2)

/-- A Nyone image checked, translated and laid out; the position of a record is its WHERE (15 R351). -/
def buildNyone (img : List Byte) (d : Directives) (code codeLen : Nat) (rs : List NyRec) : Except (Nat × Nat) Built :=
  let (h, regs, mapsOk) := imgMaps img d
  match nyAnalyse rs d.regs d.kregs d.width (hdrShadow d.bits) regs with
  | .error e => .error e
  | .ok k =>
    let wide := fun (p : Nat × NyRec) => p.2.crewLevel d.width
    let bad := (if d.width = 0 then (((List.range rs.length).zip rs).find? wide).map (fun p => (0x1C3, p.1)) else none)
      <|> (if d.ok then none else some (0x1C4, 0)) <|> (if mapsOk then none else some (0x1C7, 0))
    match bad with
    | some e => .error e
    | none =>
      match k.translate with
      | .error e => .error e
      | .ok c =>
        let odd := (((List.range rs.length).zip rs).find? (fun p => p.2.oddMask d.width)).map (fun p => (0x1CA, p.1))
        match odd <|> (portsBad img rs).map (fun p => (0x1CB, p)) with
        | some e => .error e
        | none =>
          let ws := c.code.map (fun p => p.w)
          let safes := (((List.range c.code.length).zip c.code).filterMap (fun p =>
            p.2.live.map (fun l => (⟨8 * p.1, decide (4 ≤ natBits p.2.w 62 60), l⟩ : SafeEntry))))
          layOut img d code codeLen ws safes h (listMax (ws.map tilesNamed)) (rs.filter (fun r => r.port)).length false

/-- An image checked in the table's order of causes and made into what a load writes, or the verdict and its WHERE
(15 R350, R351). -/
def buildImage (img : List Byte) (code codeLen : Nat) : Except (Nat × Nat) Built :=
  let f := imgField img
  let ny := natBit (f 0) 33
  let recs := if ny then nyParse (imgWords img (f 3) (f 4)) else .ok []
  let ports := match recs with | .ok rs => (rs.filter (fun r => r.port)).length | .error _ => 0
  let nat_ := imgWords img (f 1) (f 2)
  let bs := if natBit (f 0) 32 then natSplit nat_.length 0 nat_ else []
  if !imgFormatOk img img.length ports (if ny then none else some (bs.map (fun b => 8 * b.off))) then .error (0x1C0, 0)
  else
    let d : Directives := ⟨BitVec.ofNat 1024 (imgNum img (f 7) 128)⟩
    match recs with
    | .error e => .error e
    | .ok rs => if ny then buildNyone img d code codeLen rs else buildNative img d code codeLen bs

/-! ### Running a request (15 R351, R361) -/

/-- A run of bytes of one page, translated: its offset in the whole, physical address and length, and the translation. -/
structure Chunk where
  off : Nat
  pa : Nat
  len : Nat
  e : TlbEntry
  ups : List (Nat × Nat)
deriving DecidableEq, Repr

/-- What translating a range gives: its chunks; the offset of the first byte that cannot be reached; a wait. -/
inductive Span where
  | ok (cs : List Chunk)
  | fail (off : Nat)
  | wait
deriving DecidableEq, Repr

/-- A virtual range translated page by page, for reading (kind 0) or writing (1). -/
def State.span (s : State) (c : TCtx) (kind va n : Nat) : Span :=
  if n = 0 then .ok [] else
  (List.range ((va + n - 1) / 4096 - va / 4096 + 1)).foldl (fun acc i =>
    match acc with
    | .ok cs =>
      let a := if i = 0 then va else (va / 4096 + i) * 4096
      let stop := min (va + n) ((a / 4096 + 1) * 4096)
      match translate s c a kind with
      | .ok pa e ups => .ok (cs ++ [⟨a - va, pa, stop - a, e, ups⟩])
      | .fail _ _ _ _ => .fail (a - va)
      | .wait => .wait
    | r => r) (.ok [])

/-- The bytes of a translated range. -/
def State.readSpan (s : State) (cs : List Chunk) : List Byte := cs.flatMap (fun c => s.bytes c.pa c.len)

/-- Bytes written to a translated range, performed at their homes. -/
def State.writeSpan (s : State) (cs : List Chunk) (bs : List Byte) : State :=
  cs.foldl (fun s c => s.performBytes c.pa ((bs.drop c.off).take c.len) {}) s

/-- The effects of a range's translations. -/
def State.useSpan (s : State) (c : TCtx) (cs : List Chunk) : State := cs.foldl (fun s x => s.useTrans c x.e x.ups) s

/-- Boundedly undefined bytes written to a translated range (00 R3; log 8, DESIGN CHOICE). -/
def State.freeSpan (s : State) (cs : List Chunk) : State :=
  let n := (cs.map (fun c => c.len)).sum
  let (k, s) := s.takeFresh n
  s.writeSpan cs ((List.range n).map (fun i => Config.freeByte (k + i)))

/-- The headers recorded for a function lapse where a write to a range overlaps them, and with them the joined kernels made
of them (15 R351, R372). -/
def State.lapse (s : State) (fn : Nat) (cs : List Chunk) : State :=
  let hit := fun (pa : Nat) => cs.any (fun c => bytesMeet (pa, 128) (c.pa, c.len))
  { s with headers := s.headers.filter (fun h => h.vf != fn || !hit h.pa),
           splices := s.splices.map (fun e => if e.vf == fn && (hit e.producer || hit e.consumer) then { e with vf := 64 } else e) }

/-- A load that is refused: the code region's bytes are boundedly undefined, and no header is written. -/
def State.refuseLoad (s : State) (fn : Nat) (c : TCtx) (code n : Nat) : State :=
  -- only what can be reached may have been written
  let cs := (List.range (n / 4096 + 1)).flatMap (fun i =>
    let a := if i = 0 then code else (code / 4096 + i) * 4096
    let stop := min (code + n) ((a / 4096 + 1) * 4096)
    if stop ≤ a then [] else match translate s c a 1 with
      | .ok pa e ups => [(⟨a - code, pa, stop - a, e, ups⟩ : Chunk)]
      | _ => [])
  let packed := cs.foldl (fun (acc : Nat × List Chunk) x => (acc.1 + x.len, acc.2 ++ [{ x with off := acc.1 }])) (0, [])
  (((s.useSpan c cs).freeSpan packed.2).lapse fn cs).codeInvalidate fn

/-- The request's verdict written: CAUSE and WHERE, then DONE (15 R351). -/
def State.answerLoad (s : State) (pa cause where_ : Nat) : State :=
  let s := s.performBytes (pa + 32) (toBytesLE 8 (cause + field where_ 32 32)) {}
  s.performBytes (pa + 40) (toBytesLE 1 (natBits (s.num (pa + 40) 1) 7 1 * 2 + 1)) {}

/-- The request at the queue's head run: none while a page it needs is being moved (13 R326; 15 R351). -/
def State.loadRun (s : State) : Option State :=
  match s.loads with
  | [] => none
  | q :: rest =>
    let fn := q.fn
    let s0 := { s with loads := rest }
    let own := ipaCtx fn
    let dropped := some (if natBits (s.reg .loadreq fn).toNat 51 6 * 64 = q.addr then
      s0.setReg .loadreq fn (BitVec.ofNat 64 (q.addr + 2)) else s0)
    match translate s own q.addr 0, translate s own q.addr 1 with
    | .wait, _ | _, .wait => none
    | .ok pa e1 u1, .ok _ e2 u2 =>
      let r := s.num pa 64
      let f := fun (hi lo : Nat) => natBits r hi lo
      let ctx : TCtx := ⟨fn, if natBit r 356 then some (f 383 357 * 2 ^ 21, f 175 160) else none, none, 0⟩
      let image := f 63 0
      let code := f 127 64
      let len := f 159 128
      let hdr := f 255 192
      let s0 := (s0.useTrans own e1 u1).useTrans own e2 u2
      let refuse := fun (s : State) (c w : Nat) => some ((s.refuseLoad fn ctx code len).answerLoad pa c w)
      match s.span ctx 0 image 128 with
      | .wait => none
      | .fail off => refuse s0 0x1C0 off
      | .ok head =>
        let n := natBits (ofBytesLE (s.readSpan head)) 63 34 * 8
        match s.span ctx 0 image n with
        | .wait => none
        | .fail off => refuse s0 0x1C0 off
        | .ok cs =>
          let s0 := s0.useSpan ctx cs
          match buildImage (s.readSpan cs) code len with
          | .error (c, w) => refuse s0 c w
          | .ok b =>
            match s.span ctx 1 code len, s.span ctx 1 hdr 128 with
            | .wait, _ | _, .wait => none
            | .ok ccs, .ok hcs =>
              if code % 4096 ≠ 0 ∨ hdr % 128 ≠ 0 then refuse s0 0x1CC 0
              else
              match b.liveBad with
              | some off => refuse s0 0x1CD off
              | none =>
                let wcs := (ccs.map (fun c => { c with len := min c.len (b.region.length - c.off) })).filter (fun c => c.len != 0)
                let s1 := ((s0.useSpan ctx ccs).useSpan ctx hcs).lapse fn (wcs ++ hcs)
                let s1 := (s1.writeSpan wcs b.region).writeSpan hcs (toBytesLE 128 b.header)
                let s1 := { s1 with headers := s1.headers ++ hcs.map (fun (c : Chunk) => (⟨fn, c.pa⟩ : LoadedHdr)) }
                some ((s1.codeInvalidate fn).answerLoad pa 0 0)
            | _, _ => refuse s0 0x1CC 0
    | _, _ => dropped

/-- Whether the loader can run its next request. -/
def State.loaderReady (s : State) : Bool := !s.loads.isEmpty && s.loadRun.isSome

/-- LOADER_RUN: the loader runs the request at the head of its queue (15 R351). -/
def execLoaderRun (s : State) : Host.Outcome State Fault Refusal := .next (s.loadRun.getD s)

end Sys2Proof.Machine
end

