-- ==== Sys2Proof/Machine/Splicer.lean ====
section
/-! DEFINITION. The kernel splicer: its conditions in order, the match of ports by the expressions of their addresses, the
joined kernel with its header and side table, the splice cache, and the record of each decision (15 R364 to R372;
log 28, DESIGN CHOICE). -/

namespace Sys2Proof.Machine

/-! ### What the splicer reads of a kernel -/

/-- A kernel as the splicer reads it: its header and the header's physical address, its analysed Nyone with the code the
loader made of it, and its layout maps. -/
structure SplKernel where
  pa : Nat
  hdr : BitVec 1024
  param : Nat
  entry : Nat
  code : NyCode
  maps : List Byte
deriving DecidableEq, Repr

/-- A range of memory read through a launch's translations; none where it cannot be. -/
def State.readVa (s : State) (c : TCtx) (va n : Nat) : Option (List Byte) :=
  match s.span c 0 va n with
  | .ok cs => some (s.readSpan cs)
  | _ => none

/-- The records of a kernel's retained Nyone. -/
def State.readNyone (s : State) (c : TCtx) (h : BitVec 1024) : Option (List Nat) :=
  let at_ := recBits h 255 192
  if at_ = 0 then none
  else
    match s.readVa c (at_ - 8) 8 with
    | none => none
    | some n => (s.readVa c at_ (8 * ofBytesLE n)).map (fun bs => imgWords bs 0 (8 * ofBytesLE n))

/-- A launch's kernel read for the splicer: none where its header is not a loaded one with Nyone and ports (15 R365,
reason 4). -/
def State.splKernel (s : State) (l : Launch) (r : BitVec 1024) : Option SplKernel :=
  match s.headerAt l r with
  | .ok pa _ _ =>
    let h := s.record pa
    match if s.loadedAt l.vf pa then s.readNyone (l.tctx r) h else none with
    | none => none
    | some ws =>
      let maps := if recBits h 447 384 = 0 then some [] else s.readVa (l.tctx r) (recBits h 447 384) 2048
      match maps with
      | none => none
      | some tab =>
        match translateNy ws (hdrRegs h) (hdrKregs h) (hdrWidth h) (hdrShadow h) (if tab.isEmpty then [] else mapRegs tab) with
        | .error _ => none
        | .ok c =>
          if !c.x.k.nodes.any (fun n => n.r.port) ∨ recBits h 511 448 = 0 then none
          else some ⟨pa, h, recBits r 127 64, recBits h 63 0, c, tab⟩
  | _ => none

/-- The analysed records of a kernel. -/
def SplKernel.k (x : SplKernel) : NyKernel := x.code.x.k

/-- The positions of a kernel's ports of a kind. -/
def SplKernel.portsOf (x : SplKernel) (store : Bool) : List Nat :=
  (List.range x.k.nodes.length).filter (fun p =>
    let r := (x.k.at_ p).r
    r.port && nyPortKind r.unit r.opc == some store)

/-- Layout maps of a kernel: one more than the highest index that is defined or that a HATCH names (log 28, DESIGN CHOICE). -/
def SplKernel.mapCount (x : SplKernel) : Nat :=
  if x.maps.isEmpty then 0
  else
    let named := (x.k.nodes.filter (fun n => n.r.isOp && n.r.unit == 3 && n.r.opc == 0x038)).map (fun n => natBits n.r.low 5 0 + 1)
    max (listMax named) (listMax ((List.range 64).map (fun i => if mapTiles (mapDescs x.maps i) = 0 then 0 else i + 1)))

/-! ### Ports (15 R366) -/

/-- The kinds of records that an address expression may hold. -/
def exprKind (u op : Nat) : Bool :=
  (u == 0 && decide (op ∈ [0x045, 0x046, 0x044, 0x010, 0x014, 0x015, 0x030, 0x047]))
    || (u == 4 && decide (op ∈ [0x013, 0x010, 0x012, 0x014, 0x017]))

/-- The word that an LD.G of a kernel's parameter block at a constant offset reads, as the splicer reads it. -/
def State.paramWord (s : State) (c : TCtx) (x : SplKernel) (low : Nat) : Option Nat :=
  let sz := natBits low 19 16
  -- bytes of an access size (07 R168)
  let n := if sz ≤ 1 then 1 else if sz ≤ 3 then 2 else if sz = 4 then 4 else if sz = 5 then 8 else 16
  (s.readVa c (((x.param : Int) + toSigned 9 (low % 512) * (n : Int)) % 2 ^ 64).toNat n).map ofBytesLE

/-- What the launch values hold at the start: k0:k1 PARAM, k2:k3 the record's address (14 R339). -/
def startK (param entry code width : Nat) : Nat :=
  let v := if code < 194 then param else entry
  if width = 2 then v else natBits v (32 * (code % 2) + 31) (32 * (code % 2))

/-- An address expression expanded backward, as a list of numbers: operations with their modifiers, parameter words by
value, launch values by value, specials, and the splice loop's index; none where it holds anything else. -/
def SplKernel.expand (s : State) (c : TCtx) (x : SplKernel) (entry loop : Nat) : Nat → Nat → NyOpr → Option (List Nat)
  | 0, _, _ => none
  | _ + 1, w, .code r =>
    if 192 ≤ r ∧ r < 196 then some [1, startK x.param entry r w]
    else if r ∈ [240, 242, 243, 244, 245, 246, 247, 250] then some [2, r] else none
  | f + 1, _, .val p =>
    let r := (x.k.at_ p).r
    let os := x.k.oprs p
    if p = loop then some [3]
    else if r.isOp && exprKind r.unit r.opc && r.gk == 0 then
      os.foldl (fun acc o => match acc, SplKernel.expand s c x entry loop f (nyWidth o.2.1) o.2.2 with
        | some l, some m => some (l ++ m)
        | _, _ => none) (some [4, r.op, r.low])
    else if paramLoad r && os.map (fun o => o.2.2) == [.code 192, .code 240] then
      (s.paramWord c x r.low).map (fun v => [5, r.op, r.low, v])
    else none
where
  /-- a plain LD.G without a guard -/
  paramLoad (r : NyRec) : Bool := r.isOp && r.unit == 2 && r.opc == 0x010 && r.gk == 0 && natBits r.low 13 12 == 0

/-- The value of a q operand that launch values, parameter words and constants alone decide (08 R197). -/
def SplKernel.value (s : State) (c : TCtx) (x : SplKernel) (entry : Nat) : Nat → Nat → NyOpr → Option Nat
  | 0, _, _ => none
  | _ + 1, w, .code r => if 192 ≤ r ∧ r < 196 then some (startK x.param entry r w) else if r = 240 then some 0 else none
  | f + 1, _, .val p =>
    let r := (x.k.at_ p).r
    let os := x.k.oprs p
    let of := fun (i : Nat) => match os[i]? with
      | some o => SplKernel.value s c x entry f (nyWidth o.2.1) o.2.2
      | none => none
    let two := fun (g : Nat → Nat → Nat) => match of 0, of 1 with
      | some a, some b => some (g a b % 2 ^ 64)
      | _, _ => none
    if !r.isOp || r.gk != 0 then none
    else if SplKernel.expand.paramLoad r then
      if os.map (fun o => o.2.2) == [.code 192, .code 240] then s.paramWord c x r.low else none
    else if r.op = 0x1013 then some (toSigned 28 r.low % 2 ^ 64).toNat
    else if r.op = 0x1010 then two (· + ·)
    else if r.op = 0x1012 then two (· * ·)
    else if r.op = 0x1014 ∧ natBits r.low 1 0 = 0 then two (fun a b => if 64 ≤ b then 0 else a * 2 ^ b)
    else if r.op = 0x1017 then of 0
    else none

/-- The address operands of a port: of a store the second and third, of a load the first and second. -/
def SplKernel.portOprs (x : SplKernel) (p : Nat) : List (Nat × Opnd × NyOpr) :=
  let r := (x.k.at_ p).r
  if nyPortKind r.unit r.opc = some true then (x.k.oprs p).drop 1 else x.k.oprs p

/-- What an address operand of a port expands to. -/
def SplKernel.portExpr (s : State) (c : TCtx) (x : SplKernel) (entry p : Nat) (o : Nat × Opnd × NyOpr) : Option (List Nat) :=
  x.expand s c entry ((x.k.at_ p).encl.headD 0) (x.k.nodes.length + 1) (nyWidth o.2.1) o.2.2

/-- The move descriptor of a port without a transpose: %zero selects the default (08 R202). -/
def SplKernel.portDesc (s : State) (c : TCtx) (x : SplKernel) (entry : Nat) (o : Nat × Opnd × NyOpr) : Option Nat :=
  if o.2.2 = .code 240 then some (128 + 31 * 2 ^ 20 + 4096 * 2 ^ 32) else x.value s c entry (x.k.nodes.length + 1) 1 o.2.2

/-- A producer's store port and a consumer's load port match (15 R366): id, kind, plain access, guard, shape, index
function. -/
def portsMatch (s : State) (cp cc : TCtx) (p c : SplKernel) (ep ec i j : Nat) : Bool :=
  let a := (p.k.at_ i).r
  let b := (c.k.at_ j).r
  let form := if a.unit = 2 then a.opc == 0x011 && b.unit == 2 && b.opc == 0x010 && natBits a.low 19 14 == natBits b.low 19 14
        && natBits a.low 8 0 == natBits b.low 8 0
      else a.opc == 0x011 && b.unit == 5 && b.opc == 0x010 && natBits a.low 15 14 == natBits b.low 15 14
  let same := fun (x y : Option (List Nat)) => x.isSome && x == y
  let exprs := ((p.portOprs i).zip (c.portOprs j)).map (fun (e : (Nat × Opnd × NyOpr) × (Nat × Opnd × NyOpr)) => same (p.portExpr s cp ep i e.1) (c.portExpr s cc ec j e.2))
  let descs := ((p.portOprs i).zip (c.portOprs j)).map (fun (e : (Nat × Opnd × NyOpr) × (Nat × Opnd × NyOpr)) =>
    let d := p.portDesc s cp ep e.1
    d.isSome && d == c.portDesc s cc ec e.2)
  a.rd == b.rd && form && natBits a.low 13 12 == 0 && natBits b.low 13 12 == 0 && a.gk == 0 && b.gk == 0
    -- of a tile port the first operand is the address, the second the move descriptor
    && (if a.unit = 2 then exprs.all id else exprs.getD 0 false && (exprs.getD 1 false || descs.getD 1 false))

/-- The loop that every port of a kernel stands in, at depth 1 (15 R366). -/
def SplKernel.spliceLoop (x : SplKernel) : Option Nat :=
  let ls := dedup (((List.range x.k.nodes.length).filter (fun p => (x.k.at_ p).r.port)).map (fun p => (x.k.at_ p).encl))
  match ls with
  | [[l]] => some l
  | _ => none

/-- A loop's trip count as a constant or a parameter word; none of a guarded loop, which runs in some lanes alone. -/
def SplKernel.trips (s : State) (c : TCtx) (x : SplKernel) (entry l : Nat) : Option (List Nat) :=
  let r := (x.k.at_ l).r
  if r.gk ≠ 0 then none else
  match x.expand s c entry l (x.k.nodes.length + 1) 1 (nyOpr l r.d1 r.ra) with
  | some (4 :: op :: t) => if op = 0x045 ∨ op = 0x1013 then some (4 :: op :: t) else none
  | some (5 :: t) => some (5 :: t)
  | some [2, 240] => some [2, 240]
  | _ => none

/-- Reason 5: the pairs of matching ports, where there is one and every port of the consumer has its producer's, and the
loops agree (15 R365, R366). -/
def portPairs (s : State) (cp cc : TCtx) (p c : SplKernel) (ep ec : Nat) : Option (Nat × Nat × List (Nat × Nat)) :=
  match p.spliceLoop, c.spliceLoop with
  | some lp, some lc =>
    let ps := (c.portsOf false).map (fun j =>
      ((p.portsOf true).find? (fun i => portsMatch s cp cc p c ep ec i j)).map (fun i => (i, j)))
    match allSome ps, p.trips s cp ep lp, c.trips s cc ec lc with
    | some (x :: xs), some a, some b => if a == b && (c.portsOf true).isEmpty then some (lp, lc, x :: xs) else none
    | _, _, _ => none
  | _, _ => none

/-! ### The joined kernel (15 R368) -/

/-- The cc registers that thread code of a kernel may write, its loop tests' among them. -/
def NyKernel.ccWrites (k : NyKernel) : List Nat :=
  k.test.toList ++ (k.nodes.filter (fun n => !n.tile)).flatMap (fun n => n.r.ccWritten.toList)

/-- Whether thread code over a run of positions may read a cc register before it has written it in every lane; base is how
many loops stand around the run. -/
def NyKernel.exposes (k : NyKernel) (i j base c : Nat) : Bool :=
  ((List.range j).foldl (fun (st : Bool × Bool) p =>
    let n := k.at_ p
    let reads := (n.r.gk != 0 && n.r.gc == c) || (n.r.isOp && n.r.readsCc && natBits n.r.low 10 9 == c)
    if p < i ∨ n.tile then st
    else (st.1 || (reads && !st.2), st.2 || (n.r.gk == 0 && n.r.ccWritten == some c && n.encl.length == base))) (false, false)).1

/-- The cc registers of a kernel that hold a value over code of the other kernel and that this may write: into its splice
loop's body, into what follows it, and for the consumer into what precedes it (15 R357, R368). -/
def SplKernel.ccKept (x other : SplKernel) (l : Nat) (before : Bool) : List Nat :=
  let e := x.k.endOf l
  (List.range 4).filter (fun c => decide (c ∈ other.k.ccWrites) && (x.k.exposes (l + 1) e 1 c || x.k.exposes (e + 1) x.k.nodes.length 0 c
    || (before && x.k.exposes 0 l 0 c)))

/-- Codes of the v registers that a kernel's allotment leaves free throughout. -/
def NyCtx.free (x : NyCtx) : List Nat :=
  ((x.k.avail .v 1).filter (fun r => x.rs.all (fun y => y.life.cls != .v || decide (r < y.base) || decide (y.base + y.span ≤ r)))).map
    (x.codeOf .v)

/-- The two parts of a joined kernel as they are emitted, the cc registers of each that v registers hold while the other
runs, and whether the allotments have every register that this takes. -/
structure JoinCtx where
  p : NyCtx
  c : NyCtx
  ccP : List (Nat × Nat)
  ccC : List (Nat × Nat)
  fits : Bool
deriving DecidableEq, Repr

/-- The contexts of the two parts under the offsets of 15 R368, with the consumer's ports redirected and the producer's
store ports out of their places. -/
def joinCtx (p c : SplKernel) (lp lc : Nat) (pairs : List (Nat × Nat)) : JoinCtx :=
  let stores := (p.portsOf true).filter (fun i => (p.k.at_ i).r.unit == 2 || !(p.k.at_ i).r.keep)
  let xp := { p.code.x with moved := stores.map (fun i => (i, none)) }
  let datum := fun (i : Nat) => match (p.k.oprs i).head? with
    | some o => xp.code o.2.2
    | none => 240
  let tile := fun (i : Nat) => (p.k.at_ i).r.unit == 5
  let xc := { c.code.x with
    offV := hdrRegs p.hdr, offK := hdrKregs p.hdr, offT := recBits p.hdr 287 280, offMap := p.mapCount, scratch := hdrScratch p.hdr,
    cubby := hdrCubby p.hdr, launch := 192 + hdrKregs p.hdr + hdrKregs c.hdr,
    tiles := (pairs.filter (fun (e : Nat × Nat) => tile e.1)).map (fun (e : Nat × Nat) => (e.2, datum e.1)),
    moved := (pairs.filter (fun (e : Nat × Nat) => !tile e.1)).map (fun (e : Nat × Nat) => (e.2, some (datum e.1))) }
  let free := xp.free ++ xc.free
  let keptP := p.ccKept c lp false
  let keptC := c.ccKept p lc true
  let n := keptP.length + keptC.length
  let xc := { xc with kept := free.take n, extra := free.drop n }
  { p := xp, c := xc, ccP := keptP.zip (free.take keptP.length), ccC := keptC.zip (free.drop keptP.length),
    fits := decide (n ≤ free.length) && xc.shiftable }

/-- A kept store at the end of the body: its words with the release at .blk (15 R368, step 5). -/
def keptStore (x : NyCtx) (i : Nat) : List PWord :=
  (x.opWords i {}).1.map (fun w => if w.key = 64 * i then { w with w := w.w + 0x1200 } else w)

/-- A word of joined code with the part it stands for; none for the seam's safe point and for what holds a cc register. -/
structure JWord where
  w : PWord
  part : Option Bool
deriving DecidableEq, Repr

/-- The joined code (15 R368, steps 1 to 6). Where control passes from one part to the other, the cc registers that one needs
again and the other may write are held in v registers (15 R357). -/
def joinWords (p c : SplKernel) (lp lc : Nat) (j : JoinCtx) : List JWord :=
  let xp := j.p
  let xc := j.c
  let np := p.k.nodes.length
  let nc := c.k.nodes.length
  let ep := p.k.endOf lp
  let ec := c.k.endOf lc
  let np' := if (p.k.at_ (np - 1)).r.isOp && (p.k.at_ (np - 1)).r.unit == 3 && (p.k.at_ (np - 1)).r.opc == 0x015 then np - 1 else np
  let save := fun (l : List (Nat × Nat)) => l.map (fun e => (⟨slotWord 0 0x048 0 0 e.2 0 0 0 (512 * e.1), 0, none⟩ : PWord))
  let load := fun (l : List (Nat × Nat)) => l.map (fun e => (⟨slotWord 0 0x049 0 0 0 e.2 0 0 (2048 + 512 * e.1), 0, none⟩ : PWord))
  let toC := save j.ccP ++ load j.ccC
  let toP := save j.ccC ++ load j.ccP
  let held := (j.ccP ++ j.ccC).foldl (fun m e => m ||| 2 ^ e.2) 0
  let live := fun (x : NyCtx) (tile : Bool) (t : NyLife → Bool) => x.liveOwn tile t ||| x.liveFixed tile ||| (if tile then 0 else held)
  let with_ := fun (x y : NyCtx) (t : NyLife → Bool) => { x with liveV := live y false t, liveT := live y true t }
  let past := fun (e : Nat) (y : NyLife) => decide (y.first ≤ e) && decide (e < y.last)
  let none_ := fun (_ : NyLife) => false
  let more := fun (r : NyRun) (ws : List PWord) => { r with words := r.words + ws.length, held := [] }
  let first := save j.ccC
  let (preP, run) := (with_ xp xc none_).range (np + 1) 0 lp (more {} first)
  let initP := xp.loopInit lp
  let initC := xc.loopInit lc
  let (preC, _) := (with_ xc xp (fun y => y.liveBefore lp || y.liveAtLoop lp)).range (nc + 1) 0 lc (more run (initP ++ toC))
  let xb := with_ xp xc (NyLife.liveAtLoop lc)
  let (bodyP, _) := xb.range (np + 1) (lp + 1) ep ⟨xb.headLen lp, [], []⟩
  let seam : PWord := ⟨slotWord 3 0x039 0 0 0 0 0 0 0, 0,
    some (live xp false (NyLife.liveBefore ep) ||| live xc false (NyLife.liveAtLoop lc))⟩
  let (bodyC, _) := (with_ xc xp (NyLife.liveBefore ep)).range (nc + 1) (lc + 1) ec (more {} toC)
  let kept := ((p.portsOf true).filter (fun i => (p.k.at_ i).r.unit == 2 && (p.k.at_ i).r.keep)).flatMap (keptStore xp)
  let stepC := xc.loopStep lc ++ toP
  let stepP := kept ++ xp.loopStep lp
  let (postP, run) := (with_ xp xc (past ec)).range (np + 1) (ep + 1) np'
    (if p.k.once lp then more {} (toC ++ bodyC ++ stepC ++ stepP) else ⟨xb.headLen lp + 1, [], []⟩)
  let (postC, _) := (with_ xc xp none_).range (nc + 1) (ec + 1) nc (more run toC)
  let by_ := fun (b : Option Bool) (ws : List PWord) => ws.map (fun w => (⟨w, b⟩ : JWord))
  let body := by_ (some false) bodyP ++ by_ none [seam] ++ by_ none toC ++ by_ (some true) bodyC ++ by_ (some true) (xc.loopStep lc)
    ++ by_ none toP ++ by_ (some false) stepP
  let frame := xb.loopWords lp [] (body.map (fun w => w.w))
  let h := xb.headLen lp
  by_ none first ++ by_ (some false) (preP ++ initP) ++ by_ none toC ++ by_ (some true) (preC ++ initC) ++ by_ none toP
    ++ by_ (some false) (frame.take h) ++ body ++ by_ (some false) (frame.drop (h + body.length))
    ++ by_ (some false) postP ++ by_ none toC ++ by_ (some true) (postC ++ [exitWord (64 * nc)])

/-- Where a word of joined code stands in its own kernel's code: the word of its record's with the same number, in order where
there are several; else the record's own word (15 R371). -/
def sideOf (p c : SplKernel) (before : List JWord) (w : JWord) : Option SideEntry :=
  match w.part with
  | none => none
  | some b =>
    let x := if b then c else p
    let places := fun (key : Nat) => ((indexed x.code.code).filter (fun y => y.2.key == key)).map Prod.fst
    let nth := (before.filter (fun y => y.part == some b && y.w.key == w.w.key)).length
    let i := match (places w.w.key)[nth]? with
      | some i => i
      | none => (places (w.w.key / 64 * 64)).headD 0
    some ⟨b, x.entry + 8 * i⟩

/-- The joined kernel's layout maps: the producer's, then the consumer's with their registers moved (15 R368, step 2). -/
def joinMaps (p c : SplKernel) : List Byte :=
  if p.maps.isEmpty ∧ c.maps.isEmpty then []
  else
    let of := fun (x : SplKernel) => ((List.range x.mapCount).flatMap (fun i => mapDescs x.maps i))
    let moved := (of c).map (fun d => if natBit d 31 then d + hdrRegs p.hdr * 256 else d)
    padded 2048 ((of p ++ moved).flatMap (toBytesLE 4))

/-- A joined kernel ready to be placed: its words, live lists, side entries and maps, and the fields of its header that do
not depend on its place (15 R368, step 7). -/
structure JoinedKernel where
  words : List JWord
  side : List (Option SideEntry)
  maps : List Byte
  fields : Nat
  /-- it translates within the sums of the allotments and meets every rule (15 R365, reason 13) -/
  legal : Bool
deriving DecidableEq, Repr

/-- The declared width of a pair: the one that is declared. -/
def joinWidth (p c : BitVec 1024) : Nat := if hdrWidth p = 0 then hdrWidth c else hdrWidth p
/-- The shadow range of a pair. -/
def joinShadow (p c : BitVec 1024) : Option (Nat × Nat) :=
  match hdrShadow p, hdrShadow c with
  | some r, _ => some r
  | none, some (a, b) => some (a + hdrRegs p, b + hdrRegs p)
  | none, none => none

/-- The joined header's fields beside its addresses (15 R368, step 7). -/
def joinFields (p c : BitVec 1024) (loft : Bool) : Nat :=
  let sh := joinShadow p c
  let np := recBits p 295 292
  let disc := (List.range (min 8 (np + recBits c 295 292))).map (fun i =>
    (if i < np then recBits p (64 * i + 551) (64 * i + 512)
     else recBits c (64 * (i - np) + 551) (64 * (i - np) + 512) + hdrScratch p) * 2 ^ (64 * i + 512))
  field (hdrRegs p + hdrRegs c) 256 8 + field (hdrKregs p + hdrKregs c + 1) 264 8 + field (joinWidth p c) 272 8
    + field (recBits p 287 280 + recBits c 287 280) 280 8 + field (max (hdrHatch p) (hdrHatch c)) 288 4
    + field (np + recBits c 295 292) 292 4 + field (hdrCubby p + hdrCubby c) 296 14 + field (hdrScratch p + hdrScratch c) 320 19
    + (match sh with | some (a, b) => field a 352 8 + field b 360 8 + field 1 368 1 | none => 0)
    + field (bit01 loft) 369 1 + field 1 370 1 + disc.sum

/-- The joined kernel built by 15 R368. A splice loop in tile code cannot be joined: tile code would stand in tile code
(15 R355). -/
def joinKernel (p c : SplKernel) (lp lc : Nat) (pairs : List (Nat × Nat)) : JoinedKernel :=
  let j := joinCtx p c lp lc pairs
  let ws := joinWords p c lp lc j
  let regs := hdrRegs p.hdr + hdrRegs c.hdr
  let kregs := hdrKregs p.hdr + hdrKregs c.hdr + 1
  { words := ws, side := (indexed ws).map (fun w => sideOf p c (ws.take w.1) w.2), maps := joinMaps p c,
    fields := joinFields p.hdr c.hdr (ws.any (fun w => decide (4 ≤ natBits w.w.w 62 60))),
    legal := j.fits && !(p.k.at_ lp).tile && !(c.k.at_ lc).tile
      && !ws.any (fun w => wordBad regs kregs (joinWidth p.hdr c.hdr) (joinShadow p.hdr c.hdr) w.w.w) }

/-- The bytes of a joined kernel placed at an address, the header last, and the header (15 R352, R360, R372). -/
def JoinedKernel.place (j : JoinedKernel) (at_ : Nat) : List Byte × Nat :=
  let code := j.words.flatMap (fun w => toBytesLE 8 w.w.w)
  let idx := (List.range j.words.length).zip j.words
  let safes := idx.filterMap (fun p => p.2.w.live.map (fun l => (⟨8 * p.1, decide (4 ≤ natBits p.2.w.w 62 60), l⟩ : SafeEntry)))
  let sb := safeBytes at_ safes
  let side := toBytesLE 8 j.side.length ++ j.side.flatMap (fun e => match e with
    | some e => toBytesLE 8 e.pc ++ toBytesLE 8 (1 + bit01 e.consumer)
    | none => toBytesLE 16 0)
  let safeAt := at_ + code.length
  let mapAt := safeAt + sb.length
  let sideAt := mapAt + j.maps.length
  let body := code ++ sb ++ j.maps ++ side
  let hdr := field at_ 0 64 + field sideAt 64 64 + field safeAt 128 64 + j.fields + field (if j.maps.isEmpty then 0 else mapAt) 384 64
  (padded (roundUp body.length 128) body ++ toBytesLE 128 hdr, hdr)

/-- Bytes that a joined kernel takes. -/
def JoinedKernel.size (j : JoinedKernel) : Nat := (j.place 0).1.length

/-! ### The splice cache (15 R372) -/

/-- Whether a joined kernel is used by a launch that has not completed. -/
def State.spliceUsed (s : State) (e : SpliceEntry) : Bool :=
  let at_ := fun (h : BitVec 1024) => h.getLsbD 370 && recBits h 63 0 == e.at_
  s.launches.any (fun l => l.2.stage != 5 && at_ l.2.header) || s.blocks.any (fun b => at_ b.2.header)
    || s.saved.any (fun v => v.2.blocks.any (fun b => at_ b.2.header))

/-- The first place of a function's splice cache where a length fits beside the entries there. -/
def State.spliceFit (s : State) (vf n : Nat) : Option Nat :=
  let base := natBits (s.reg .splbase vf).toNat 51 12 * 4096
  let stop := base + natBits (s.reg .spllen vf).toNat 51 12 * 4096
  ((base :: s.splices.map (fun e => roundUp (e.at_ + e.len) 128)).filter (fun a => decide (base ≤ a) && decide (a + n ≤ stop)
    && s.splices.all (fun e => !bytesMeet (a, n) (e.at_, e.len)))) |> fun l => if l.isEmpty then none else some (listMin stop l)

/-- Room in the splice cache, made by replacing unused entries of the function, least recently used first (15 R372). -/
def State.spliceRoom (vf n : Nat) : Nat → State → Option (Nat × State)
  | 0, _ => none
  | f + 1, s =>
    match s.spliceFit vf n with
    | some a => some (a, s)
    | none =>
      let base := natBits (s.reg .splbase vf).toNat 51 12 * 4096
      let stop := base + natBits (s.reg .spllen vf).toNat 51 12 * 4096
      let old := s.splices.filter (fun e => decide (base ≤ e.at_) && decide (e.at_ < stop) && !s.spliceUsed e)
      match sortBy (fun (a b : SpliceEntry) => decide (a.used < b.used)) old with
      | [] => none
      | e :: _ => State.spliceRoom vf n f { s with splices := s.splices.filter (fun x => x.at_ != e.at_) }

/-- A joined kernel in the cache: a pair spliced before keeps its entry; a new one is written where there is room and it is
legal, and the cores drop what code they hold of the function; else the reason that fails (15 R361, R365, R372). -/
def State.spliceStore (s : State) (vf : Nat) (p c : SplKernel) (j : JoinedKernel) : Except Nat (SpliceEntry × State) :=
  match s.splices.find? (fun e => e.vf == vf && e.producer == p.pa && e.consumer == c.pa) with
  | some e =>
    .ok (e, { s with splices := s.splices.map (fun x => if x.at_ = e.at_ then { x with used := s.gts } else x) })
  | none =>
    match s.spliceRoom vf j.size (s.splices.length + 1) with
    | none => .error 12
    | some (a, s) =>
      if !j.legal then .error 13 else
      let (bs, hdr) := j.place a
      let side : Map SideEntry := ((List.range j.side.length).zip j.side).foldl (fun m e => match e.2 with
        | some x => Map.insert m (a + 8 * e.1) x
        | none => m) []
      let e : SpliceEntry := { vf := vf, producer := p.pa, consumer := c.pa, at_ := a, len := bs.length, used := s.gts, side := side,
                               header := BitVec.ofNat 1024 hdr }
      let s := { s with splices := s.splices ++ [e] }
      .ok (e, (s.performBytes a bs {}).codeInvalidate vf)

/-! ### The decision (15 R364, R365) -/

/-- The fields in which two records must agree (15 R365, reason 6). -/
def recordsAgree (p c : BitVec 1024) : Bool :=
  [(159, 128), (175, 160), (191, 176), (201, 192), (211, 202), (221, 212), (241, 240), (239, 239), (238, 238), (287, 256), (319, 288),
    (367, 341), (383, 368), (511, 455), (1023, 512)].all (fun f => recBits p f.1 f.2 == recBits c f.1 f.2)

/-- The producer's record as the joined launch has it; the sum of TILES fits its field where reason 9 holds (15 R368). -/
def joinRecord (p c : BitVec 1024) : BitVec 1024 :=
  let n := p.toNat - field (recTiles p) 242 7 - field (bit01 (p.getLsbD 237)) 237 1
  BitVec.ofNat 1024 (n + field (recTiles p + recTiles c) 242 7 + field (bit01 (p.getLsbD 237 && c.getLsbD 237)) 237 1)

/-- The partition modes that a decision for a function must allow for (15 R365, reason 9). -/
def State.spliceModes (s : State) (vf : Nat) : List Nat :=
  let ms := dedup ((s.ownParts vf s.dies).map (fun x => s.mode x.1))
  if ms.isEmpty then [0] else ms

/-- Reason 9: the joined block, of so many tiles, fits an empty partition of every mode (14 R345). -/
def State.spliceFits (s : State) (vf tiles : Nat) (p c r h : BitVec 1024) : Bool :=
  (s.spliceModes vf).all (fun m =>
      decide (hdrScratch p + hdrScratch c ≤ 393216 / modeParts m)
        && decide (tiles + max (hdrHatch p) (hdrHatch c) ≤ 64 / modeParts m)
        && ((emptyPart m (partColumns m 0)).fit (demandOf r h)).isSome)
    && decide (hdrCubby p + hdrCubby c ≤ 8192) && decide (recBits p 295 292 + recBits c 295 292 ≤ 8)

/-- Reason 10: the shape rules (15 R367). -/
def shapesOk (p c : SplKernel) (lc : Nat) (pairs : List (Nat × Nat)) : Bool :=
  let n := p.k.nodes.length
  let exits := (List.range (n - 1)).any (fun i => (p.k.at_ i).r.isOp && (p.k.at_ i).r.unit == 3 && (p.k.at_ i).r.opc == 0x015)
  let tiles := (pairs.filter (fun e => (c.k.at_ e.2).r.unit == 5)).map (fun e => e.2)
  !exits && tiles.all (fun t => (List.range c.k.nodes.length).all (fun q =>
    !(nyUses c.k.width c.k.nodes q).any (fun u => u.val == t)
      || ((c.k.at_ q).r.op != nyCarry && decide (lc < q) && decide (q < c.k.endOf lc))))

/-- A decision: the reason, and where it is to splice, the joined kernel and the entry that holds it. -/
def State.spliceChecks (s : State) (p c : Launch) (r q : BitVec 1024) : Nat × Option (SpliceEntry × State) :=
  let no := fun (n : Nat) => (n, (none : Option (SpliceEntry × State)))
  if !q.getLsbD 235 then no 2
  else if r.getLsbD 236 || q.getLsbD 236 || p.joined.isSome || c.joined.isSome || p.header.getLsbD 370 then no 3
  else
    match s.splKernel p r, s.splKernel c q with
    | some kp, some kc =>
      if kp.hdr.getLsbD 370 || kc.hdr.getLsbD 370 then no 3
      else
        let ent := fun (l : Launch) => (s.reg .qva l.queue).toNat / 128 * 128 + 128 * l.ring
        match portPairs s (p.tctx r) (c.tctx q) kp kc (ent p) (ent c) with
        | none => no 5
        | some (lp, lc, pairs) =>
          let hp := kp.hdr
          let hc := kc.hdr
          let r' := joinRecord r q
          let h' := BitVec.ofNat 1024 (joinFields hp hc false)
          if !recordsAgree r q || p.vf != c.vf then no 6
          else if 192 < hdrRegs hp + hdrRegs hc ∨ 48 < hdrKregs hp + hdrKregs hc + 1 then no 7
          else if 64 < recBits hp 287 280 + recBits hc 287 280 ∨ 64 < kp.mapCount + kc.mapCount then no 8
          else if !s.spliceFits p.vf (recTiles r + recTiles q) hp hc r' h' then no 9
          else if !shapesOk kp kc lc pairs then no 10
          else if (hp.getLsbD 368 && hc.getLsbD 368) || (hdrWidth hp != hdrWidth hc && hdrWidth hp != 0 && hdrWidth hc != 0) then no 11
          else
            match s.spliceStore p.vf kp kc (joinKernel kp kc lp lc pairs) with
            | .error n => no n
            | .ok x => (0, some x)
    | _, _ => no 4

/-- What every decision leaves: SPLAST, a SPLICE record where the kind is enabled, and the count (15 R372; 17 R425,
R419). -/
def State.spliceRecord (s : State) (l : Launch) (reason : Nat) : State :=
  let s := s.setReg .splast l.queue (BitVec.ofNat 64 (l.seq % 2 ^ 56 * 256 + reason))
  let s := if s.traceOn l.vf 4 then
      s.pushRec ⟨2, l.vf, s.gts, 24577, traceBits s.gts l.lid 0 0 4 24577 0 (field l.seq 0 56 + field reason 56 8) false false, none⟩
    else s
  s.countShared l.vf 5 0 (if reason = 0 then 0 else 1) 1

/-- SPLICE_DECISION: the one decision for a queue's head: it is joined with its successor, which leaves the queue with it,
or it goes on by itself (15 R364, R365, R368, R370). -/
def execSpliceDecision (queue : Nat) (s : State) : Host.Outcome State Fault Refusal :=
  .next (match Map.findBy (fun _ l => l.queue == queue && l.stage == 1) s.launches with
    | none => s
    | some (h, p) =>
      let pass := fun (s : State) (n : Nat) => (s.spliceRecord p n).modLaunch h (fun l => { l with stage := 2 })
      match Map.findBy (fun _ l => l.queue == queue && l.seq == p.seq + 1 && l.stage == 0 && l.failed.isNone) s.launches with
      | none => pass s 1
      | some (g, c) =>
        -- the successor's entry is read once; the splicer waits for no page of it
        let s := match c.record, s.ringEntry c.queue c.vf c.ring with
          | none, .ok _ _ _ => s.readEntry g c
          | _, _ => s
        match Map.find? s.launches g, p.record with
        | some c, some r =>
          match c.record with
          | none => pass s 2
          | some q =>
            match s.spliceChecks p c r q with
            | (0, some (e, s)) =>
              let j : Joined := { seq := c.seq, ring := c.ring, param := recBits q 127 64, kp := hdrKregs p.header,
                                  kc := recBits e.header 271 264 - hdrKregs p.header - 1 }
              let s := (s.spliceRecord p 0).modLaunch h (fun l =>
                { l with stage := 2, record := some (joinRecord r q), header := e.header, joined := some j })
              { s with launches := Map.erase s.launches g }
            | (n, _) => pass s n
        | _, _ => pass s 2)

end Sys2Proof.Machine
end

