-- ==== Sys2Proof/Machine/EventsHost.lean ====
section
/-! DEFINITION. What reaches the package from outside: register writes, the host's and peers' accesses, links, attestation,
maintenance mode, bring-up and power (18 R433 to R444; 00 R2; 13 R305). -/

namespace Sys2Proof.Machine

/-! ### The service state (18 R439, R441, R443, R444) -/

/-- The status word changes: its time is recorded, and every function is told (18 R434, R441). -/
def State.statusChanged (s : State) : State :=
  (List.range 64).foldl (fun s fn => s.signal fn 3) { s with changedAt := s.gts }

/-- MAINT_ENTER: the PF writes 1 to DEVCTL bit 0 (18 R443). -/
def execMaintEnter (s : State) : Host.Outcome State Fault Refusal := .next (s.setReg .devctl 0 1)

/-- Whether maintenance mode takes effect: asked for, and no VF has a resident block (18 R443). -/
def State.maintDue (s : State) : Bool :=
  !s.maint && (s.reg .devctl 0).getLsbD 0 && s.blocks.all (fun e => e.2.vf == 0)

/-- MAINT_EFFECT (18 R443). -/
def execMaintEffect (s : State) : Host.Outcome State Fault Refusal :=
  .next (if s.maintDue then { s with maint := true }.statusChanged else s)

/-- MAINT_LEAVE (18 R443). -/
def execMaintLeave (s : State) : Host.Outcome State Fault Refusal :=
  let t := s.setReg .devctl 0 0
  .next (if s.maint then { t with maint := false }.statusChanged else t)

/-- RESET: the machine after reset; die 0's firmware may fail its verification, and the package then stays in reset
(18 R439, R440, R442). -/
def execReset (s : State) : Host.Outcome State Fault Refusal :=
  let (bad, s) := s.pick 2
  .next { State.reset with agenda := s.agenda, picks := s.picks, fresh := s.fresh, verified := bad == 0 }

/-- Cores of a die retired with it (02 R9; 18 R439). -/
def State.retireDie (s : State) (die : Nat) : State :=
  (List.range 64).foldl (fun s i => s.modCore (64 * die + i) (fun c => { c with retired := true })) s

/-- FULL_SERVICE: dies 1 to 5 serve with their stacks and ports, but for those that fail verification or training, which are
retired whole; low gear ends (01 R8, R17; 18 R439). -/
def execFullService (s : State) : Host.Outcome State Fault Refusal :=
  .next (if !s.lowGear then s
    else
      let (k, s) := s.pick 32
      let bad := [1, 2, 3, 4, 5].filter (fun d => natBit k (d - 1))
      let s := bad.foldl (fun s d => s.retireDie d) s
      let good := [1, 2, 3, 4, 5].filter (fun d => decide (d ∉ bad))
      { s with lowGear := false, mhz := 1050, dies := 0 :: good,
               atticUp := dedup (s.atticUp ++ (List.range 4).filter (fun p => decide (atticDie p ∈ good))),
               ladderUp := dedup (s.ladderUp ++ (List.range 18).filter (fun p => decide (ladderDie p ∈ good))) }.statusChanged)

/-- The arithmetic clock that is some sixteenths of nominal below its full rate, in whole MHz (18 R444). -/
def throttled (lowGear : Bool) (k : Nat) : Nat := ((if lowGear then 525 else 1050) * 16 - 1050 * k) / 16

/-- THERMAL_THROTTLE: the clock falls by steps of a sixteenth of nominal; results are unchanged (18 R444). -/
def execThermalThrottle (sixteenths : Nat) (s : State) : Host.Outcome State Fault Refusal :=
  let m := throttled s.lowGear sixteenths
  .next (if m = s.mhz ∨ m = 0 then s else { s with mhz := m }.statusChanged)

/-- THERMAL_SHUTDOWN: the module cuts power; work in progress is lost (18 R444). -/
def execThermalShutdown (s : State) : Host.Outcome State Fault Refusal := .next { s with power := false }

/-! ### Attestation (18 R442) -/

/-- ATTNONCE: a word of a nonce; its last word asks for a report, and replaces a nonce whose report is not made yet. -/
def execAttnonce (k : Nat) (value : DWord) (s : State) : Host.Outcome State Fault Refusal :=
  .next { s with nonce := Map.set 0 s.nonce (k % 4) value, reportDue := s.reportDue || k % 4 == 3 }

/-- The 320 bytes of a report: nonce, digests of the six dies' firmware and of the loader, signature (log 11, DESIGN CHOICE). -/
def State.attest (s : State) : List Byte :=
  let head := (List.range 4).flatMap (fun k => toBytesLE 8 (Map.get 0 s.nonce k).toNat)
    ++ (List.range 6).flatMap (fun d => (List.range 32).map (fun i => Config.firmwareDigest d i))
    ++ (List.range 32).map (fun i => Config.firmwareDigest 6 i)
  head ++ (List.range 64).map (fun i => Config.signature s.fresh head i)

/-- ATTESTATION_REPORT: one report for the nonce as it stands (18 R442). -/
def execAttestationReport (s : State) : Host.Outcome State Fault Refusal :=
  .next (if s.reportDue then { s with report := some s.attest, reportDue := false, fresh := s.fresh + 1 } else s)

/-! ### Accesses from outside (12 R277, R278, R297; 18 R435, R437) -/

/-- Whether the host may write an address: attic memory, a carved Larder granule, or a cellar frame of the PF's exposed by
CXL.mem (11 R277; 18 R435). -/
def State.hostMay (s : State) (pa n : Nat) : Bool :=
  match aperture pa with
  | 0 => areaOk pa n && (List.range (n / 4096 + 2)).all (fun i =>
      decide (pa / 4096 * 4096 + 4096 * i ≥ pa + n) || (!ownAsg (s.owner (pa / 4096 + i)) && ownVf (s.owner (pa / 4096 + i)) == 0))
  | 1 => (List.range (n / 65536 + 2)).all (fun i =>
      let a := pa / 65536 * 65536 + 65536 * i
      decide (a ≥ pa + n) || decide (natBits a 28 26 ≤ 5) && decide (granuleKey a ∈ s.carved) && s.backed a)
  | 2 => true
  | _ => false

/-- HOST_WRITE: performed at .sys in the order the host makes them (12 R297). -/
def execHostWrite (addr : Nat) (bytes : List Byte) (s : State) : Host.Outcome State Fault Refusal :=
  .next (if s.hostMay addr bytes.length then s.deviceWrite addr bytes else s)

/-- CXL_CACHE_SNOOP: a host write to an attic line that the D6 holds invalidates the L1 copies of an SC page (11 R259;
18 R435). -/
def execCxlCacheSnoop (line : Nat) (s : State) : Host.Outcome State Fault Refusal :=
  .next (s.lineWritten (s.memKey (64 * line)) {})

/-- Whether a peer's request passes the owner check of the frames it names (18 R437). -/
def State.peerMay (s : State) (rvf pa n : Nat) : Bool :=
  decide (pa + n ≤ cellarTop) && [pa / 4096, (pa + (n - 1)) / 4096].all (fun f =>
    ownAsg (s.owner f) && !ownLost (s.owner f) && ownVf (s.owner f) == rvf)

/-- PEER_REQUEST: a read, a write, or an atomic step of a peer package at this package's homes; a request that fails the
check has no effect here (18 R437). Operation 17 compares and swaps: its bytes are the value compared, then the new. -/
def execPeerRequest (rvf addr op : Nat) (bytes : List Byte) (s : State) : Host.Outcome State Fault Refusal :=
  let pa := natBits addr 43 0
  let w := if op = 17 then bytes.length / 2 else bytes.length
  .next (if !s.peerMay rvf pa w then s
    else
      let old := s.num pa w
      let t : State := { s with readOut := BitVec.ofNat 64 (s.num pa (min 8 w)) }
      if op = 0 then t
      else if op = 1 then t.deviceWrite pa bytes
      else if w ≠ 4 ∧ w ≠ 8 then s
      else if op = 17 then
        (if old = ofBytesLE (bytes.take w) then t.deviceWrite pa (bytes.drop w) else t)
      else t.deviceWrite pa (toBytesLE w (atomStep (op - 2) (8 * w) old (ofBytesLE bytes))))

/-! ### Links and packages (18 R436 to R438) -/

/-- LADDER_PORT_FAILURE: the port's traffic takes the others (18 R437). -/
def execLadderPortFailure (port : Nat) (s : State) : Host.Outcome State Fault Refusal :=
  .next { s with ladderUp := s.ladderUp.filter (fun p => p != port) }

/-- ATTIC_LINK_DOWN: accesses routed to the port raise 0x087 (18 R436). -/
def execAtticLinkDown (port : Nat) (s : State) : Host.Outcome State Fault Refusal :=
  .next { s with atticUp := s.atticUp.filter (fun p => p != port) }

/-- PACKAGE_UNREACHABLE: the pod barriers of every launch that the package takes part in are broken, and their waiters
killed (18 R438). -/
def execPackageUnreachable (pkg : Nat) (s : State) : Host.Outcome State Fault Refusal :=
  let t : State := { s with unreachable := dedup (s.unreachable ++ [pkg]),
                            launches := Map.mapVals (fun _ l =>
                              if pkg ∈ l.podWait then { l with broken := dedup (l.broken ++ [(6, 0)]) } else l) s.launches }
  .next (((Map.keys t.blocks).foldl (fun t k => t.breakWaiters k) t).settleKills (t.blocks.length + 1))

/-- POD_BARRIER_TRAFFIC: a package's blocks of a launch have all arrived at the pod barrier's phase (04 R92; 18 R438). -/
def execPodBarrierTraffic (launch : DWord) (pkg : Nat) (s : State) : Host.Outcome State Fault Refusal :=
  .next (match Map.findBy (fun _ l => BitVec.ofNat 64 l.lid == launch) s.launches with
    | none => s
    | some (h, _) =>
      if pkg ∈ s.unreachable then s
      else (s.modLaunch h (fun l => { l with podWait := dedup (l.podWait ++ [pkg]), podArrived := dedup (l.podArrived ++ [pkg]) })).testScope h 6 0)

/-! ### Registers (00 R2; 13 R305) -/

/-- Bits [hi:lo] set. -/
def maskBits (hi lo : Nat) : Nat := (2 ^ (hi + 1 - lo) - 1) * 2 ^ lo

/-- The bits of a plain register that a write changes; the rest read as zero (00 R2). None for a register that no plain
write changes. -/
def regWritable : RegName → Option Nat
  | .s2root => some (maskBits 51 12 + 1)
  | .prqbase => some (maskBits 51 13)
  | .wsbase => some (maskBits 47 21)
  | .wslen => some (maskBits 21 0)
  | .wsmap | .wsback | .crbase | .crlen | .ctrarea | .splbase | .spllen => some (maskBits 51 12)
  | .quota => some (maskBits 19 0)
  | .hold | .trhead | .errhead | .trchead => some (maskBits 15 0)
  | .trbase | .errbase | .trcbase => some (maskBits 51 12 + maskBits 3 0)
  | .trccfg => some (maskBits 23 8 + maskBits 3 0)
  | .preq1 => some (maskBits 31 0)
  | .precfg => some (maskBits 34 0)
  | .sctr => some (maskBits 63 0)
  | .scsel => some (maskBits 31 8 + maskBits 5 0)
  | .qcfg => some (maskBits 57 3)
  | .qva => some (maskBits 63 7)
  | .qdone => some (maskBits 51 3)
  | .wheel => some (maskBits 7 7 + maskBits 5 0)
  | .atticrt => some (maskBits 63 61 + maskBits 39 0)
  | .peerwin => some (maskBits 63 63 + maskBits 55 50 + maskBits 43 32 + maskBits 17 0)
  | _ => none

/-- Registers that only the PF writes. -/
def regPf : RegName → Bool
  | .s2root | .prqbase | .wsbase | .wslen | .wsmap | .wsback | .quota | .hold | .trbase | .errbase | .errhead | .trcbase
  | .precfg | .crbase | .crlen | .ctrarea | .splbase | .spllen | .sctr | .qcfg | .qva | .qdone | .framegrp | .wheel
  | .atticrt | .peerwin | .devctl | .partcfg | .icway | .poolcmd | .framecmd | .carve => true
  | _ => false

/-- The area that a plain register names with a value, with the length registers as they stand: first byte and bytes; none
where it names no physical area (13 R305). -/
def State.areaOf (s : State) (r : RegName) (fn v : Nat) : Option (Nat × Nat) :=
  let at_ := natBits v 51 12 * 4096
  match r with
  | .s2root => some (at_, 4096)
  | .prqbase => some (natBits v 51 13 * 8192, 8192)
  | .wsmap => some (at_, 2 * wsBytes (s.wsWindow fn).2)
  | .wslen => some (natBits (s.reg .wsmap fn).toNat 51 12 * 4096, 2 * wsBytes (min v 2097152))
  | .wsback => some (at_, 8 * (s.wsWindow fn).2)
  | .trbase | .errbase => some (at_, 64 * ringRecords v)
  | .trcbase => some (at_, 128 * ringRecords v)
  | .crbase => some (at_, natBits (s.reg .crlen fn).toNat 51 12 * 4096)
  | .crlen => some (natBits (s.reg .crbase fn).toNat 51 12 * 4096, at_)
  | .splbase => some (at_, natBits (s.reg .spllen fn).toNat 51 12 * 4096)
  | .spllen => some (natBits (s.reg .splbase fn).toNat 51 12 * 4096, at_)
  | .ctrarea => some (at_, 256 * 4 * 384)
  | _ => none

/-- Whether a write's area keeps off the reserved range; a wider table or bitmap behind a new length counts too. -/
def State.areaFree (s : State) (r : RegName) (fn v : Nat) : Bool :=
  (match s.areaOf r fn v with | some (a, n) => areaOk a n | none => true) &&
    (r != .wslen || areaOk (natBits (s.reg .wsback fn).toNat 51 12 * 4096) (8 * min v 2097152))

/-- A plain register written: a VF's write of a PF register, or of another function's, is dropped (00 R2; 13 R305, R322;
14 R331). -/
def State.plainWrite (s : State) (fn : Nat) (r : RegName) (index mask : Nat) (value : DWord) : State :=
  let own := if r = .scsel then index / 8 else index
  let v := value.toNat &&& mask
  if fn ≠ 0 ∧ (regPf r ∨ own ≠ fn) then s
  else if !s.areaFree r index v then s
  else if r = .wsmap then s.setReg r index (BitVec.ofNat 64 v ||| (s.reg r index &&& 1))
  else if r = .qcfg then
    let started := natBit v 3 && !natBit (s.reg .qcfg index).toNat 3
    let s := if started then { s with queues := Map.insert s.queues index {} } else s
    s.setReg r index (BitVec.ofNat 64 v)
  else s.setReg r index (BitVec.ofNat 64 v)

/-- A half of a counter written (17 R414). -/
def halfPut (x : DWord) (hi : Bool) (v : DWord) : DWord := if hi then joinPair (loWord x) (loWord v) else joinPair (loWord v) (hiWord x)

/-- CTRLO, CTRHI and CTRSEL written: in the partition while the function owns it, in its counter slot otherwise; none of
them beyond the share, or without a slot (17 R411 to R414). -/
def State.counterWrite (s : State) (fn : Nat) (r : RegName) (index : Nat) (value : DWord) : State :=
  let core := index / 64
  let part := index / 16 % 4
  let n := index % 16
  let sel : Word := loWord value &&& 0x8000FFFF
  if s.ownsNow fn core part then
    if modeShare (s.mode core) ≤ n then s
    else s.modCore core (fun c =>
      if r = .ctrsel then { c with sel := Map.set 0 c.sel (16 * part + n) sel }
      else { c with ctr := Map.set 0 c.ctr (16 * part + n) (halfPut (Map.get 0 c.ctr (16 * part + n)) (r == .ctrhi) value) })
  else
    match s.counterSlot fn core part with
    | none => s
    | some a =>
      if r = .ctrsel then s.setNum (a + 128 + 4 * n) 4 sel.toNat
      else s.setNum (a + 8 * n + (if r = .ctrhi then 4 else 0)) 4 (loWord value).toNat

/-- A reply written to PRQREPLY: one with a reserved status is dropped and counted (13 R317). -/
def State.replyWrite (s : State) (fn : Nat) (value : DWord) : State :=
  let v := value.toNat
  match natBits v 9 8 with
  | 0 => s.reply fn (natBits v 7 0) false
  | 1 => s.reply fn (natBits v 7 0) true
  | _ => s.countShared fn 6 0 1 1

/-- A debugger's command (17 R430). -/
def debugWrite (fn : Nat) (value : DWord) (s : State) : Host.Outcome State Fault Refusal :=
  let src := natBits value.toNat 31 16
  match natBits value.toNat 3 0 with
  | 1 => execResumeAll fn s
  | 2 => execResumeOneCrew fn src s
  | 3 => execStep fn src s
  | 4 => execStopLaunch fn s
  | 5 => execReloadWatchpoints fn s
  | _ => .next s

/-- ICWAY written: the way's lines are invalidated first where its owner changes (15 R362). -/
def State.writeWay (s : State) (index : Nat) (value : DWord) : State :=
  let v := value &&& 0x7F
  let old := Map.get 0x40 (s.core (index / 16)).icway (index % 16)
  s.modCore (index / 16) (fun c =>
    { c with icway := Map.set 0x40 c.icway (index % 16) v,
             icache := if v = old then c.icache else c.icache.filter (fun e => e.1 / 128 != index % 16) })

/-- REGISTER_WRITE: a driver's write of a register; read-only registers, those of another function and reserved fields take
nothing, and a command register does what its own row says (00 R2). -/
def execRegisterWrite (fn : Nat) (reg : RegName) (index : Nat) (value : DWord) (s : State) : Host.Outcome State Fault Refusal :=
  let v := value.toNat
  let mine := fn = 0 ∨ index = fn
  match reg with
  | .preq0 =>
    if index ≠ fn then .next s
    else
      match natBits v 25 24 with
      | 0 => execPreemptEstimator fn (natBits v 23 18) (natBits v 8 0) (natBits v 17 9) s
      | 1 => execPreemptSave fn (natBits v 23 18) (natBits v 8 0) (natBits v 17 9) s
      | 2 => execPreemptDrain fn (natBits v 23 18) (natBits v 8 0) (natBits v 17 9) s
      | _ => execPreemptDiscard fn (natBits v 23 18) (natBits v 8 0) (natBits v 17 9) s
  | .prestat => .next (if mine ∧ natBit v 1 then s.setReg .prestat index (s.reg .prestat index &&& 0xFFFFFFFFFFFFFFFD) else s)
  | .loadreq => if index ≠ fn then .next s else execLoadreq fn value s
  | .icinv => if mine ∧ natBit v 0 then execIcinv index s else .next s
  | .dbgatt => if index ≠ fn then .next s else execDbgattWrite fn value s
  | .dbgcmd => if index ≠ fn then .next s else debugWrite fn value s
  | .qstat => if natBit v 1 then execQstatResume fn index s else .next s
  | .doorbell => execDoorbell fn index (BitVec.ofNat 16 v) s
  | .framegrp => if fn ≠ 0 then .next s else execFramegrpWrite index value s
  | .devctl => if fn ≠ 0 then .next s else if natBit v 0 then execMaintEnter s else execMaintLeave s
  | .partcfg => if fn ≠ 0 then .next s else execPartcfgWrite index value s
  | .icway => .next (if fn ≠ 0 ∨ 6144 ≤ index then s else s.writeWay index value)
  | .ctrsel | .ctrlo | .ctrhi => .next (if 384 * 64 ≤ index then s else s.counterWrite fn reg index value)
  | .poolcmd => if natBit v 0 then execPoolRemove fn (natBits v 51 21) s else execPoolAdd fn (natBits v 51 21) s
  | .framecmd => execFramecmd fn value s
  | .prqreply => .next (if mine then s.replyWrite index value else s)
  | .carve => .next (if fn ≠ 0 then s else s.carve v)
  | _ =>
    match regWritable reg with
    | none => .next s
    | some m => .next (s.plainWrite fn reg index m value)

/-- The function that an event is a register write of; none for what is no write (13 R313). -/
def writerOf : Instr → Option Nat
  | .tlbiVaRange fn _ _ _ _ | .tlbiAsid fn _ _ | .tlbiVfStage1 fn _ | .tlbiIpaRange fn _ _ _ | .tlbiVfStage2 fn _ => some fn
  | .framecmd fn _ | .retry fn _ | .refuse fn _ | .poolAdd fn _ | .poolRemove fn _ | .doorbell fn _ _ | .qstatResume fn _ => some fn
  | .loadreq fn _ | .icinv fn | .dbgattWrite fn _ | .resumeAll fn | .resumeOneCrew fn _ | .step fn _ => some fn
  | .preemptEstimator fn _ _ _ | .preemptSave fn _ _ _ | .preemptDrain fn _ _ _ | .preemptDiscard fn _ _ _ => some fn
  | .stopLaunch fn | .reloadWatchpoints fn | .registerWrite fn _ _ _ => some fn
  | .framegrpWrite _ _ | .pageMove _ _ _ _ | .pageRetire _ _ _ | .partcfgWrite _ _ | .maintEnter | .maintLeave | .scsnap _ _ => some 0
  | _ => none

/-- A write of a function whose TLBI is held at its register: it waits behind it (13 R313). -/
def State.waitsBehind (s : State) (i : Instr) : Option Nat :=
  match writerOf i with
  | none => none
  | some fn => if (Map.get [] s.heldWrites fn).isEmpty then none else some fn

/-- What a function's read of a register returns: its value, with the bits that the machine derives; command registers read as zero.
DEVSTAT reads all ones in a package that stays in reset, the one value that the spec gives it, and else keeps its reset value of 0
(13 R313; 14 R331; 15 R351, R361; 16 R384; 17 R407, R414; 18 R439; log 58, DESIGN CHOICE). -/
def State.readRegister (s : State) (fn : Nat) (reg : RegName) (index : Nat) : DWord :=
  match reg with
  | .qstat => s.reg .qstat index ||| BitVec.ofNat 64 (bit01 (s.launches.any (fun e => e.2.queue == index && e.2.stage != 5)))
  | .prestat => s.reg .prestat index ||| BitVec.ofNat 64 (bit01 (s.preempts.any (fun p => p.fn == index)))
  | .loadreq => s.reg .loadreq index ||| BitVec.ofNat 64 (bit01 (s.loads.any (fun l => l.fn == index)))
  | .partcfg => (s.core index).partcfg ||| BitVec.ofNat 64 (4 * bit01 (s.core index).partPend.isSome)
  | .icway => Map.get 0x40 (s.core (index / 16)).icway (index % 16)
  | .ctrsel => BitVec.ofNat 64 (s.selectorOf fn (index / 64) (index / 16 % 4) (index % 16))
  | .tlbi => BitVec.ofNat 64 (bit01 (decide (0 < s.tlbisOf index)))
  | .devstat => if s.verified then s.reg .devstat index else 0xFFFFFFFF
  | .preq0 | .preq1 | .doorbell | .framecmd | .poolcmd | .prqreply | .carve | .icinv | .dwstat | .ctrlo | .ctrhi | .dbgcmd => 0
  | r => s.reg r index

end Sys2Proof.Machine
end

