-- ==== Sys2Proof/Machine/UnitA.lean ====
section
/-! DEFINITION. Unit A: the meanings of the integer and crew instructions (05). Each lane's sources are read as they
stood when the bundle issued; the pure results and flags are IntOps'. -/

namespace Sys2Proof.Machine

/-- NOP: no effect but its bundle's advance; its fields are ignored (03 R42, R52). -/
def execNop (_u : BitVec 3) (_low : BitVec 50) (s : State) : Host.Outcome State Fault Refusal := .next s

/-- A unit-A result written in the lanes where the guard holds, with c[CI] where CW = 1 (05 R102, R103, R105). -/
def aluLanes (g : Guard) (d : BitVec 8) (wide cw : Bool) (ci : BitVec 2) (f : State → Nat → AluOut) (s : State) : State :=
  let m := s.active g
  (s.writeReg m d (regCount wide) (fun l => (f s l).val)).writeCw m cw ci (fun l => (f s l).flags)

/-- The same for form R of unit A, with its three sources. -/
def aluR (x : ArgsA) (dw aw bw cw3 : Bool) (f : State → Nat → Nat → Nat → Nat → AluOut) (s : State) : State :=
  aluLanes x.g x.d dw x.cw x.ci (fun s l => f s l (s.src aw x.a l) (s.src bw x.b l) (s.src cw3 x.c l)) s

/-- Form I of unit A: a destination and one source. -/
def aluI (x : ArgsI) (f : Nat → Nat) (s : State) : State :=
  aluLanes x.g x.d false false 0 (fun s l => ⟨f (s.src false x.a l), 0⟩) s

/-- IADD (05 R110). -/
def execIadd (x : ArgsA) (s : State) : Host.Outcome State Fault Refusal :=
  .next (aluR x (x.w == 1) (x.w == 1) (x.w == 1) false (fun _ _ a b _ => aluIadd x.w x.s x.sat a b) s)

/-- ISUB (05 R110). -/
def execIsub (x : ArgsA) (s : State) : Host.Outcome State Fault Refusal :=
  .next (aluR x (x.w == 1) (x.w == 1) (x.w == 1) false (fun _ _ a b _ => aluIsub x.w x.s x.sat a b) s)

/-- IADC: the carry is c[CI].C from before the bundle (05 R111). -/
def execIadc (x : ArgsA) (s : State) : Host.Outcome State Fault Refusal :=
  .next (aluR x (x.w == 1) (x.w == 1) (x.w == 1) false (fun s l a b _ => aluIadc x.w (flagC (s.srcCc x.ci.toNat l)) a b) s)

/-- ISBC (05 R111). -/
def execIsbc (x : ArgsA) (s : State) : Host.Outcome State Fault Refusal :=
  .next (aluR x (x.w == 1) (x.w == 1) (x.w == 1) false (fun s l a b _ => aluIsbc x.w (flagC (s.srcCc x.ci.toNat l)) a b) s)

/-- IADDI (05 R112). -/
def execIaddi (x : ArgsI) (s : State) : Host.Outcome State Fault Refusal :=
  .next (aluI x (aluIaddi x.imm) s)

/-- IMUL (05 R110). -/
def execImul (x : ArgsA) (s : State) : Host.Outcome State Fault Refusal :=
  .next (aluR x (x.w == 1) (x.w == 1) (x.w == 1) false (fun _ _ a b _ => aluImul x.w x.s x.sat a b) s)

/-- IMULH (05 R110). -/
def execImulh (x : ArgsA) (s : State) : Host.Outcome State Fault Refusal :=
  .next (aluR x (x.w == 1) (x.w == 1) (x.w == 1) false (fun _ _ a b _ => aluImulh x.w x.s a b) s)

/-- IMAD (05 R113). -/
def execImad (x : ArgsA) (s : State) : Host.Outcome State Fault Refusal :=
  .next (aluR x (x.w == 1) (x.w == 1) (x.w == 1) (x.w == 1) (fun _ _ a b c => aluImad x.w x.s x.sat a b c) s)

/-- IMADW: a 64-bit addend and result (05 R113). -/
def execImadw (x : ArgsA) (s : State) : Host.Outcome State Fault Refusal :=
  .next (aluR x true false false true (fun _ _ a b c => aluImadw x.s x.sat a b c) s)

/-- IDIV: quotient, or with X[0] the remainder (05 R114). -/
def execIdiv (x : ArgsA) (s : State) : Host.Outcome State Fault Refusal :=
  .next (aluR x (x.w == 1) (x.w == 1) (x.w == 1) false (fun _ _ a b _ => aluIdiv x.w x.s x.sat (x.sub.getLsbD 0) a b) s)

/-- IMIN (05 R110). -/
def execImin (x : ArgsA) (s : State) : Host.Outcome State Fault Refusal :=
  .next (aluR x (x.w == 1) (x.w == 1) (x.w == 1) false (fun _ _ a b _ => aluMinMax x.w x.s false a b) s)

/-- IMAX (05 R110). -/
def execImax (x : ArgsA) (s : State) : Host.Outcome State Fault Refusal :=
  .next (aluR x (x.w == 1) (x.w == 1) (x.w == 1) false (fun _ _ a b _ => aluMinMax x.w x.s true a b) s)

/-- IABS (05 R115). -/
def execIabs (x : ArgsA) (s : State) : Host.Outcome State Fault Refusal :=
  .next (aluR x (x.w == 1) (x.w == 1) false false (fun _ _ a _ _ => aluIabs x.w x.sat a) s)

/-- IDP4: X[0] and X[1] say whether A and B are signed (05 R116). -/
def execIdp4 (x : ArgsA) (s : State) : Host.Outcome State Fault Refusal :=
  .next (aluR x false false false false (fun _ _ a b c => aluIdp4 x.w x.sat (x.sub.getLsbD 0) (x.sub.getLsbD 1) a b c) s)

/-- ISAD (05 R116). -/
def execIsad (x : ArgsA) (s : State) : Host.Outcome State Fault Refusal :=
  .next (aluR x false false false false (fun _ _ a b c => aluIsad x.w x.s x.sat a b c) s)

/-- AND (05 R117). -/
def execAnd (x : ArgsA) (s : State) : Host.Outcome State Fault Refusal :=
  .next (aluR x (x.w == 1) (x.w == 1) (x.w == 1) false (fun _ _ a b _ => aluLogic 0 x.w a b) s)

/-- OR (05 R117). -/
def execOr (x : ArgsA) (s : State) : Host.Outcome State Fault Refusal :=
  .next (aluR x (x.w == 1) (x.w == 1) (x.w == 1) false (fun _ _ a b _ => aluLogic 1 x.w a b) s)

/-- XOR (05 R117). -/
def execXor (x : ArgsA) (s : State) : Host.Outcome State Fault Refusal :=
  .next (aluR x (x.w == 1) (x.w == 1) (x.w == 1) false (fun _ _ a b _ => aluLogic 2 x.w a b) s)

/-- ANDN (05 R117). -/
def execAndn (x : ArgsA) (s : State) : Host.Outcome State Fault Refusal :=
  .next (aluR x (x.w == 1) (x.w == 1) (x.w == 1) false (fun _ _ a b _ => aluLogic 3 x.w a b) s)

/-- LOP3: the truth table is X[7:0] (05 R117). -/
def execLop3 (x : ArgsR) (s : State) : Host.Outcome State Fault Refusal :=
  .next (aluLanes x.g x.d false x.cw x.ci (fun s l => aluLop3 (natBits x.x.toNat 7 0) (s.src false x.a l) (s.src false x.b l) (s.src false x.c l)) s)

/-- ANDI (05 R117). -/
def execAndi (x : ArgsI) (s : State) : Host.Outcome State Fault Refusal :=
  .next (aluI x (fun a => logicOp 0 a (imm32 x.imm) 32) s)

/-- ORI (05 R117). -/
def execOri (x : ArgsI) (s : State) : Host.Outcome State Fault Refusal :=
  .next (aluI x (fun a => logicOp 1 a (imm32 x.imm) 32) s)

/-- XORI (05 R117). -/
def execXori (x : ArgsI) (s : State) : Host.Outcome State Fault Refusal :=
  .next (aluI x (fun a => logicOp 2 a (imm32 x.imm) 32) s)

/-- SHL (05 R118). -/
def execShl (x : ArgsA) (s : State) : Host.Outcome State Fault Refusal :=
  .next (aluR x (x.w == 1) (x.w == 1) false false (fun _ _ a b _ => aluShift 0 x.w x.sub.toNat a b) s)

/-- SHR (05 R118). -/
def execShr (x : ArgsA) (s : State) : Host.Outcome State Fault Refusal :=
  .next (aluR x (x.w == 1) (x.w == 1) false false (fun _ _ a b _ => aluShift 1 x.w x.sub.toNat a b) s)

/-- SAR (05 R118). -/
def execSar (x : ArgsA) (s : State) : Host.Outcome State Fault Refusal :=
  .next (aluR x (x.w == 1) (x.w == 1) false false (fun _ _ a b _ => aluShift 2 x.w x.sub.toNat a b) s)

/-- ROT (05 R118). -/
def execRot (x : ArgsA) (s : State) : Host.Outcome State Fault Refusal :=
  .next (aluR x (x.w == 1) (x.w == 1) false false (fun _ _ a b _ => aluShift 3 x.w x.sub.toNat a b) s)

/-- SHF (05 R119). -/
def execShf (x : ArgsR) (s : State) : Host.Outcome State Fault Refusal :=
  .next (aluLanes x.g x.d false x.cw x.ci (fun s l => aluShf x.x.toNat (s.src false x.a l) (s.src false x.b l) (s.src false x.c l)) s)

/-- BFX (05 R120). -/
def execBfx (x : ArgsA) (s : State) : Host.Outcome State Fault Refusal :=
  .next (aluR x (x.w == 1) (x.w == 1) false false (fun _ _ a b _ => aluBfx x.w x.s a b) s)

/-- BFI (05 R120). -/
def execBfi (x : ArgsA) (s : State) : Host.Outcome State Fault Refusal :=
  .next (aluR x (x.w == 1) (x.w == 1) false (x.w == 1) (fun _ _ a b c => aluBfi x.w a b c) s)

/-- POPC (05 R121). -/
def execPopc (x : ArgsA) (s : State) : Host.Outcome State Fault Refusal :=
  .next (aluR x false (x.w == 1) false false (fun _ _ a _ _ => aluPopc x.w a) s)

/-- CLZ (05 R121). -/
def execClz (x : ArgsA) (s : State) : Host.Outcome State Fault Refusal :=
  .next (aluR x false (x.w == 1) false false (fun _ _ a _ _ => aluClz x.w a) s)

/-- BREV (05 R121). -/
def execBrev (x : ArgsA) (s : State) : Host.Outcome State Fault Refusal :=
  .next (aluR x (x.w == 1) (x.w == 1) false false (fun _ _ a _ _ => aluBrev x.w a) s)

/-- PRMT (05 R121). -/
def execPrmt (x : ArgsA) (s : State) : Host.Outcome State Fault Refusal :=
  .next (aluR x false false false false (fun _ _ a b c => aluPrmt a b c) s)

/-- ICMP: writes only c[CI] (05 R122). -/
def execIcmp (x : ArgsA) (s : State) : Host.Outcome State Fault Refusal :=
  .next (s.writeCc (s.active x.g) x.ci.toNat (fun l => (aluIcmp (if x.w == 1 then 64 else 32) (s.src (x.w == 1) x.a l) (s.src (x.w == 1) x.b l)).flags))

/-- ICMPI: writes the cc that D[1:0] names (05 R122). -/
def execIcmpi (x : ArgsI) (s : State) : Host.Outcome State Fault Refusal :=
  .next (s.writeCc (s.active x.g) (x.d.toNat % 4) (fun l => (aluIcmp 32 (s.src false x.a l) (imm32 x.imm)).flags))

/-- ITST (05 R122). -/
def execItst (x : ArgsA) (s : State) : Host.Outcome State Fault Refusal :=
  .next (s.writeCc (s.active x.g) x.ci.toNat (fun l => (aluItst x.w (s.src (x.w == 1) x.a l) (s.src (x.w == 1) x.b l)).flags))

/-- SEL: condition X[3:0] on c[CI] picks A or B; X[8:7] is the width (05 R123). -/
def execSel (x : ArgsR) (s : State) : Host.Outcome State Fault Refusal :=
  .next (aluLanes x.g x.d (natBits x.x.toNat 8 7 == 1) false 0
    (fun s l => ⟨s.src (natBits x.x.toNat 8 7 == 1) (if condHolds (natBits x.x.toNat 3 0) (s.srcCc x.ci.toNat l) then x.a else x.b) l, 0⟩) s)

/-- MOV (05 R124). -/
def execMov (x : ArgsA) (s : State) : Host.Outcome State Fault Refusal :=
  .next (aluR x (x.w == 1) (x.w == 1) false false (fun _ _ a _ _ => aluMov x.w a) s)

/-- LI (05 R124). -/
def execLi (x : ArgsI) (s : State) : Host.Outcome State Fault Refusal :=
  .next (aluI x (fun _ => imm32 x.imm) s)

/-- LIH (05 R124). -/
def execLih (x : ArgsI) (s : State) : Host.Outcome State Fault Refusal :=
  .next (aluI x (aluLih x.imm) s)

/-- LEA: B is one register, scaled by X[4:0] (05 R125). -/
def execLea (x : ArgsA) (s : State) : Host.Outcome State Fault Refusal :=
  .next (aluR x (x.w == 1) (x.w == 1) false false (fun _ _ a b _ => aluLea x.w x.s x.sub.toNat a b) s)

/-- CCRD (05 R126). -/
def execCcrd (x : ArgsA) (s : State) : Host.Outcome State Fault Refusal :=
  .next (s.writeReg (s.active x.g) x.d 1 (fun l => (s.srcCc x.ci.toNat l).toNat))

/-- CCWR (05 R126). -/
def execCcwr (x : ArgsA) (s : State) : Host.Outcome State Fault Refusal :=
  .next (s.writeCc (s.active x.g) x.ci.toNat (fun l => BitVec.ofNat 4 (s.src false x.a l)))

/-- A crew operation: in each executing set e of width-w lane numbering, every lane of the gang in it takes f's result;
f is given the first lane of the logical crew, the set and the lane (05 R127). A k destination takes the lowest lane's
value over the whole gang (05 R131). -/
def crewOp (g : Guard) (d : BitVec 8) (n : Nat) (cw : Bool) (ci : BitVec 2) (own : Bool)
    (f : State → Nat → Nat → Lanes → Nat → AluOut) (s : State) : State :=
  match s.gang? with
  | none => s
  | some (b, _) =>
    let w := b.width
    let sets := s.execSets g own
    let out := fun l => f s w (l / w * w) (((sets.find? (fun p => p.1 = l / w)).map Prod.snd).getD 0) l
    let m := s.active g
    (s.writeReg m d n (fun l => (out l).val)).writeCw m cw ci (fun l => (out l).flags)

/-- Whether a destination is a k register: then each path forms its own executing set (05 R131). -/
def isK (d : BitVec 8) : Bool := decide (192 ≤ d.toNat) && decide (d.toNat < 240)

/-- Two registers at width 64, one below it. -/
def maskWords (s : State) : Nat :=
  match s.gang? with
  | some (b, _) => if b.width = 64 then 2 else 1
  | none => 1

/-- SHFL (05 R128). -/
def execShfl (x : ArgsA) (s : State) : Host.Outcome State Fault Refusal :=
  .next (crewOp x.g x.d (regCount (x.w == 1)) x.cw x.ci (isK x.d) (fun s w base e l =>
    let j := shflPartner (natBits x.sub.toNat 1 0) w (l - base) (s.src false x.b l) (s.src false x.c l)
    let ok := match j with | some j => e.getLsbD (base + j) && decide (j < w) | none => false
    let r := s.src (x.w == 1) x.a (if ok then base + j.getD 0 else l)
    ⟨r, flagsOf (if x.w == 1 then 64 else 32) r ok false⟩) s)

/-- A set of lanes numbered within its logical crew. -/
def laneNumbers (base w : Nat) (e : Lanes) : Nat := natBits e.toNat (base + w - 1) base

/-- VOTE (05 R129). -/
def execVote (x : ArgsA) (s : State) : Host.Outcome State Fault Refusal :=
  .next (crewOp x.g x.d (if x.sub == 0 then maskWords s else 1) x.cw x.ci (isK x.d) (fun s w base e _ =>
    let nz := lanesWhere e (fun j => s.src false x.a j != 0)
    let r := match natBits x.sub.toNat 1 0 with
      | 0 => laneNumbers base w nz
      | 1 => bit01 (nz == e)
      | 2 => bit01 (nz != 0)
      | _ => bit01 ((laneList e).all (fun j => s.src false x.a j == s.src false x.a ((lowLane e).getD 0)))
    ⟨r, flagsOf (if x.sub == 0 && w == 64 then 64 else 32) r false false⟩) s)

/-- MATCH (05 R130). -/
def execMatchL (x : ArgsA) (s : State) : Host.Outcome State Fault Refusal :=
  .next (crewOp x.g x.d (maskWords s) x.cw x.ci (isK x.d) (fun s w base e l =>
    let r := laneNumbers base w (lanesWhere e (fun j => s.src (x.w == 1) x.a j == s.src (x.w == 1) x.a l))
    ⟨r, flagsOf (if w == 64 then 64 else 32) r false false⟩) s)

end Sys2Proof.Machine
end

