-- ==== Sys2Proof/Machine/UnitB.lean ====
section
/-! DEFINITION. Unit B: the meanings of the floating-point, conversion, special-function and reduction instructions, and
of CHK (06). The pure results are FloatOps'. -/

namespace Sys2Proof.Machine

/-- The stochastic-rounding values of a lane: one for each sub-element. The number is the one that stood before the cycle, so
two paths that round by SR in one cycle use the same one, and it then advances by two; a duplicate in the shadow range uses
the number that its lane's original used (02 R33; 06 R156; log 33, DEDUCED; log 81, DESIGN CHOICE for two paths in one cycle). -/
def State.laneRandom (s : State) (d : BitVec 8) (l sub : Nat) : Nat :=
  match s.gang? with
  | none => 0
  | some (b, c) =>
    let n := if inShadowRange b d then ((Map.find? s.pre.threads l).getD {}).srn else s.pre.srn
    srRandom (s.crewBase b c l) n (BitVec.ofNat 32 (4 * (l % 32) + sub))

/-- The sequence number advanced after an instruction that completed with rounding mode SR, and kept for the duplicates of its
lanes (02 R33; 06 R133, R156). -/
def State.advanceSrn (s : State) (d : BitVec 8) (m : Lanes) (rm : Nat) : State :=
  match s.gang? with
  | none => s
  | some (b, _) =>
    if rm = 5 ∧ m ≠ 0 ∧ !inShadowRange b d then
      s.onCrew (fun p => { p.mapLanes m (fun _ t => { t with srn := s.pre.srn }) with srn := p.srn + 1 })
    else s

/-- Saturated elements counted as NARROW_SAT, but for a duplicate (06 R148, R156). -/
def State.countSat (s : State) (d : BitVec 8) (n : Nat) : State :=
  match s.gang? with
  | none => s
  | some (b, _) => s.count b.core b.part 0x08 0 (if inShadowRange b d then 0 else n)

/-- A floating-point result written where the guard holds, with its flags; SR where the mode says so (06 R137). -/
def fpLanes (x : ArgsB) (wide : Bool) (f : State → Nat → (Nat → Nat) → AluOut) (s : State) : State :=
  let m := s.active x.g
  (((s.writeReg m x.d (regCount wide) (fun l => (f s l (s.laneRandom x.d l)).val)).writeCw m x.cw x.ci
    (fun l => (f s l (s.laneRandom x.d l)).flags))).advanceSrn x.d m x.rm.toNat

/-- The same with three sources of one width. -/
def fpR (x : ArgsB) (wide : Bool) (f : (Nat → Nat) → Nat → Nat → Nat → AluOut) (s : State) : State :=
  fpLanes x wide (fun s l r => f r (s.src wide x.a l) (s.src wide x.b l) (s.src wide x.c l)) s

/-- A compare: only c[CI] is written (06 R142). -/
def fpCmp (f : Fmt) (wide : Bool) (x : ArgsB) (s : State) : State :=
  s.writeCc (s.active x.g) x.ci.toNat (fun l => (fpuCmp f x (s.src wide x.a l) (s.src wide x.b l)).flags)

/-- A conversion: result, flags and saturation count; SR in mode 5 (06 R144 to R148). -/
def cvtLanes (x : ArgsR) (wide : Bool) (rm : Nat) (f : State → Nat → (Nat → Nat) → AluOut × Nat) (s : State) : State :=
  let m := s.active x.g
  let sat := ((laneList m).map (fun l => (f s l (s.laneRandom x.d l)).2)).sum
  ((((s.writeReg m x.d (regCount wide) (fun l => (f s l (s.laneRandom x.d l)).1.val)).writeCw m x.cw x.ci
    (fun l => (f s l (s.laneRandom x.d l)).1.flags)).countSat x.d sat)).advanceSrn x.d m rm

/-- FADD (06 R138). -/
def execFadd (x : ArgsB) (s : State) : Host.Outcome State Fault Refusal :=
  .next (fpR x false (fun r a b c => fpuArith 0 fp32 x r a b c) s)

/-- FSUB (06 R138). -/
def execFsub (x : ArgsB) (s : State) : Host.Outcome State Fault Refusal :=
  .next (fpR x false (fun r a b c => fpuArith 1 fp32 x r a b c) s)

/-- FMUL (06 R138). -/
def execFmul (x : ArgsB) (s : State) : Host.Outcome State Fault Refusal :=
  .next (fpR x false (fun r a b c => fpuArith 2 fp32 x r a b c) s)

/-- FFMA (06 R138). -/
def execFfma (x : ArgsB) (s : State) : Host.Outcome State Fault Refusal :=
  .next (fpR x false (fun r a b c => fpuArith 3 fp32 x r a b c) s)

/-- FMIN (06 R140). -/
def execFmin (x : ArgsB) (s : State) : Host.Outcome State Fault Refusal :=
  .next (fpR x false (fun r a b c => (fun _ _ => fpuMinMax false x a b) r c) s)

/-- FMAX (06 R140). -/
def execFmax (x : ArgsB) (s : State) : Host.Outcome State Fault Refusal :=
  .next (fpR x false (fun r a b c => (fun _ _ => fpuMinMax true x a b) r c) s)

/-- FCMP (06 R142). -/
def execFcmp (x : ArgsB) (s : State) : Host.Outcome State Fault Refusal := .next (fpCmp fp32 false x s)

/-- FRND (06 R141). -/
def execFrnd (x : ArgsB) (s : State) : Host.Outcome State Fault Refusal :=
  .next (fpR x false (fun r a b c => (fun _ _ => fpuFrnd x r a) b c) s)

/-- FDP2 (06 R139). -/
def execFdp2 (x : ArgsB) (s : State) : Host.Outcome State Fault Refusal :=
  .next (fpR x false (fun r a b c => fpuFdp2 x r a b c) s)

/-- DADD (06 R138). -/
def execDadd (x : ArgsB) (s : State) : Host.Outcome State Fault Refusal :=
  .next (fpR x true (fun r a b c => fpuArith 0 fp64 x r a b c) s)

/-- DMUL (06 R138). -/
def execDmul (x : ArgsB) (s : State) : Host.Outcome State Fault Refusal :=
  .next (fpR x true (fun r a b c => fpuArith 2 fp64 x r a b c) s)

/-- DFMA (06 R138). -/
def execDfma (x : ArgsB) (s : State) : Host.Outcome State Fault Refusal :=
  .next (fpR x true (fun r a b c => fpuArith 3 fp64 x r a b c) s)

/-- DCMP (06 R142). -/
def execDcmp (x : ArgsB) (s : State) : Host.Outcome State Fault Refusal := .next (fpCmp fp64 true x s)

/-- HADD2 (06 R138). -/
def execHadd2 (x : ArgsB) (s : State) : Host.Outcome State Fault Refusal :=
  .next (fpR x false (fun r a b c => fpuPacked 0 x r a b c) s)

/-- HMUL2 (06 R138). -/
def execHmul2 (x : ArgsB) (s : State) : Host.Outcome State Fault Refusal :=
  .next (fpR x false (fun r a b c => fpuPacked 2 x r a b c) s)

/-- HFMA2 (06 R138). -/
def execHfma2 (x : ArgsB) (s : State) : Host.Outcome State Fault Refusal :=
  .next (fpR x false (fun r a b c => fpuPacked 3 x r a b c) s)

/-- HMIN2 (06 R140). -/
def execHmin2 (x : ArgsB) (s : State) : Host.Outcome State Fault Refusal :=
  .next (fpR x false (fun r a b c => (fun _ _ => fpuMinMax2 false x a b) r c) s)

/-- HMAX2 (06 R140). -/
def execHmax2 (x : ArgsB) (s : State) : Host.Outcome State Fault Refusal :=
  .next (fpR x false (fun r a b c => (fun _ _ => fpuMinMax2 true x a b) r c) s)

/-- F2I (06 R145). -/
def execF2i (x : ArgsR) (s : State) : Host.Outcome State Fault Refusal :=
  .next (cvtLanes x false (natBits x.x.toNat 8 6) (fun s l r => fpuF2i x.x r (s.src (x.x.getLsbD 4) x.a l)) s)

/-- I2F (06 R145). -/
def execI2f (x : ArgsR) (s : State) : Host.Outcome State Fault Refusal :=
  .next (cvtLanes x (x.x.getLsbD 4) (natBits x.x.toNat 8 6) (fun s l r => (fpuI2f x.x r (s.src false x.a l), 0)) s)

/-- FCVT (06 R145). -/
def execFcvt (x : ArgsR) (s : State) : Host.Outcome State Fault Refusal :=
  .next (cvtLanes x (natBits x.x.toNat 3 2 == 1) (natBits x.x.toNat 8 6) (fun s l r => fpuFcvt x.x r (s.src (natBits x.x.toNat 5 4 == 1) x.a l)) s)

/-- F2N: lanes whose slot or kind is refused fault first (06 R146). -/
def execF2n (x : ArgsR) (s : State) : Host.Outcome State Fault Refusal :=
  let t := s.settle (.f2n x)
  .next (cvtLanes x false (t.narrowSlot x).1.rm (fun s l r =>
    fpuF2n (s.narrowSlot x).2 (s.narrowSlot x).1.rm r (s.src false x.a l) (s.src false x.b l)) t)

/-- N2F (06 R146). -/
def execN2f (x : ArgsR) (s : State) : Host.Outcome State Fault Refusal :=
  .next (cvtLanes x false 0 (fun s l _ =>
    (fpuN2f (s.narrowSlot x).2 (s.narrowSlot x).1.sub (natBits x.x.toNat 8 6) (s.src false x.a l), 0)) (s.settle (.n2f x)))

/-- RCP (06 R149). -/
def execRcp (x : ArgsB) (s : State) : Host.Outcome State Fault Refusal :=
  .next (fpR x false (fun r a b c => (fun _ _ _ => fpuSpecial 0 x a) r b c) s)

/-- RSQ (06 R149). -/
def execRsq (x : ArgsB) (s : State) : Host.Outcome State Fault Refusal :=
  .next (fpR x false (fun r a b c => (fun _ _ _ => fpuSpecial 1 x a) r b c) s)

/-- SQRT (06 R149). -/
def execSqrt (x : ArgsB) (s : State) : Host.Outcome State Fault Refusal :=
  .next (fpR x false (fun r a b c => (fun _ _ _ => fpuSpecial 2 x a) r b c) s)

/-- EX2 (06 R149). -/
def execEx2 (x : ArgsB) (s : State) : Host.Outcome State Fault Refusal :=
  .next (fpR x false (fun r a b c => (fun _ _ _ => fpuSpecial 3 x a) r b c) s)

/-- LG2 (06 R149). -/
def execLg2 (x : ArgsB) (s : State) : Host.Outcome State Fault Refusal :=
  .next (fpR x false (fun r a b c => (fun _ _ _ => fpuSpecial 4 x a) r b c) s)

/-- SIN (06 R149). -/
def execSin (x : ArgsB) (s : State) : Host.Outcome State Fault Refusal :=
  .next (fpR x false (fun r a b c => (fun _ _ _ => fpuSpecial 5 x a) r b c) s)

/-- COS (06 R149). -/
def execCos (x : ArgsB) (s : State) : Host.Outcome State Fault Refusal :=
  .next (fpR x false (fun r a b c => (fun _ _ _ => fpuSpecial 6 x a) r b c) s)

/-- TANH (06 R149). -/
def execTanh (x : ArgsB) (s : State) : Host.Outcome State Fault Refusal :=
  .next (fpR x false (fun r a b c => (fun _ _ _ => fpuSpecial 7 x a) r b c) s)

/-- RED.PUSH: one push for each logical crew's executing set, in increasing order (06 R152). -/
def execRedPush (x : ArgsR) (s : State) : Host.Outcome State Fault Refusal :=
  let n := natBits x.x.toNat 1 0
  let push := fun l p => redPush (natBits x.x.toNat 4 2) l ((laneList p).map (s.src false x.a))
  let sets := s.execSets x.g true
  .next (if sets.isEmpty then s else
    s.onCrew (fun p => { p with sl := Map.set 0 p.sl n (BitVec.ofNat 32
      (sets.foldl (fun l e => push l e.2) (Map.get 0 s.pre.sl n).toNat)) }))

/-- A sum latch set to an operation's identity (06 R153). -/
def CrewCore.clearLatch (p : CrewCore) (n op : Nat) : CrewCore :=
  { p with sl := Map.set 0 p.sl n (BitVec.ofNat 32 (redIdentity op)) }

/-- RED.MOV: every reading lane sees the value from before the clear (06 R153). -/
def execRedMov (x : ArgsR) (s : State) : Host.Outcome State Fault Refusal :=
  let n := natBits x.x.toNat 1 0
  let m := s.active x.g
  let t := s.writeReg m x.d 1 (fun _ => (Map.get 0 s.pre.sl n).toNat)
  .next (if m ≠ 0 ∧ x.x.getLsbD 5 then t.onCrew (fun p => p.clearLatch n (natBits x.x.toNat 4 2)) else t)

/-- RED.CLR (06 R153). -/
def execRedClr (x : ArgsR) (s : State) : Host.Outcome State Fault Refusal :=
  .next (if s.active x.g ≠ 0 then
    s.onCrew (fun p => p.clearLatch (natBits x.x.toNat 1 0) (natBits x.x.toNat 4 2)) else s)

/-- CHK: no effect where every lane agrees; a mismatch stops the bundle in every lane and rolls the crew back
(06 R157, R158; 16 R402). -/
def execChk (x : ArgsR) (s : State) : Host.Outcome State Fault Refusal := .next (s.settle (.chk x))

end Sys2Proof.Machine
end

