-- ==== Sys2Proof/Machine/Dispatch.lean ====
section
/-! DEFINITION. One arm for each instruction: a direct call of its meaning. -/

namespace Sys2Proof.Machine

/-- The meaning of an instruction. -/
def exec (i : Instr) (s : State) : Host.Outcome State Fault Refusal :=
  match i with
  | .nop a b => Sys2Proof.Machine.execNop a b s
  | .iadd a => Sys2Proof.Machine.execIadd a s
  | .isub a => Sys2Proof.Machine.execIsub a s
  | .iadc a => Sys2Proof.Machine.execIadc a s
  | .isbc a => Sys2Proof.Machine.execIsbc a s
  | .iaddi a => Sys2Proof.Machine.execIaddi a s
  | .imul a => Sys2Proof.Machine.execImul a s
  | .imulh a => Sys2Proof.Machine.execImulh a s
  | .imad a => Sys2Proof.Machine.execImad a s
  | .imadw a => Sys2Proof.Machine.execImadw a s
  | .idiv a => Sys2Proof.Machine.execIdiv a s
  | .imin a => Sys2Proof.Machine.execImin a s
  | .imax a => Sys2Proof.Machine.execImax a s
  | .iabs a => Sys2Proof.Machine.execIabs a s
  | .idp4 a => Sys2Proof.Machine.execIdp4 a s
  | .isad a => Sys2Proof.Machine.execIsad a s
  | .and a => Sys2Proof.Machine.execAnd a s
  | .or a => Sys2Proof.Machine.execOr a s
  | .xor a => Sys2Proof.Machine.execXor a s
  | .andn a => Sys2Proof.Machine.execAndn a s
  | .lop3 a => Sys2Proof.Machine.execLop3 a s
  | .andi a => Sys2Proof.Machine.execAndi a s
  | .ori a => Sys2Proof.Machine.execOri a s
  | .xori a => Sys2Proof.Machine.execXori a s
  | .shl a => Sys2Proof.Machine.execShl a s
  | .shr a => Sys2Proof.Machine.execShr a s
  | .sar a => Sys2Proof.Machine.execSar a s
  | .rot a => Sys2Proof.Machine.execRot a s
  | .shf a => Sys2Proof.Machine.execShf a s
  | .bfx a => Sys2Proof.Machine.execBfx a s
  | .bfi a => Sys2Proof.Machine.execBfi a s
  | .popc a => Sys2Proof.Machine.execPopc a s
  | .clz a => Sys2Proof.Machine.execClz a s
  | .brev a => Sys2Proof.Machine.execBrev a s
  | .prmt a => Sys2Proof.Machine.execPrmt a s
  | .icmp a => Sys2Proof.Machine.execIcmp a s
  | .icmpi a => Sys2Proof.Machine.execIcmpi a s
  | .itst a => Sys2Proof.Machine.execItst a s
  | .sel a => Sys2Proof.Machine.execSel a s
  | .mov a => Sys2Proof.Machine.execMov a s
  | .li a => Sys2Proof.Machine.execLi a s
  | .lih a => Sys2Proof.Machine.execLih a s
  | .lea a => Sys2Proof.Machine.execLea a s
  | .ccrd a => Sys2Proof.Machine.execCcrd a s
  | .ccwr a => Sys2Proof.Machine.execCcwr a s
  | .shfl a => Sys2Proof.Machine.execShfl a s
  | .vote a => Sys2Proof.Machine.execVote a s
  | .matchL a => Sys2Proof.Machine.execMatchL a s
  | .fadd a => Sys2Proof.Machine.execFadd a s
  | .fsub a => Sys2Proof.Machine.execFsub a s
  | .fmul a => Sys2Proof.Machine.execFmul a s
  | .ffma a => Sys2Proof.Machine.execFfma a s
  | .fmin a => Sys2Proof.Machine.execFmin a s
  | .fmax a => Sys2Proof.Machine.execFmax a s
  | .fcmp a => Sys2Proof.Machine.execFcmp a s
  | .frnd a => Sys2Proof.Machine.execFrnd a s
  | .fdp2 a => Sys2Proof.Machine.execFdp2 a s
  | .dadd a => Sys2Proof.Machine.execDadd a s
  | .dmul a => Sys2Proof.Machine.execDmul a s
  | .dfma a => Sys2Proof.Machine.execDfma a s
  | .dcmp a => Sys2Proof.Machine.execDcmp a s
  | .hadd2 a => Sys2Proof.Machine.execHadd2 a s
  | .hmul2 a => Sys2Proof.Machine.execHmul2 a s
  | .hfma2 a => Sys2Proof.Machine.execHfma2 a s
  | .hmin2 a => Sys2Proof.Machine.execHmin2 a s
  | .hmax2 a => Sys2Proof.Machine.execHmax2 a s
  | .f2i a => Sys2Proof.Machine.execF2i a s
  | .i2f a => Sys2Proof.Machine.execI2f a s
  | .fcvt a => Sys2Proof.Machine.execFcvt a s
  | .f2n a => Sys2Proof.Machine.execF2n a s
  | .n2f a => Sys2Proof.Machine.execN2f a s
  | .rcp a => Sys2Proof.Machine.execRcp a s
  | .rsq a => Sys2Proof.Machine.execRsq a s
  | .sqrt a => Sys2Proof.Machine.execSqrt a s
  | .ex2 a => Sys2Proof.Machine.execEx2 a s
  | .lg2 a => Sys2Proof.Machine.execLg2 a s
  | .sin a => Sys2Proof.Machine.execSin a s
  | .cos a => Sys2Proof.Machine.execCos a s
  | .tanh a => Sys2Proof.Machine.execTanh a s
  | .redPush a => Sys2Proof.Machine.execRedPush a s
  | .redMov a => Sys2Proof.Machine.execRedMov a s
  | .redClr a => Sys2Proof.Machine.execRedClr a s
  | .chk a => Sys2Proof.Machine.execChk a s
  | .ldG a => Sys2Proof.Machine.execLdG a s
  | .stG a => Sys2Proof.Machine.execStG a s
  | .ldS a => Sys2Proof.Machine.execLdS a s
  | .stS a => Sys2Proof.Machine.execStS a s
  | .ldC a => Sys2Proof.Machine.execLdC a s
  | .stC a => Sys2Proof.Machine.execStC a s
  | .ldL a => Sys2Proof.Machine.execLdL a s
  | .stL a => Sys2Proof.Machine.execStL a s
  | .ldQ a => Sys2Proof.Machine.execLdQ a s
  | .stQ a => Sys2Proof.Machine.execStQ a s
  | .atomS a => Sys2Proof.Machine.execAtomS a s
  | .casS a => Sys2Proof.Machine.execCasS a s
  | .waita a => Sys2Proof.Machine.execWaita a s
  | .tagr a => Sys2Proof.Machine.execTagr a s
  | .tagw a => Sys2Proof.Machine.execTagw a s
  | .pref a => Sys2Proof.Machine.execPref a s
  | .bra a => Sys2Proof.Machine.execBra a s
  | .brx a => Sys2Proof.Machine.execBrx a s
  | .call a => Sys2Proof.Machine.execCall a s
  | .callx a => Sys2Proof.Machine.execCallx a s
  | .ret a => Sys2Proof.Machine.execRet a s
  | .exit a => Sys2Proof.Machine.execExit a s
  | .join a => Sys2Proof.Machine.execJoin a s
  | .leave a => Sys2Proof.Machine.execLeave a s
  | .waitm a => Sys2Proof.Machine.execWaitm a s
  | .mset a => Sys2Proof.Machine.execMset a s
  | .mop a => Sys2Proof.Machine.execMop a s
  | .mrd a => Sys2Proof.Machine.execMrd a s
  | .mwr a => Sys2Proof.Machine.execMwr a s
  | .bar a => Sys2Proof.Machine.execBar a s
  | .sbar a => Sys2Proof.Machine.execSbar a s
  | .fence a => Sys2Proof.Machine.execFence a s
  | .atomH a => Sys2Proof.Machine.execAtomH a s
  | .redH a => Sys2Proof.Machine.execRedH a s
  | .casH a => Sys2Proof.Machine.execCasH a s
  | .cp a => Sys2Proof.Machine.execCp a s
  | .lop a => Sys2Proof.Machine.execLop a s
  | .hatch a => Sys2Proof.Machine.execHatch a s
  | .safept a => Sys2Proof.Machine.execSafept a s
  | .shelf a => Sys2Proof.Machine.execShelf a s
  | .launch a => Sys2Proof.Machine.execLaunch a s
  | .trap a => Sys2Proof.Machine.execTrap a s
  | .bkpt a => Sys2Proof.Machine.execBkpt a s
  | .yield a => Sys2Proof.Machine.execYield a s
  | .gts a => Sys2Proof.Machine.execGts a s
  | .cnt a => Sys2Proof.Machine.execCnt a s
  | .evt a => Sys2Proof.Machine.execEvt a s
  | .nsleep a => Sys2Proof.Machine.execNsleep a s
  | .qadd a => Sys2Proof.Machine.execQadd a s
  | .qsub a => Sys2Proof.Machine.execQsub a s
  | .qmul a => Sys2Proof.Machine.execQmul a s
  | .qli a => Sys2Proof.Machine.execQli a s
  | .qshl a => Sys2Proof.Machine.execQshl a s
  | .qand a => Sys2Proof.Machine.execQand a s
  | .qcmp a => Sys2Proof.Machine.execQcmp a s
  | .qmov a => Sys2Proof.Machine.execQmov a s
  | .qbra a => Sys2Proof.Machine.execQbra a s
  | .qloop a => Sys2Proof.Machine.execQloop a s
  | .qwait a => Sys2Proof.Machine.execQwait a s
  | .qsig a => Sys2Proof.Machine.execQsig a s
  | .unhatch a => Sys2Proof.Machine.execUnhatch a s
  | .tresume a => Sys2Proof.Machine.execTresume a s
  | .qsafe a => Sys2Proof.Machine.execQsafe a s
  | .tfence a => Sys2Proof.Machine.execTfence a s
  | .tld a => Sys2Proof.Machine.execTld a s
  | .tst a => Sys2Proof.Machine.execTst a s
  | .tcp a => Sys2Proof.Machine.execTcp a s
  | .txp a => Sys2Proof.Machine.execTxp a s
  | .tgat a => Sys2Proof.Machine.execTgat a s
  | .tfill a => Sys2Proof.Machine.execTfill a s
  | .tzero a => Sys2Proof.Machine.execTzero a s
  | .tmma a => Sys2Proof.Machine.execTmma a s
  | .tgemm a => Sys2Proof.Machine.execTgemm a s
  | .tadd a => Sys2Proof.Machine.execTadd a s
  | .tmul a => Sys2Proof.Machine.execTmul a s
  | .tfma a => Sys2Proof.Machine.execTfma a s
  | .tmax a => Sys2Proof.Machine.execTmax a s
  | .tact a => Sys2Proof.Machine.execTact a s
  | .tscale a => Sys2Proof.Machine.execTscale a s
  | .tred a => Sys2Proof.Machine.execTred a s
  | .tamax a => Sys2Proof.Machine.execTamax a s
  | .tminmax a => Sys2Proof.Machine.execTminmax a s
  | .tqnt a => Sys2Proof.Machine.execTqnt a s
  | .tdqt a => Sys2Proof.Machine.execTdqt a s
  | .tcvt a => Sys2Proof.Machine.execTcvt a s
  | .topt a => Sys2Proof.Machine.execTopt a s
  | .fenceComplete a b c => Sys2Proof.Machine.execFenceComplete a b c s
  | .conflictNotice a b => Sys2Proof.Machine.execConflictNotice a b s
  | .homeRequest a b => Sys2Proof.Machine.execHomeRequest a b s
  | .l1Invalidation a b => Sys2Proof.Machine.execL1Invalidation a b s
  | .copyRun a b => Sys2Proof.Machine.execCopyRun a b s
  | .loftGrant a b => Sys2Proof.Machine.execLoftGrant a b s
  | .trapRecordWrite a => Sys2Proof.Machine.execTrapRecordWrite a s
  | .sleepEnd a b c => Sys2Proof.Machine.execSleepEnd a b c s
  | .regroupPoint a b => Sys2Proof.Machine.execRegroupPoint a b s
  | .waitWake a b c => Sys2Proof.Machine.execWaitWake a b c s
  | .waitLimit a => Sys2Proof.Machine.execWaitLimit a s
  | .unhatchComplete a => Sys2Proof.Machine.execUnhatchComplete a s
  | .engineResultWrite a b => Sys2Proof.Machine.execEngineResultWrite a b s
  | .tlbiVaRange a b c d e => Sys2Proof.Machine.execTlbiVaRange a b c d e s
  | .tlbiAsid a b c => Sys2Proof.Machine.execTlbiAsid a b c s
  | .tlbiVfStage1 a b => Sys2Proof.Machine.execTlbiVfStage1 a b s
  | .tlbiIpaRange a b c d => Sys2Proof.Machine.execTlbiIpaRange a b c d s
  | .tlbiVfStage2 a b => Sys2Proof.Machine.execTlbiVfStage2 a b s
  | .tlbiComplete a => Sys2Proof.Machine.execTlbiComplete a s
  | .framecmd a b => Sys2Proof.Machine.execFramecmd a b s
  | .framegrpWrite a b => Sys2Proof.Machine.execFramegrpWrite a b s
  | .retry a b => Sys2Proof.Machine.execRetry a b s
  | .refuse a b => Sys2Proof.Machine.execRefuse a b s
  | .swapOut a => Sys2Proof.Machine.execSwapOut a s
  | .poolAdd a b => Sys2Proof.Machine.execPoolAdd a b s
  | .poolRemove a b => Sys2Proof.Machine.execPoolRemove a b s
  | .dumbwaiterMove a b c => Sys2Proof.Machine.execDumbwaiterMove a b c s
  | .residencyRelease a => Sys2Proof.Machine.execResidencyRelease a s
  | .pageMove a b c d => Sys2Proof.Machine.execPageMove a b c d s
  | .frozenFrameRelease a => Sys2Proof.Machine.execFrozenFrameRelease a s
  | .moved a b => Sys2Proof.Machine.execMoved a b s
  | .pageRetire a b c => Sys2Proof.Machine.execPageRetire a b c s
  | .doorbell a b c => Sys2Proof.Machine.execDoorbell a b c s
  | .qstatResume a b => Sys2Proof.Machine.execQstatResume a b s
  | .launchHead a => Sys2Proof.Machine.execLaunchHead a s
  | .spliceDecision a => Sys2Proof.Machine.execSpliceDecision a s
  | .distributorDecision => Sys2Proof.Machine.execDistributorDecision s
  | .blockRetire a => Sys2Proof.Machine.execBlockRetire a s
  | .launchComplete a b => Sys2Proof.Machine.execLaunchComplete a b s
  | .loadreq a b => Sys2Proof.Machine.execLoadreq a b s
  | .loaderRun => Sys2Proof.Machine.execLoaderRun s
  | .icinv a => Sys2Proof.Machine.execIcinv a s
  | .preemptEstimator a b c d => Sys2Proof.Machine.execPreemptEstimator a b c d s
  | .preemptSave a b c d => Sys2Proof.Machine.execPreemptSave a b c d s
  | .preemptDrain a b c d => Sys2Proof.Machine.execPreemptDrain a b c d s
  | .preemptDiscard a b c d => Sys2Proof.Machine.execPreemptDiscard a b c d s
  | .crateWrite a => Sys2Proof.Machine.execCrateWrite a s
  | .eccDetected a b => Sys2Proof.Machine.execEccDetected a b s
  | .errorClassify a b => Sys2Proof.Machine.execErrorClassify a b s
  | .partcfgWrite a b => Sys2Proof.Machine.execPartcfgWrite a b s
  | .worldSwitch a b => Sys2Proof.Machine.execWorldSwitch a b s
  | .ctrloRead a b c d => Sys2Proof.Machine.execCtrloRead a b c d s
  | .ctrhiRead a b c d => Sys2Proof.Machine.execCtrhiRead a b c d s
  | .scsnap a b => Sys2Proof.Machine.execScsnap a b s
  | .traceSample a b => Sys2Proof.Machine.execTraceSample a b s
  | .stopBroadcast a b => Sys2Proof.Machine.execStopBroadcast a b s
  | .dbgattWrite a b => Sys2Proof.Machine.execDbgattWrite a b s
  | .resumeAll a => Sys2Proof.Machine.execResumeAll a s
  | .resumeOneCrew a b => Sys2Proof.Machine.execResumeOneCrew a b s
  | .step a b => Sys2Proof.Machine.execStep a b s
  | .stopLaunch a => Sys2Proof.Machine.execStopLaunch a s
  | .reloadWatchpoints a => Sys2Proof.Machine.execReloadWatchpoints a s
  | .attnonce a b => Sys2Proof.Machine.execAttnonce a b s
  | .attestationReport => Sys2Proof.Machine.execAttestationReport s
  | .maintEnter => Sys2Proof.Machine.execMaintEnter s
  | .maintEffect => Sys2Proof.Machine.execMaintEffect s
  | .maintLeave => Sys2Proof.Machine.execMaintLeave s
  | .registerWrite a b c d => Sys2Proof.Machine.execRegisterWrite a b c d s
  | .hostWrite a b => Sys2Proof.Machine.execHostWrite a b s
  | .peerRequest a b c d => Sys2Proof.Machine.execPeerRequest a b c d s
  | .ladderPortFailure a => Sys2Proof.Machine.execLadderPortFailure a s
  | .packageUnreachable a => Sys2Proof.Machine.execPackageUnreachable a s
  | .reset => Sys2Proof.Machine.execReset s
  | .fullService => Sys2Proof.Machine.execFullService s
  | .thermalThrottle a => Sys2Proof.Machine.execThermalThrottle a s
  | .thermalShutdown => Sys2Proof.Machine.execThermalShutdown s
  | .podBarrierTraffic a b => Sys2Proof.Machine.execPodBarrierTraffic a b s
  | .cxlCacheSnoop a => Sys2Proof.Machine.execCxlCacheSnoop a s
  | .atticLinkDown a => Sys2Proof.Machine.execAtticLinkDown a s

end Sys2Proof.Machine
end

