-- ==== Sys2Proof/Machine/Due.lean ====
section
/-! DEFINITION. What the machine does of itself next: the first event whose conditions hold and whose time has come (log 5, DESIGN CHOICE).
Every condition is the one its meaning tests, so that an event named here changes the state. -/

namespace Sys2Proof.Machine

/-- The first entry of a list of possibilities. -/
def firstSome {α β : Type} (l : List α) (f : α → Option β) : Option β := l.findSome? f

/-- An event where its condition holds. -/
def whenDue (c : Bool) (i : Instr) : Option Instr := if c then some i else none

/-! ### Blocks -/

/-- What is due in a crew. -/
def State.dueCrew (s : State) (h : Nat) (b : Block) (ci : Nat) (c : Crew) : Option Instr :=
  (firstSome (indexed c.fences) (fun f => whenDue (s.fenceReady b (c.fences.take f.1) f.2) (.fenceComplete h ci f.1))) <|>
    ((whenDue (b.rerunClass ci).isSome (.errorClassify h ci)) <|>
    ((whenDue (match c.stop.due with | some (_, t) => decide (t ≤ s.gts) | none => false) (.stopBroadcast h ci)) <|>
    (if c.stop.stopped && !c.stop.stepping then none else
      (firstSome c.core.threads (fun t => match t.2.st with
        | .sleep u => whenDue (decide (u ≤ s.gts)) (.sleepEnd h ci t.1)
        | .flag _ r _ => whenDue (decide (r ≤ s.gts)) (.waitWake h ci t.1)
        | _ => none)) <|>
      (whenDue (!b.ended && b.leaving != 3 && b.regroupDue c s.clk) (.regroupPoint h ci)))))

/-- What is due in a block's Loft context. -/
def State.dueLoft (s : State) (h : Nat) (b : Block) (x : LoftCtx) : Option Instr :=
  (firstSome (indexed x.flights) (fun f => whenDue (x.lands f.2) (.engineResultWrite h f.1))) <|>
    ((whenDue (b.rerunClass 64).isSome (.errorClassify h 64)) <|>
    ((whenDue (match x.stop.due with | some (_, t) => decide (t ≤ s.gts) | none => false) (.stopBroadcast h 64)) <|>
    ((whenDue (x.wait == .unhatch && x.flights == [] && !b.rerunning) (.unhatchComplete h)) <|>
    (whenDue (!x.stop.stopped && (match x.wait with | .flag _ r _ _ => decide (r ≤ s.gts) | _ => false)) (.waitWake h 64 0)))))

/-- Whether a block's team may be swapped out now (13 R319). -/
def State.swapNow (s : State) (h : Nat) (b : Block) : Bool :=
  s.swapDue h b && !s.awaitsMoved (s.teamOf b) && (s.swapRoom b).isSome

/-- What is due in a block. -/
def State.dueBlock (s : State) (h : Nat) (b : Block) : Option Instr :=
  if b.gone then none
  else
    (whenDue (s.swapNow h b) (.swapOut h)) <|>
      ((whenDue ((b.leaving == 1 || b.leaving == 4) && s.crateDue b) (.crateWrite h)) <|>
      ((firstSome b.crews (fun c => s.dueCrew h b c.1 c.2)) <|>
      ((match b.loft with | some x => s.dueLoft h b x | none => none) <|>
      ((whenDue ((s.overLimit b).isSome || (s.loftOverLimit b).isSome) (.waitLimit h)) <|>
      (whenDue (s.mayRetire h b) (.blockRetire h))))))

/-! ### Cores -/

/-- Whether a queued copy may take its next piece. -/
def State.copyDue (s : State) (c : CopyReq) : Bool := decide (c.due ≤ s.gts) && c.fence.isNone && c.hold.isNone

/-- What is due in a core. -/
def State.dueCore (s : State) (core : Nat) (c : CoreState) : Option Instr :=
  (firstSome (indexed c.posted) (fun p =>
      (whenDue (decide (p.2.due ≤ s.gts) && mayPerform c.posted p.1) (.homeRequest core p.1)) <|>
        (whenDue (mayReplay c.posted p.1) (.moved core p.1)))) <|>
    ((firstSome c.l1 (fun e => whenDue e.2.doomed (.l1Invalidation core (e.1 % 2 ^ 52)))) <|>
    ((firstSome (indexed (s.dieCopies (core / 64))) (fun e =>
        match (s.core e.2.1).copies[e.2.2]? with
        | some q => whenDue (s.copyDue q) (.copyRun (core / 64) e.1)
        | none => none)) <|>
    ((firstSome c.loftq (fun q => whenDue (!q.2.isEmpty && !s.loftHeld core q.1) (.loftGrant core q.1))) <|>
    (firstSome (List.range (modeParts (s.mode core))) (fun p =>
      (whenDue (s.switchDue core p) (.worldSwitch core p)) <|> (whenDue (s.sampleDue core p) (.traceSample core p)))))))

/-! ### Launches -/

/-- Whether a launch's watchpoint table can be read, or fails, now. -/
def State.tableReadable (s : State) (l : Launch) (r : BitVec 1024) : Bool :=
  match translate s (l.tctx r) (recBits r 511 455 * 128) 0 with
  | .wait => natBits (recBits r 511 455 * 128) 59 57 != 0
  | .ok pa _ _ => !s.isFrozen pa
  | .fail _ _ _ _ => true

/-- Whether the launch that comes next to a queue's head can be read or checked now. -/
def State.headDue (s : State) (q : Nat) : Bool :=
  !natBit (s.reg .qstat q).toNat 1 &&
    (match s.nextHead q with
     | none => false
     | some (_, l) =>
       l.hold.isNone && l.failed.isNone &&
         (match l.record with
          | none => s.ringEntry l.queue l.vf l.ring != .wait
          | some r =>
            !(r.getLsbD 235 && s.predecessorOpen l) &&
              (match s.headerAt l r with
               | .wait => false
               | .fail _ _ _ _ => true
               | .ok pa _ _ =>
                 !s.loadedAt l.vf pa || (s.recordCheck l.vf r (s.record pa)).isSome || recBits r 511 455 == 0 ||
                   s.tableReadable l r)))

/-- Whether the head of a queue that waits behind the gates may go on (13 R325; 14 R343). -/
def State.releaseDue (s : State) (l : Launch) : Bool :=
  !s.otherGates l && (!s.gated l || !((s.incoming l.vf (s.workingSet l)).isSome && (s.upRoom l.vf || s.nextMove.isSome)))

/-- Whether a queue's owed QDONE write can be settled now (14 R335, R458). -/
def State.doneDue (s : State) (q : Nat) (c : Queue) : Bool :=
  let a := natBits (s.reg .qdone q).toNat 51 3 * 8
  !c.owed.isEmpty && c.doneHold.isNone &&
    (a == 0 || c.doneRefused || translate s (ipaCtx (natBits (s.reg .qcfg q).toNat 57 52)) a 1 != .wait)

/-- What is due for a launch. -/
def State.dueLaunch (s : State) (h : Nat) (l : Launch) : Option Instr :=
  (whenDue (s.mayComplete h l) (.launchComplete l.queue l.seq)) <|>
    (if l.failed.isSome || l.hold.isSome then none
     else (whenDue (l.stage == 0 && s.headDue l.queue) (.launchHead l.queue)) <|>
       ((whenDue (l.stage == 1) (.spliceDecision l.queue)) <|>
       (whenDue (l.stage == 2 && s.releaseDue l) (.residencyRelease l.queue))))

/-! ### The whole -/

/-- The next event of the machine's own, if any is due (log 5, DESIGN CHOICE). -/
def due (s : State) : Option Instr :=
  (whenDue (!s.tlbis.isEmpty) (.tlbiComplete 0)) <|>
    ((firstSome s.cores (fun e => s.dueCore e.1 e.2)) <|>
    ((firstSome s.blocks (fun e => s.dueBlock e.1 e.2)) <|>
    ((firstSome (indexed s.frozen) (fun f => whenDue (!s.mayArrive f.2) (.frozenFrameRelease f.1))) <|>
    ((whenDue (match s.recs with | r :: _ => decide (r.gts + recordDelay ≤ s.gts) | [] => false) (.trapRecordWrite 0)) <|>
    ((whenDue s.loaderReady .loaderRun) <|>
    ((firstSome s.launches (fun e => s.dueLaunch e.1 e.2)) <|>
    ((firstSome s.queues (fun e => whenDue (s.doneDue e.1 e.2) (.launchComplete e.1 e.2.done))) <|>
    ((match s.nextMove with | some (vf, r, up) => some (Instr.dumbwaiterMove vf r up) | none => none) <|>
    ((whenDue (s.choose s.cands).isSome .distributorDecision) <|>
    (s.retireNext <|>
    ((whenDue s.maintDue .maintEffect) <|>
    (whenDue s.reportDue .attestationReport))))))))))))

end Sys2Proof.Machine
end

