-- ==== Sys2Proof/Machine/Load.lean ====
section
/-! DEFINITION. A bundle placed from outside: a machine whose only work is one thread, or one Loft context, that stands at
it (log 4, DESIGN CHOICE). -/

namespace Sys2Proof.Machine

/-- Where the placed bundle stands: virtual and physical address, of a stack beside die 0, which serves in low gear. -/
def placedAt : Nat := 0x10E000

/-- The launch record of the placed work: one block of one thread, 64 tiles (14 R337). -/
def placedRecord : BitVec 1024 := BitVec.ofNat 1024 (field 64 242 7)

/-- Its kernel header: every register and tile allotted, width 32, a page of scratchpad and a line of cubby (15 R352). -/
def placedHeader : BitVec 1024 :=
  BitVec.ofNat 1024 (field placedAt 0 64 + field 192 256 8 + field 48 264 8 + field 32 272 8 + field 64 280 8 + field 8 288 4
    + field 64 296 14 + field 4096 320 19)

/-- The cached translation that its fetch uses. -/
def placedEntry : TlbEntry :=
  { vf := 0, asid := 0, root := 0, vpn := placedAt / 4096, ipn := placedAt / 4096, ppn := placedAt / 4096, read := true, write := true,
    exec := true, dirty := true, tg := false, sc := false, larder := false, pl := false, die := 0 }

/-- Its block: the thread stands at the bundle, or waits in the gate while the Loft context stands there. -/
def placedBlock (loft : Bool) (clk : Nat) : Block :=
  let core : CrewCore := { threads := [(0, { pc := BitVec.ofNat 64 placedAt, st := if loft then .gate else .run })] }
  let x : LoftCtx := { holding := true, regs := { pc := BitVec.ofNat 64 placedAt } }
  { launch := 1, index := 0, vf := 0, lid := 0, record := placedRecord, header := placedHeader, entry := 0, core := 0, part := 0, team := 0,
    crews := [(0, { core := core, checkpoint := core, paths := if loft then [] else [1], lastRegroup := clk })],
    gatePc := if loft then some 0 else none, loft := if loft then some x else none }

/-- Its launch, wholly placed. -/
def placedLaunch : Launch := { queue := 0, seq := 0, ring := 0, record := some placedRecord, header := placedHeader, vf := 0, stage := 4, placed := 1 }

/-- A state with a bundle of one word placed where its next step fetches: core 0 holds the only work, nothing else is under
way, and the word's unit says whether a thread or a Loft context issues it (log 4, DESIGN CHOICE). -/
def State.withWord (s : State) (w : BitVec 64) : State :=
  let s := s.setNum placedAt 8 (w ||| 0x8000000000000000).toNat
  let c := s.core 0
  { s with agenda := [], picks := [], tlbis := [], frozen := [], recs := [], loads := [], preempts := [], saved := [], queues := [],
           reportDue := false, launches := [(1, placedLaunch)], blocks := [(1, placedBlock (decide (4 ≤ slotUnit w)) s.clk)],
           cores := [(0, { c with posted := [], copies := [], loftq := [], l1 := [], icache := [], partPend := none, utlb := [placedEntry] })] }

end Sys2Proof.Machine
end

