-- ==== Sys2Proof/Machine/Step.lean ====
section
/-! DEFINITION. One step of the machine: what reaches it from outside first, then what it does of itself, then an issue
opportunity (log 5, DESIGN CHOICE). -/

namespace Sys2Proof.Machine

/-- One step. A slot instruction is no event: one in the agenda is passed over; and a register write waits behind its
function's held ones (13 R313). -/
def step (s : State) : Host.Outcome State Fault Refusal :=
  if !s.power then .fault .noPower
  else if !s.verified then .fault .heldInReset
  else
    match s.agenda with
    | e :: r =>
      if (encodeSlot true e).isSome then .next { s with agenda := r }
      else
        match s.waitsBehind e with
        | some fn => .next ({ s with agenda := r }.holdWrite fn e)
        | none => exec e { s with agenda := r }
    | [] =>
      match due s with
      | some e => exec e s
      | none => issue exec s

/-- A state with one instruction of nbits bits placed where its next step fetches it (log 4, DESIGN CHOICE). -/
def State.withFetchWord (s : State) (nbits w : Nat) : State := s.withWord (BitVec.ofNat 64 (w % 2 ^ nbits))

end Sys2Proof.Machine
end

