-- ==== Sys2Proof/Safety.lean ====
section
/-! DEFINITION. What claims are stated with: the form of memory that every step keeps, and what an instruction changes of
a crew's registers, of a Loft context's, and of nothing else. -/

namespace Sys2Proof.Machine

/-- Memory in its canonical form: keys strictly rising, no byte listed that equals what an unlisted one reads as (log 1, DESIGN CHOICE). -/
abbrev Memory.wf (m : List Host.Cell) : Prop := Map.wf (0 : Byte) m = true

/-- A k register of a crew. -/
def CrewCore.kreg (p : CrewCore) (r : Nat) : Word := Map.get 0 p.k r

/-- A cc register of a lane. -/
def CrewCore.ccOf (p : CrewCore) (l i : Nat) : Flags := Map.get 0 ((Map.find? p.threads l).getD {}).cc i

/-- A thread without its v and cc registers: everything that a result leaves alone. -/
def Thread.bare (t : Thread) : Thread := { t with v := [], cc := [] }

/-- From registers p to q the lanes m have written a result f to the n registers from d, and flags g to a cc register where
one is given, and nothing else has changed. A v destination takes each lane's own result, a k destination that of the
lowest lane (05 R102), any other code none. -/
structure Wrote (p q : CrewCore) (m : Lanes) (d : BitVec 8) (n : Nat) (f : Nat → Nat) (g : Option (Nat × (Nat → Flags))) : Prop where
  v_new : d.toNat < 192 → ∀ l i, m.getLsbD l → i < n → q.vreg l (d.toNat + i) = BitVec.ofNat 32 (f l >>> (32 * i))
  k_new : 192 ≤ d.toNat → d.toNat < 240 → ∀ l i, lowLane m = some l → i < n →
    q.kreg (d.toNat - 192 + i) = BitVec.ofNat 32 (f l >>> (32 * i))
  cc_new : ∀ i h, g = some (i, h) → ∀ l, m.getLsbD l → q.ccOf l i = h l
  v_old : ∀ l r, ¬ (d.toNat < 192 ∧ m.getLsbD l ∧ d.toNat ≤ r ∧ r < d.toNat + n) → q.vreg l r = p.vreg l r
  k_old : ∀ r, ¬ (192 ≤ d.toNat ∧ d.toNat < 240 ∧ lowLane m ≠ none ∧ d.toNat - 192 ≤ r ∧ r < d.toNat - 192 + n) → q.kreg r = p.kreg r
  cc_old : ∀ l i, ¬ (m.getLsbD l ∧ ∃ h, g = some (i, h)) → q.ccOf l i = p.ccOf l i
  bare : ∀ l, (Map.find? q.threads l).map Thread.bare = (Map.find? p.threads l).map Thread.bare
  rest : { q with threads := p.threads, k := p.k } = p

/-- An outcome is a next state in which nothing but the current crew's registers has changed, from p, and those as Wrote
says; every byte of memory reads as before. -/
def WritesOnly (s : State) (o : Host.Outcome State Fault Refusal) (p : CrewCore) (m : Lanes) (d : BitVec 8) (n : Nat)
    (f : Nat → Nat) (g : Option (Nat × (Nat → Flags))) : Prop :=
  ∃ q, o = .next (s.onCrew (fun _ => q)) ∧ Wrote p q m d n f g ∧ ∀ a, (s.onCrew (fun _ => q)).byte a = s.byte a

/-- The flags that CW = 1 writes to c[CI], none otherwise. -/
def cwFlags (cw : Bool) (ci : BitVec 2) (h : Nat → Flags) : Option (Nat × (Nat → Flags)) := if cw then some (ci.toNat, h) else none

/-- The same of a result that has flags of its own. -/
def AluCompletes (s : State) (o : Host.Outcome State Fault Refusal) (p : CrewCore) (g : Guard) (d : BitVec 8) (wide cw : Bool)
    (ci : BitVec 2) (f : Nat → AluOut) : Prop :=
  WritesOnly s o p (s.active g) d (regCount wide) (fun l => (f l).val) (cwFlags cw ci (fun l => (f l).flags))

/-- A value whose elements are the exact integers x, each fitted: what R106's put leaves, element by element. -/
def Elementwise (w : BitVec 2) (s sat : Bool) (v : Nat) (x : Nat → Int) : Prop :=
  v < 2 ^ ((elems w).1 * (elems w).2) ∧
    ∀ e, e < (elems w).1 → v / 2 ^ ((elems w).2 * e) % 2 ^ (elems w).2 = fit (x e) (elems w).2 s sat

/-- N and Z of a fitted result of n bits, with C and V (05 R107). -/
def flagsFrom (n v : Nat) (c o : Bool) : Flags := mkFlags (v.testBit (n - 1)) (decide (v % 2 ^ n = 0)) c o

/-- Form R of unit A with one width throughout completes with a result f and its flags. -/
def CompletesA (s : State) (c : Crew) (i : Instr) (x : ArgsA) (wide : Bool) (f : Nat → AluOut) : Prop :=
  AluCompletes s (exec i s) c.core x.g x.d wide x.cw x.ci f

/-- The executing set of a crew-level slot that takes in a lane (05 R127). -/
def State.setOf (s : State) (g : Guard) (own : Bool) (w l : Nat) : Lanes :=
  ((((s.execSets g own).find? (fun p => p.1 = l / w)).map Prod.snd).getD 0)

/-- The relation of two values as flags: less, equal, greater, unordered (06 R135). -/
def Val.relation : Val → Val → Flags
  | .nan, _ => 0b0111#4
  | _, .nan => 0b0111#4
  | .inf s, .inf t => if s = t then 0b0110#4 else if s then 0b1000#4 else 0b0010#4
  | .inf s, .fin _ _ _ => if s then 0b1000#4 else 0b0010#4
  | .fin _ _ _, .inf t => if t then 0b0010#4 else 0b1000#4
  | .fin s n d, .fin t m e =>
    let x : Int := if s then -((n * e : Nat) : Int) else (n * e : Nat)
    let y : Int := if t then -((m * d : Nat) : Int) else (m * d : Nat)
    if x < y then 0b1000#4 else if x = y then 0b0110#4 else 0b0010#4

/-- Whether an instruction of unit B advances the crew's SR sequence number: it rounds by SR, some lane executes it, and it is no
duplicate in the shadow range (02 R33; 06 R156). -/
def srAdvances (b : Block) (m : Lanes) (d : BitVec 8) (rm : Nat) : Bool := decide (rm = 5) && m != 0 && !inShadowRange b d

/-- Registers of a crew after an instruction that advances its SR sequence number: the number is one on, and the lanes hold the
one that they rounded with, for the duplicates to come (02 R33; 06 R156). -/
def CrewCore.advanced (p : CrewCore) (m : Lanes) (n : Word) : CrewCore :=
  { p.mapLanes m (fun _ t => { t with srn := n }) with srn := p.srn + 1 }

/-- An outcome is a next state in which the current crew's registers have changed as Wrote says, its SR sequence number is
one on where sr says so, and sat saturated elements are counted (06 R148); nothing else has changed. -/
def RoundsOnly (s : State) (o : Host.Outcome State Fault Refusal) (b : Block) (p : CrewCore) (m : Lanes) (d : BitVec 8) (n : Nat)
    (f : Nat → Nat) (g : Option (Nat × (Nat → Flags))) (sr : Bool) (sat : Nat) : Prop :=
  ∃ q t, o = .next t ∧ Wrote p q m d n f g ∧
    { t with cores := s.cores } = s.onCrew (fun _ => if sr then q.advanced m s.pre.srn else q) ∧ t.cores = (s.count b.core b.part 0x08 0 sat).cores ∧
    ∀ a, t.byte a = s.byte a

/-- Form R of unit B completes: a result of one format, its flags those of the result against +0 (06 R133, R135). -/
def CompletesB (s : State) (b : Block) (c : Crew) (i : Instr) (x : ArgsB) (f : Fmt) (wide : Bool) (v : Nat → Nat) : Prop :=
  RoundsOnly s (exec i s) b c.core (s.active x.g) x.d (regCount wide) v
    (cwFlags x.cw x.ci (fun l => (f.decode (v l)).relation (.fin false 0 1))) (srAdvances b (s.active x.g) x.d x.rm.toNat) 0

/-- The same for a packed pair of 16-bit results, which has no flags to write. -/
def CompletesB2 (s : State) (b : Block) (c : Crew) (i : Instr) (x : ArgsB) (v : Nat → Nat → Nat) : Prop :=
  RoundsOnly s (exec i s) b c.core (s.active x.g) x.d 1 (fun l => v l 0 + v l 1 * 2 ^ 16) (cwFlags x.cw x.ci (fun _ => 0))
    (srAdvances b (s.active x.g) x.d x.rm.toNat) 0

/-- The magnitude of a code of a format as a count of its smallest subnormal, the exponent unbounded (02 R22, R26). -/
def Fmt.units (f : Fmt) (c : Nat) : Nat :=
  if c < 2 ^ f.mbits then c else (2 ^ f.mbits + c % 2 ^ f.mbits) * 2 ^ (c / 2 ^ f.mbits - 1)

/-- No check of a slot stops a lane: its bundle has been checked, no rerun repeats it, and no page request of it waits to be
posted (03 R43; 13 R318; 16 R402). -/
def State.clear (s : State) (i : Instr) : Prop :=
  s.cur.replay = false ∧ s.cur.holds = [] ∧ ∀ b c l, s.gang? = some (b, c) → (s.active i.guard).getLsbD l = true → verdict s b c l i = .ok

/-- A crew without what any slot may add to it: its log with a rerun's place in it, and the lines and the watchpoint hits that
its pending fences have recorded. -/
def Crew.quiet (c : Crew) : Crew :=
  { c with log := [], rerun := c.rerun.map (fun r => { r with pos := 0 }), fences := c.fences.map (fun f => { f with lines := [], hits := [] }) }

/-- A Loft context without its log and a rerun's place in it. -/
def LoftCtx.quiet (x : LoftCtx) : LoftCtx := { x with log := [], rerun := x.rerun.map (fun r => { r with pos := 0 }) }

/-- A block whose crews and Loft context are so. -/
def Block.quiet (b : Block) : Block :=
  { b with crews := Map.mapVals (fun _ c => Crew.quiet c) b.crews, loft := b.loft.map LoftCtx.quiet }

/-- A core without its counters and its bank-conflict matrix. -/
def CoreState.quiet (c : CoreState) : CoreState := { c with ctr := [], conflicts := [] }

/-- Two states agree but for what any slot may add to one: counters and the places of the wheels, logs of checkpointed runs,
lines recorded by pending fences, and watchpoint hits noted. They differ in nothing else. -/
def State.Agrees (t u : State) : Prop :=
  (∀ k, (t.core k).quiet = (u.core k).quiet) ∧
  (∀ k, k / 2 ^ 20 ≠ RegName.sctr.code → Map.find? t.regs k = Map.find? u.regs k) ∧
  Map.mapVals (fun _ b => Block.quiet b) t.blocks = Map.mapVals (fun _ b => Block.quiet b) u.blocks ∧
  { t with cores := u.cores, regs := u.regs, blocks := u.blocks, wheelAt := u.wheelAt, cur := { t.cur with hits := u.cur.hits } } = u

/-- An acquire by a block's core where an ordering asks for it and some lane executes (11 R259). -/
def State.acquireIf (s : State) (b : Block) (m : Lanes) (ord : BitVec 2) (scope : BitVec 3) : State :=
  if ord = 1 ∧ m ≠ 0 then s.l1Acquire b.core scope.toNat else s

/-- The number that SZ's bytes make, extended as SZ says (07 R169). -/
def szValue (sz : BitVec 4) (v : Nat) : Nat :=
  match sz.toNat with
  | 1 => if 2 ^ 7 ≤ v then v + (2 ^ 32 - 2 ^ 8) else v
  | 3 => if 2 ^ 15 ≤ v then v + (2 ^ 32 - 2 ^ 16) else v
  | _ => v

/-- A byte of the tables that using a translation may set a bit of: an entry it walked, or the working-set record's bit for
its page (13 R310, R323). -/
def State.tableByte (s : State) (c : TCtx) (e : TlbEntry) (ups : List (Nat × Nat)) (a : Nat) : Prop :=
  (∃ p ∈ ups, s.memKey p.1 ≤ s.memKey a ∧ s.memKey a < s.memKey p.1 + 8) ∨
  let map := (s.reg .wsmap c.vf).toNat
  let base := natBits (s.reg .wsbase c.vf).toNat 47 21
  let len := min (natBits (s.reg .wslen c.vf).toNat 21 0) 2097152
  c.vf ≠ 0 ∧ base ≤ e.ipn / 512 ∧ e.ipn / 512 < base + len ∧
    s.memKey a = s.memKey (natBits map 51 12 * 4096 + (if natBit map 0 then roundUp ((len + 7) / 8) 4096 else 0) + (e.ipn / 512 - base) / 8)

/-- Requests added to those of a core that have not reached their homes, each under a number of its own (12 R459). -/
def State.posts (s : State) (core : Nat) (ps : List Posted) : State :=
  { s with nextId := s.nextId + ps.length }.modCore core (fun r => { r with posted := r.posted ++ ps })

/-- No check of a Loft slot stops it: its bundle has been checked, and no rerun repeats it (08 R193; 16 R402). -/
def State.loftClear (s : State) (i : Instr) : Prop :=
  s.cur.replay = false ∧ ∀ b x, s.loft? = some (b, x) → s.loftActs i.guard = true → loftVerdict s b x i = .ok

/-- From p to q the q or lc register of code d has taken v, none where d is neither, lf takes what is given, and nothing else
has changed; an lc register keeps the low 32 bits (08 R183). -/
def QWrote (p q : LoftRegs) (d : Nat) (v : DWord) (g : Option (Nat × Flags)) : Prop :=
  (∀ r, r < 32 → Map.get 0 q.q r = if r = d then v else Map.get 0 p.q r) ∧
  (∀ r, r < 4 → Map.get 0 q.lc r = if 32 + r = d then v.setWidth 32 else Map.get 0 p.lc r) ∧
  (∀ i, Map.get 0 q.lf i = match g with
    | some (j, f) => if i = j then f else Map.get 0 p.lf i
    | none => Map.get 0 p.lf i) ∧
  { q with q := p.q, lc := p.lc, lf := p.lf } = p

/-- A Loft slot completes: only registers of its context have changed, as QWrote says, from p. -/
def QCompletes (s : State) (i : Instr) (p : LoftRegs) (d : Nat) (v : Nat) (g : Option (Nat × Flags)) : Prop :=
  ∃ q, exec i s = .next (s.onLoft (fun _ => q)) ∧ QWrote p q d (BitVec.ofNat 64 v) g ∧
    ∀ a, (s.onLoft (fun _ => q)).byte a = s.byte a

/-- The code of element (i, j) of a tile, at a width (02 R18). -/
def Tile.elem (t : Tile) (w i j : Nat) : Nat := t.data.toNat / 2 ^ (1024 * i + w * j) % 2 ^ w

/-- The exact value of element (i, j) of a tile of a kind (10 R240). -/
def Tile.val (t : Tile) (k : Nat) (sl : Slot) (i j : Nat) : Val := decodeScaled t k sl i j (t.elem (kindBits k) i j)

/-- A whole tile of a kind: its codes are the given ones, its sidecar is zero, and so many of its elements saturated. -/
def Tile.table (t : Tile) (k n : Nat) (g : Nat → Nat → Nat × Bool) : Prop :=
  t.side = 0 ∧ (∀ i j, i < 32 → j < kindCols k → t.elem (kindBits k) i j = (g i j).1) ∧
  n = ((List.range 32).map (fun i => ((List.range (kindCols k)).filter (fun j => (g i j).2)).length)).sum

/-- No core has a request that has not reached its home. -/
def State.unposted (s : State) : Prop := ∀ c, (s.core c).posted = []

/-- No copy of a core runs, or has ended unseen by an acquire of its issuer (11 R272). -/
def State.uncopied (s : State) (core : Nat) : Prop := (s.core core).copies = [] ∧ (s.core core).ended = []

/-- No crew on a core has read a line under a pending fence (12 R293). -/
def State.unread (s : State) (core line : Nat) : Prop :=
  ∀ e ∈ s.blocks, e.2.core = core → ∀ w ∈ e.2.crews, ∀ f ∈ w.2.fences, ∀ x ∈ f.lines, x.1 ≠ line

/-- The one lane of a set. -/
def onlyLane (m : Lanes) (l : Nat) : Prop := l < 64 ∧ m = laneBit l

end Sys2Proof.Machine
end

