-- ==== Sys2Proof/WellFormed.lean ====
section
/-! DEFINITION. When a slot instruction is well formed: the checks 5, 6, 7 and 10 of 03 R62 pass for it. -/

namespace Sys2Proof

/-- A slot instruction that the decoder accepts against an environment: legal operands, legal modifiers, unused bits
zero, enough beats (03 R62, checks 5, 6, 7 and 10). An event is never a slot. -/
def Instr.wellFormed (env : DecodeEnv) (i : Instr) : Bool :=
  (i.sig env).operandsOk env && (i.sig env).mod && (i.sig env).zerosOk && i.beatsOk env

end Sys2Proof
end

