-- ==== Sys2Proof/Certificates/Slice0/Obligations.lean ====
section
/-! DEFINITION. The statements for the provers, from the numbered rules of the manual. Where a statement rests on a choice of
the model, its docstring names the log entry. -/

open Sys2Proof Sys2Proof.Machine

/-! ### Encoding -/

/-- Decoding an encoded slot gives it back, whatever its fields; and a bundle of one well-formed slot on its own side, within
its read ports, decodes to it (03 R44 to R51, R56 to R62). -/
def Obligations.DecodeOfEncode : Prop :=
  (∀ (i : Instr) (last : Bool) (w : BitVec 64), encodeSlot last i = some w → decodeSlot w = .ok i ∧ slotLast w = last) ∧
  ∀ (env : DecodeEnv) (i : Instr) (w : BitVec 64), encodeSlot true i = some w → i.wellFormed env = true →
    decide (4 ≤ slotUnit w) = env.loft → portMask [(i.sig env).reads] = 0 → decodeBundle env [w] = .ok [i]

/-- Encoding a decoded slot gives its word back, so no bit of a word is lost (03 R44 to R51). -/
def Obligations.EncodeOfDecode : Prop :=
  ∀ (w : BitVec 64) (i : Instr), decodeSlot w = .ok i → encodeSlot (slotLast w) i = some w

/-! ### Unit A -/

/-- R110: IADD, ISUB, IMUL, IMULH, IMIN and IMAX complete with each element of the result fitted from the exact integer
operation; with one element, the flags of R107. -/
def Obligations.ElementArithmetic : Prop :=
  ∀ (x : ArgsA) (s : State) (b : Block) (c : Crew), s.gang? = some (b, c) →
    let n := (elems x.w).2
    let A := fun l e => elem (s.src (x.w == 1) x.a l) e n x.s
    let B := fun l e => elem (s.src (x.w == 1) x.b l) e n x.s
    let ua := fun l => s.src (x.w == 1) x.a l % 2 ^ n
    let ub := fun l => s.src (x.w == 1) x.b l % 2 ^ n
    let done := fun (i : Instr) (sat : Bool) (op : Int → Int → Int) (cf vf : Nat → Bool) =>
      ∃ f, CompletesA s c i x (x.w == 1) f ∧ ∀ l,
        Elementwise x.w x.s sat (f l).val (fun e => op (A l e) (B l e)) ∧
        (x.w.toNat ≤ 1 → (f l).flags = flagsFrom n (f l).val (cf l) (vf l))
    let past := fun l => decide (A l 0 * B l 0 < (if x.s then -(2 ^ (n - 1) : Nat) else 0 : Int) ∨
      ((if x.s then 2 ^ (n - 1) else 2 ^ n : Nat) : Int) ≤ A l 0 * B l 0)
    done (.iadd x) x.sat (fun a b => a + b) (fun l => decide (2 ^ n ≤ ua l + ub l))
      (fun l => outSigned n (toSigned n (ua l) + toSigned n (ub l))) ∧
    done (.isub x) x.sat (fun a b => a - b) (fun l => decide (ub l ≤ ua l))
      (fun l => outSigned n (toSigned n (ua l) - toSigned n (ub l))) ∧
    done (.imul x) x.sat (fun a b => a * b) past past ∧
    done (.imulh x) false (fun a b => a * b / (2 ^ n : Nat)) (fun _ => false) (fun _ => false) ∧
    done (.imin x) x.sat min (fun _ => false) (fun _ => false) ∧
    done (.imax x) x.sat max (fun _ => false) (fun _ => false)

/-- R113, R115, R116: IMAD, IMADW, IABS, IDP4 and ISAD complete with their exact result fitted once; IMAD and IABS element by
element. -/
def Obligations.ExactThenFitted : Prop :=
  ∀ (x : ArgsA) (s : State) (b : Block) (c : Crew), s.gang? = some (b, c) →
    let n := (elems x.w).2
    let ne := (elems x.w).1
    let A := s.src (x.w == 1) x.a
    let B := s.src (x.w == 1) x.b
    let C := s.src (x.w == 1) x.c
    let a1 := s.src false x.a
    let b1 := s.src false x.b
    let c1 := s.src false x.c
    (∃ f, CompletesA s c (.imad x) x (x.w == 1) f ∧ ∀ l, Elementwise x.w x.s x.sat (f l).val
      (fun e => elem (A l) e n x.s * elem (B l) e n x.s + elem (C l) e n x.s)) ∧
    (∃ f, CompletesA s c (.imadw x) x true f ∧ ∀ l, (f l).val =
      fit (elem (a1 l) 0 32 x.s * elem (b1 l) 0 32 x.s + elem (s.src true x.c l) 0 64 x.s) 64 x.s x.sat) ∧
    (∃ f, CompletesA s c (.iabs x) x (x.w == 1) f ∧ ∀ l, Elementwise x.w true x.sat (f l).val
      (fun e => ((elem (A l) e n true).natAbs : Int))) ∧
    (∃ f, CompletesA s c (.idp4 x) x false f ∧ ∀ l, (f l).val = fit (elem (c1 l) 0 32 true +
      sumElems ne (fun e => elem (a1 l) e n (x.sub.getLsbD 0) * elem (b1 l) e n (x.sub.getLsbD 1))) 32 true x.sat) ∧
    (∃ f, CompletesA s c (.isad x) x false f ∧ ∀ l, (f l).val = fit (elem (c1 l) 0 32 false +
      sumElems ne (fun e => ((elem (a1 l) e n x.s - elem (b1 l) e n x.s).natAbs : Int))) 32 false x.sat)

/-- R114: IDIV completes with the truncated quotient or the remainder, with the stated values for a zero divisor and for the
least number by -1; it never faults. -/
def Obligations.Division : Prop :=
  ∀ (x : ArgsA) (s : State) (b : Block) (c : Crew), s.gang? = some (b, c) →
    let n := (elems x.w).2
    let least : Int := -(2 ^ (n - 1) : Nat)
    ∃ f, CompletesA s c (.idiv x) x (x.w == 1) f ∧ ∀ l,
      let a := elem (s.src (x.w == 1) x.a l) 0 n x.s
      let d := elem (s.src (x.w == 1) x.b l) 0 n x.s
      (d = 0 → (f l).val = wrapNat n (if x.sub.getLsbD 0 then a else if x.s then -1 else (2 ^ n : Nat) - 1)) ∧
      (d ≠ 0 → x.s = true ∧ a = least ∧ d = -1 →
        (f l).val = wrapNat n (if x.sub.getLsbD 0 then 0 else if x.sat then (2 ^ (n - 1) : Nat) - 1 else least)) ∧
      (d ≠ 0 → ¬ (x.s = true ∧ a = least ∧ d = -1) → ∃ q m : Int, a = q * d + m ∧ m.natAbs < d.natAbs ∧
        (0 ≤ a → 0 ≤ m) ∧ (a ≤ 0 → m ≤ 0) ∧ (f l).val = wrapNat n (if x.sub.getLsbD 0 then m else q))

/-- R117: AND, OR, XOR, ANDN, their immediate forms and LOP3 complete, bit by bit. -/
def Obligations.Logic : Prop :=
  ∀ (x : ArgsA) (y : ArgsI) (z : ArgsR) (s : State) (b : Block) (c : Crew), s.gang? = some (b, c) → x.w.toNat ≤ 1 →
    let bitwise := fun (i : Instr) (op : Bool → Bool → Bool) =>
      ∃ f, CompletesA s c i x (x.w == 1) f ∧ ∀ l j, (f l).val.testBit j =
        (decide (j < (elems x.w).2) && op ((s.src (x.w == 1) x.a l).testBit j) ((s.src (x.w == 1) x.b l).testBit j))
    let withImm := fun (i : Instr) (op : Bool → Bool → Bool) =>
      ∃ f : Nat → Nat, WritesOnly s (exec i s) c.core (s.active y.g) y.d 1 f none ∧ ∀ l j, (f l).testBit j =
        (decide (j < 32) && op ((s.src false y.a l).testBit j) ((y.imm.signExtend 32).getLsbD j))
    bitwise (.and x) (fun p q => p && q) ∧ bitwise (.or x) (fun p q => p || q) ∧ bitwise (.xor x) (fun p q => p != q) ∧
    bitwise (.andn x) (fun p q => p && !q) ∧
    withImm (.andi y) (fun p q => p && q) ∧ withImm (.ori y) (fun p q => p || q) ∧ withImm (.xori y) (fun p q => p != q) ∧
    ∃ f, AluCompletes s (exec (.lop3 z) s) c.core z.g z.d false z.cw z.ci f ∧ ∀ l j, (f l).val.testBit j =
      (decide (j < 32) && z.x.getLsbD (4 * ((s.src false z.a l).testBit j).toNat + 2 * ((s.src false z.b l).testBit j).toNat
        + ((s.src false z.c l).testBit j).toNat))

/-- R118: SHL, SHR, SAR and ROT complete element by element, amounts exact and not wrapped; with one element, C as its table
gives it. -/
def Obligations.Shifts : Prop :=
  ∀ (x : ArgsA) (s : State) (b : Block) (c : Crew), s.gang? = some (b, c) →
    let n := (elems x.w).2
    let u := fun l e => s.src (x.w == 1) x.a l / 2 ^ (n * e) % 2 ^ n
    let k := fun l e => (if x.w = 1 then s.src false x.b l else s.src false x.b l / 2 ^ (n * e) % 2 ^ n) + x.sub.toNat
    let done := fun (i : Instr) (r : Nat → Nat → Nat) (cf : Nat → Nat → Nat → Bool) =>
      ∃ f, CompletesA s c i x (x.w == 1) f ∧ ∀ l,
        (∀ e, e < (elems x.w).1 → (f l).val / 2 ^ (n * e) % 2 ^ n = r (u l e) (k l e)) ∧
        (x.w.toNat ≤ 1 → (f l).flags = flagsFrom n (f l).val (cf (u l 0) (k l 0) (f l).val) false)
    done (.shl x) (fun a k => if k < n then a * 2 ^ k % 2 ^ n else 0) (fun a k _ => decide (1 ≤ k ∧ k ≤ n) && a.testBit (n - k)) ∧
    done (.shr x) (fun a k => if k < n then a / 2 ^ k else 0) (fun a k _ => decide (1 ≤ k ∧ k ≤ n) && a.testBit (k - 1)) ∧
    done (.sar x) (fun a k => if k < n then wrapNat n (toSigned n a / (2 ^ k : Nat)) else if toSigned n a < 0 then 2 ^ n - 1 else 0)
      (fun a k _ => if k = 0 then false else if k ≤ n then a.testBit (k - 1) else a.testBit (n - 1)) ∧
    done (.rot x) (fun a k => (a * 2 ^ (k % n) + a / 2 ^ (n - k % n)) % 2 ^ n) (fun _ k v => decide (k % n ≠ 0) && v.testBit 0)

/-- R119, R120, R121: SHF, BFX, BFI, POPC, CLZ, BREV and PRMT complete with the bits that their rules give. -/
def Obligations.FieldsAndCounts : Prop :=
  ∀ (x : ArgsA) (z : ArgsR) (s : State) (b : Block) (c : Crew), s.gang? = some (b, c) → x.w.toNat ≤ 1 →
    let n := (elems x.w).2
    let A := s.src (x.w == 1) x.a
    let pos := fun l => s.src false x.b l % 256
    let len := fun l => min (s.src false x.b l / 256 % 256) n
    (∃ f, AluCompletes s (exec (.shf z) s) c.core z.g z.d false z.cw z.ci f ∧ ∀ l,
      let t := s.src false z.c l + z.x.toNat % 32
      let k := if z.x.getLsbD 5 then min t 32 else t % 32
      let v := s.src false z.a l * 2 ^ 32 + s.src false z.b l
      (f l).val = if z.x.getLsbD 6 then v / 2 ^ k % 2 ^ 32 else v * 2 ^ k % 2 ^ 64 / 2 ^ 32) ∧
    (∃ f, CompletesA s c (.bfx x) x (x.w == 1) f ∧ ∀ l,
      let r := wrapNat (len l) (elem (A l) 0 n x.s / (2 ^ pos l : Nat))
      (f l).val = if len l = 0 then 0 else if x.s then wrapNat n (toSigned (len l) r) else r) ∧
    (∃ f, CompletesA s c (.bfi x) x (x.w == 1) f ∧ ∀ l j, (f l).val.testBit j = (decide (j < n) &&
      if pos l ≤ j ∧ j < pos l + len l then (A l).testBit (j - pos l) else (s.src (x.w == 1) x.c l).testBit j)) ∧
    (∃ f, CompletesA s c (.popc x) x false f ∧ ∀ l, (f l).val = ((List.range n).filter (fun j => (A l).testBit j)).length) ∧
    (∃ f, CompletesA s c (.clz x) x false f ∧ ∀ l, (f l).val ≤ n ∧ A l % 2 ^ n < 2 ^ (n - (f l).val) ∧
      ((f l).val < n → 2 ^ (n - 1 - (f l).val) ≤ A l % 2 ^ n)) ∧
    (∃ f, CompletesA s c (.brev x) x (x.w == 1) f ∧ ∀ l j, (f l).val.testBit j = (decide (j < n) && (A l).testBit (n - 1 - j))) ∧
    ∃ f, CompletesA s c (.prmt x) x false f ∧ ∀ l i, i < 4 →
      let sel := s.src false x.c l / 16 ^ i % 16
      let y := (if sel % 8 < 4 then s.src false x.a l / 256 ^ (sel % 8) else s.src false x.b l / 256 ^ (sel % 8 - 4)) % 256
      (f l).val / 256 ^ i % 256 = if sel < 8 then y else if 128 ≤ y then 255 else 0

/-- R122, R123, R126: ICMP, ICMPI and ITST write only a cc register, with the flags of a difference or a conjunction; SEL
picks by a condition; CCRD and CCWR move a cc register. -/
def Obligations.CompareAndSelect : Prop :=
  ∀ (x : ArgsA) (y : ArgsI) (z : ArgsR) (s : State) (b : Block) (c : Crew), s.gang? = some (b, c) → x.w.toNat ≤ 1 →
    let n := (elems x.w).2
    let dif := fun (n a b : Nat) => flagsFrom n (wrapNat n ((a : Int) - (b : Int))) (decide (b ≤ a)) (outSigned n (toSigned n a - toSigned n b))
    WritesOnly s (exec (.icmp x) s) c.core (s.active x.g) 240 0 (fun _ => 0)
      (some (x.ci.toNat, fun l => dif n (s.src (x.w == 1) x.a l % 2 ^ n) (s.src (x.w == 1) x.b l % 2 ^ n))) ∧
    WritesOnly s (exec (.icmpi y) s) c.core (s.active y.g) 240 0 (fun _ => 0)
      (some (y.d.toNat % 4, fun l => dif 32 (s.src false y.a l % 2 ^ 32) (y.imm.signExtend 32).toNat)) ∧
    WritesOnly s (exec (.itst x) s) c.core (s.active x.g) 240 0 (fun _ => 0)
      (some (x.ci.toNat, fun l => flagsFrom n ((s.src (x.w == 1) x.a l &&& s.src (x.w == 1) x.b l) % 2 ^ n) false false)) ∧
    (let wide := natBits z.x.toNat 8 7 == 1
     WritesOnly s (exec (.sel z) s) c.core (s.active z.g) z.d (regCount wide)
      (fun l => if condHolds (natBits z.x.toNat 3 0) (s.srcCc z.ci.toNat l) then s.src wide z.a l else s.src wide z.b l) none) ∧
    WritesOnly s (exec (.ccrd x) s) c.core (s.active x.g) x.d 1 (fun l => (s.srcCc x.ci.toNat l).toNat) none ∧
    WritesOnly s (exec (.ccwr x) s) c.core (s.active x.g) 240 0 (fun _ => 0)
      (some (x.ci.toNat, fun l => BitVec.ofNat 4 (s.src false x.a l)))

/-- R112, R111, R124, R125: IADDI, IADC, ISBC, MOV, LI, LIH and LEA complete with the sums and copies of their rules; NOP
changes nothing. -/
def Obligations.MovesAndCarries : Prop :=
  ∀ (x : ArgsA) (y : ArgsI) (u : BitVec 3) (low : BitVec 50) (s : State) (b : Block) (c : Crew), s.gang? = some (b, c) →
    x.w.toNat ≤ 1 →
    let n := (elems x.w).2
    let A := fun l => s.src (x.w == 1) x.a l % 2 ^ n
    let B := fun l => s.src (x.w == 1) x.b l % 2 ^ n
    let cin := fun l => (flagC (s.srcCc x.ci.toNat l)).toNat
    let fromA := fun (i : Instr) (r : Nat → Nat) => WritesOnly s (exec i s) c.core (s.active y.g) y.d 1 r none
    exec (.nop u low) s = .next s ∧
    fromA (.iaddi y) (fun l => wrapNat 32 ((s.src false y.a l : Int) + y.imm.toInt)) ∧
    fromA (.li y) (fun _ => (y.imm.signExtend 32).toNat) ∧
    fromA (.lih y) (fun l => y.imm.toNat % 2 ^ 16 * 2 ^ 16 + s.src false y.a l % 2 ^ 16) ∧
    (∃ f, CompletesA s c (.mov x) x (x.w == 1) f ∧ ∀ l, (f l).val = A l) ∧
    (∃ f, CompletesA s c (.lea x) x (x.w == 1) f ∧ ∀ l, (f l).val =
      wrapNat n ((A l : Int) + (if x.w = 1 ∧ x.s then toSigned 32 (s.src false x.b l) else (s.src false x.b l : Int)) * (2 ^ x.sub.toNat : Nat))) ∧
    (∃ f, CompletesA s c (.iadc x) x (x.w == 1) f ∧ ∀ l, (f l).val = (A l + B l + cin l) % 2 ^ n ∧
      (f l).flags = flagsFrom n (f l).val (decide (2 ^ n ≤ A l + B l + cin l)) (outSigned n (toSigned n (A l) + toSigned n (B l) + cin l))) ∧
    ∃ f, CompletesA s c (.isbc x) x (x.w == 1) f ∧ ∀ l, (f l).val = wrapNat n ((A l : Int) - B l - (1 - cin l)) ∧
      (f l).flags = flagsFrom n (f l).val (decide (B l + (1 - cin l) ≤ A l))
        (outSigned n (toSigned n (A l) - toSigned n (B l) - (1 - cin l : Nat)))

/-- R128, R129, R130: SHFL, VOTE and MATCH complete over the executing set of the lane's own logical crew, lanes numbered
within it; a k destination takes the lowest lane's value (R131). -/
def Obligations.CrewOperations : Prop :=
  ∀ (x : ArgsA) (s : State) (b : Block) (c : Crew), s.gang? = some (b, c) →
    let w := b.width
    let E := fun l => s.setOf x.g (isK x.d) w l
    let base := fun l => l / w * w
    let A := s.src (x.w == 1) x.a
    let A1 := s.src false x.a
    let bits := fun l (p : Nat → Bool) (v : Nat) => ∀ j, v.testBit j = (decide (j < w) && (E l).getLsbD (base l + j) && p (base l + j))
    let on := fun l => (s.active x.g).getLsbD l = true
    (∃ f, CompletesA s c (.shfl x) x (x.w == 1) f ∧ ∀ l, on l →
      let n := l - base l
      let v := s.src false x.b l
      let take := fun (ok : Prop) (j : Nat) =>
        let met := ok ∧ (E l).getLsbD (base l + j) = true ∧ j < w
        let flags := flagsFrom (if x.w == 1 then 64 else 32) (f l).val
        (met → (f l).val = A (base l + j) ∧ (f l).flags = flags true false) ∧ (¬ met → (f l).val = A l ∧ (f l).flags = flags false false)
      ∀ ws, ((∃ k, s.src false x.c l = 2 ^ k) ∧ s.src false x.c l ≤ w → ws = s.src false x.c l) →
        (¬ ((∃ k, s.src false x.c l = 2 ^ k) ∧ s.src false x.c l ≤ w) → ws = w) →
        match x.sub.toNat % 4 with
        | 0 => take True (n - n % ws + v % ws)
        | 1 => take (v ≤ n % ws) (n - v)
        | 2 => take (n + v < n - n % ws + ws) (n + v)
        | _ => take (v < ws) (n ^^^ v)) ∧
    (∃ f, AluCompletes s (exec (.vote x) s) c.core x.g x.d (x.sub == 0 && w == 64) x.cw x.ci f ∧ ∀ l, on l →
      (x.sub = 0 → bits l (fun j => A1 j != 0) (f l).val) ∧ (x.sub = 1 ∨ x.sub = 2 ∨ x.sub = 3 → (f l).val ≤ 1) ∧
      (x.sub = 1 → ((f l).val = 1 ↔ ∀ j, (E l).getLsbD j → A1 j ≠ 0)) ∧
      (x.sub = 2 → ((f l).val = 1 ↔ ∃ j, (E l).getLsbD j ∧ A1 j ≠ 0)) ∧
      (x.sub = 3 → ((f l).val = 1 ↔ ∀ j k, (E l).getLsbD j → (E l).getLsbD k → A1 j = A1 k))) ∧
    ∃ f, AluCompletes s (exec (.matchL x) s) c.core x.g x.d (w == 64) x.cw x.ci f ∧ ∀ l, on l → bits l (fun j => A j == A l) (f l).val

/-! ### Unit B -/

/-- The rounding of an exact magnitude n/d to a code of a format, exponent unbounded, by each mode (02 R31, R32): between
the neighbours lo and lo + 1, and to a whole number likewise. -/
def Obligations.RoundingToANeighbour : Prop :=
  ∀ (f : Fmt) (neg : Bool) (n d r : Nat), f ∈ [fp64, fp32, fp16, bf16, e4m3, e5m2, e3m2, e2m3, e2m1] → 0 < n → 0 < d →
    let picks := fun (at_ : Nat → Nat) (x : Nat) (res : Nat → Nat) => ∃ lo, at_ lo * d ≤ x ∧ x < at_ (lo + 1) * d ∧
      let gap := (at_ (lo + 1) - at_ lo) * d
      let past := x - at_ lo * d
      res 0 = (if 2 * past < gap ∨ (2 * past = gap ∧ lo % 2 = 0) then lo else lo + 1) ∧
      res 1 = lo ∧
      res 2 = (if past = 0 ∨ neg then lo else lo + 1) ∧
      res 3 = (if past = 0 ∨ !neg then lo else lo + 1) ∧
      res 4 = (if 2 * past < gap then lo else lo + 1) ∧
      res 5 = (if past * 2 ^ 32 / gap + r < 2 ^ 32 then lo else lo + 1)
    (r < 2 ^ 32 → picks f.units (n * 2 ^ (f.bias + f.mbits - 1)) (fun rm => roundMag f rm neg r n d)) ∧
    (r < 2 ^ 32 → picks id n (fun rm => roundWhole rm neg r n d))

/-- R134: products take the exclusive-or of their signs, sums are exact with the sign of an exact zero as IEEE 754 gives it
for the mode, and invalid operations give NaN. -/
def Obligations.ExactProductsAndSums : Prop :=
  ∀ (x y : Val) (ts : List Val) (rm : Nat),
    let signed := fun (s : Bool) (n : Nat) => if s then -(n : Int) else (n : Int)
    (∀ s t n m d e, x = .fin s n d → y = .fin t m e → x.mul y = .fin (s != t) (n * m) (d * e)) ∧
    (∀ s t, x = .inf s → y = .inf t → x.mul y = .inf (s != t)) ∧
    (∀ s t m e, x = .inf s → y = .fin t m e → x.mul y = (if m = 0 then .nan else .inf (s != t)) ∧ y.mul x = x.mul y) ∧
    (x = .nan ∨ y = .nan → x.mul y = .nan) ∧
    (Val.nan ∈ ts ∨ (Val.inf true ∈ ts ∧ Val.inf false ∈ ts) → Val.sum rm ts = .nan) ∧
    (∀ s, Val.nan ∉ ts → Val.inf s ∈ ts → Val.inf (!s) ∉ ts → Val.sum rm ts = .inf s) ∧
    ((∀ t ∈ ts, ∃ s n d, t = .fin s n d ∧ 0 < d) → ∃ u k g, Val.sum rm ts = .fin u k g ∧ 0 < g ∧
      (∀ D : Nat, (∀ t ∈ ts, ∀ s n d, t = .fin s n d → d ∣ D) →
        signed u k * D = g * (ts.map (fun t => match t with | .fin s n d => signed s n * (D / d : Nat) | _ => 0)).sum) ∧
      (k = 0 → ts ≠ [] →
        let all := fun n => ∀ t ∈ ts, ∃ d, t = .fin n 0 d
        (all true → u = true) ∧ (all false → u = false) ∧ (¬ all true → ¬ all false → u = decide (rm = 3))))

/-- R138, R139: the additions, multiplications and fused operations in FP32, FP64 and packed pairs, and FDP2, complete with
their exact result fitted once, each packed element on its own. -/
def Obligations.FloatArithmetic : Prop :=
  ∀ (x : ArgsB) (s : State) (b : Block) (c : Crew), s.gang? = some (b, c) →
    let rm := x.rm.toNat
    let A := fun (f : Fmt) (w : Bool) l e => srcA f x (s.src w x.a l / 2 ^ (16 * e))
    let B := fun (f : Fmt) (w : Bool) l e => srcVal f x.fz (s.src w x.b l / 2 ^ (16 * e))
    let C := fun (f : Fmt) (w : Bool) l e => let v := srcVal f x.fz (s.src w x.c l / 2 ^ (16 * e)); if x.nc then v.neg else v
    let one := fun (i : Instr) (f : Fmt) (w : Bool) (v : Nat → Val) =>
      CompletesB s b c i x f w (fun l => fitFp f x (s.laneRandom x.d l 0) (v l))
    let h := if x.bf then bf16 else fp16
    let two := fun (i : Instr) (v : Nat → Nat → Val) => CompletesB2 s b c i x (fun l e => fitFp h x (s.laneRandom x.d l e) (v l e))
    let add := fun f w l e => Val.sum rm [A f w l e, B f w l e]
    let mul := fun f w l e => (A f w l e).mul (B f w l e)
    let fma := fun f w l e => Val.sum rm [(A f w l e).mul (B f w l e), C f w l e]
    one (.fadd x) fp32 false (fun l => add fp32 false l 0) ∧
    one (.fsub x) fp32 false (fun l => Val.sum rm [A fp32 false l 0, (B fp32 false l 0).neg]) ∧
    one (.fmul x) fp32 false (fun l => mul fp32 false l 0) ∧
    one (.ffma x) fp32 false (fun l => fma fp32 false l 0) ∧
    one (.dadd x) fp64 true (fun l => add fp64 true l 0) ∧
    one (.dmul x) fp64 true (fun l => mul fp64 true l 0) ∧
    one (.dfma x) fp64 true (fun l => fma fp64 true l 0) ∧
    one (.fdp2 x) fp32 false (fun l => Val.sum rm [mul h false l 0, mul h false l 1, C fp32 false l 0]) ∧
    two (.hadd2 x) (add h false) ∧ two (.hmul2 x) (mul h false) ∧ two (.hfma2 x) (fma h false)

/-- R140, R141: FMIN, FMAX and their packed forms complete with the chosen element's bits, FRND with an integral value. -/
def Obligations.FloatSelections : Prop :=
  ∀ (x : ArgsB) (s : State) (b : Block) (c : Crew), s.gang? = some (b, c) →
    let A := fun (f : Fmt) l e => srcA f x (s.src false x.a l / 2 ^ (16 * e))
    let B := fun (f : Fmt) l e => srcVal f x.fz (s.src false x.b l / 2 ^ (16 * e))
    let h := if x.bf then bf16 else fp16
    let pick := fun (f : Fmt) (isMax : Bool) l e =>
      let p := A f l e
      let q := B f l e
      let v := exactBits f (if p.isNan then q else if q.isNan then p else if (if isMax then p.lt q else q.lt p) then q else p)
      if x.cl then clamp01 f v else v
    CompletesB s b c (.fmin x) x fp32 false (fun l => pick fp32 false l 0) ∧
    CompletesB s b c (.fmax x) x fp32 false (fun l => pick fp32 true l 0) ∧
    CompletesB2 s b c (.hmin2 x) x (pick h false) ∧ CompletesB2 s b c (.hmax2 x) x (pick h true) ∧
    ∃ v : Nat → Nat, CompletesB s b c (.frnd x) x fp32 false v ∧ ∀ l, x.cl = false →
      (A fp32 l 0 = .nan → v l = fp32.nanCode) ∧ (∀ n, A fp32 l 0 = .inf n → v l = fp32.signed n fp32.infCode) ∧
      ∀ n k d, A fp32 l 0 = .fin n k d → v l = fp32.flush x.fz (exactBits fp32
        (if k < 2 ^ 23 * d then .fin n (roundWhole x.rm.toNat n (s.laneRandom x.d l 0) k d) 1 else .fin n k d))

/-- R142, R143: FCMP and DCMP write only c[CI], from the relation of their operands; and after that each guard condition
holds for the relations that the table marks. -/
def Obligations.FloatComparison : Prop :=
  (∀ (x : ArgsB) (s : State) (b : Block) (c : Crew), s.gang? = some (b, c) →
    let rel := fun (f : Fmt) (w : Bool) l => (srcA f x (s.src w x.a l)).relation (srcVal f x.fz (s.src w x.b l))
    WritesOnly s (exec (.fcmp x) s) c.core (s.active x.g) 240 0 (fun _ => 0) (some (x.ci.toNat, rel fp32 false)) ∧
    WritesOnly s (exec (.dcmp x) s) c.core (s.active x.g) 240 0 (fun _ => 0) (some (x.ci.toNat, rel fp64 true))) ∧
  ∀ (x y : Val) (gk : Nat), gk < 16 →
    let holds := fun (lt eq gt un : List Nat) => condHolds gk (x.relation y) = decide
      (gk ∈ if x.relation y = 0b1000#4 then lt else if x.relation y = 0b0110#4 then eq
        else if x.relation y = 0b0010#4 then gt else un)
    holds [0, 2, 3, 6, 7, 10, 11, 14] [0, 1, 4, 6, 8, 10, 12, 14] [0, 2, 4, 5, 8, 9, 12, 14] [0, 1, 3, 6, 8, 10, 12, 13, 15]

/-- R149 in part: RCP, RSQ, SQRT, EX2, LG2, SIN, COS and TANH complete in every state with a result fitted once, RCP from
the exact quotient; the special cases of the table, the exact results of EX2, LG2 and TANH, the odd and even functions, and a
NaN input's canonical NaN. Where the table gives a bound alone the value within it is the model's free choice (log 7, DESIGN
CHOICE). -/
def Obligations.SpecialFunctions : Prop :=
  (∀ (x : ArgsB) (s : State) (b : Block) (c : Crew), s.gang? = some (b, c) →
    let done := fun (i : Instr) (f : Val → Val) =>
      CompletesB s b c i x fp32 false (fun l => fitFp fp32 x 0 (f (srcA fp32 x (s.src false x.a l))))
    done (.rcp x) fnRcp ∧ done (.rsq x) fnRsq ∧ done (.sqrt x) fnSqrt ∧ done (.ex2 x) fnEx2 ∧
    done (.lg2 x) fnLg2 ∧ done (.sin x) fnSin ∧ done (.cos x) fnCos ∧ done (.tanh x) fnTanh) ∧
  let zero := fun n => Val.fin n 0 1
  let one := fun n => Val.fin n 1 1
  (∀ f ∈ [fnRcp, fnRsq, fnSqrt, fnEx2, fnLg2, fnSin, fnCos, fnTanh], f .nan = .nan) ∧
  (∀ n k d, 0 < k → fnRcp (.fin n k d) = .fin n d k) ∧ (∀ n, fnRcp (zero n) = .inf n ∧ fnRcp (.inf n) = zero n) ∧
  (∀ n, fnSqrt (zero n) = zero n) ∧ fnSqrt (.inf false) = .inf false ∧
  (∀ n, fnRsq (zero n) = .inf n) ∧ fnRsq (.inf false) = zero false ∧
  (∀ n, fnLg2 (zero n) = .inf true) ∧ fnLg2 (.inf false) = .inf false ∧ fnLg2 (one false) = zero false ∧
  (∀ f ∈ [fnSqrt, fnRsq, fnLg2], f (.inf true) = .nan ∧ ∀ k d, 0 < k → f (.fin true k d) = .nan) ∧
  fnEx2 (.inf true) = zero false ∧ fnEx2 (.inf false) = .inf false ∧
  (∀ k d, 128 * d ≤ k → fnEx2 (.fin false k d) = .inf false) ∧ (∀ k d, 150 * d < k → fnEx2 (.fin true k d) = zero false) ∧
  (∀ k, k ≤ 127 → fnEx2 (.fin false k 1) = .fin false (2 ^ k) 1) ∧
  (∀ k, 0 < k → k ≤ 149 → fnEx2 (.fin true k 1) = .fin false 1 (2 ^ k)) ∧
  (∀ n, fnSin (.inf n) = .nan ∧ fnCos (.inf n) = .nan ∧ fnTanh (.inf n) = one n) ∧
  (∀ n, fnSin (zero n) = zero n ∧ fnCos (zero n) = one false ∧ fnTanh (zero n) = zero n) ∧
  (∀ n k d, 0 < k → 9 * d ≤ k → fnTanh (.fin n k d) = one n) ∧
  ∀ v : Val, fnSin v.neg = (fnSin v).neg ∧ fnCos v.neg = fnCos v ∧ fnTanh v.neg = (fnTanh v).neg

/-- R145, with the flags of R147 and the counts of R148 for them: F2I, I2F and FCVT complete with the converted value, and count each lane that saturates. -/
def Obligations.Conversions : Prop :=
  ∀ (x : ArgsR) (s : State) (b : Block) (c : Crew), s.gang? = some (b, c) →
    let rm := natBits x.x.toNat 8 6
    let m := s.active x.g
    let r := fun l => s.laneRandom x.d l 0
    let flags := fun (v : Val) (sat : Bool) => mkFlags (decide (v.relation (.fin false 0 1) = 0b1000#4)) v.isZero v.isNan sat
    let done := fun (i : Instr) (wide : Bool) (f : Nat → Nat) (v : Nat → Val) (sat : Nat → Bool) =>
      RoundsOnly s (exec i s) b c.core m x.d (regCount wide) f (cwFlags x.cw x.ci (fun l => flags (v l) (sat l)))
        (srAdvances b m x.d rm) (if inShadowRange b x.d then 0 else ((laneList m).filter sat).length)
    (∃ q : Nat → Int, ∃ sat, done (.f2i x) false (fun l => wrapNat 32 (q l)) (fun l => Val.ofInt (q l)) sat ∧ ∀ l,
      let v := srcVal (if x.x.getLsbD 4 then fp64 else fp32) (x.x.getLsbD 0) (s.src (x.x.getLsbD 4) x.a l)
      let lo : Int := if x.x.getLsbD 5 then -(2 ^ 31 : Nat) else 0
      let hi : Int := if x.x.getLsbD 5 then (2 ^ 31 : Nat) - 1 else (2 ^ 32 : Nat) - 1
      (v = .nan → q l = 0 ∧ sat l = true) ∧
      (∀ n, v = .inf n → q l = (if n && !x.x.getLsbD 3 then lo else hi) ∧ sat l = true) ∧
      ∀ n k d, v = .fin n k d →
        let n' := n && !x.x.getLsbD 3
        let w : Int := if n' then -(roundWhole rm n' (r l) k d : Int) else roundWhole rm n' (r l) k d
        q l = max lo (min hi w) ∧ sat l = decide (q l ≠ w)) ∧
    (let f := if x.x.getLsbD 4 then fp64 else fp32
     ∃ q : Nat → Nat, done (.i2f x) (x.x.getLsbD 4) q (fun l => f.decode (q l)) (fun _ => false) ∧ ∀ l, q l = fitArith f rm (r l)
      (Val.ofInt (if x.x.getLsbD 5 then toSigned 32 (s.src false x.a l) else s.src false x.a l % 2 ^ 32))) ∧
    (let sk := natBits x.x.toNat 5 4
     let dk := natBits x.x.toNat 3 2
     ∃ q sat, done (.fcvt x) (dk == 1) q (fun l => (kindFmt dk).decode (q l)) sat ∧ ∀ l,
      let a := s.src (sk == 1) x.a l
      let v := srcVal (kindFmt sk) (x.x.getLsbD 0) (if 2 ≤ sk then (if x.x.getLsbD 1 then a / 2 ^ 16 else a) % 2 ^ 16 else a)
      (v = .nan → q l = (kindFmt dk).nanCode ∧ sat l = false) ∧
      (∀ n, v = .inf n → q l = (kindFmt dk).signed n (kindFmt dk).infCode ∧ sat l = false) ∧
      ∀ n k d, v = .fin n k d →
        let u := roundMag (kindFmt dk) rm n (r l) k d
        q l = (kindFmt dk).flush (x.x.getLsbD 0) ((kindFmt dk).signed n (min u (kindFmt dk).maxCode)) ∧
        sat l = decide ((kindFmt dk).maxCode < u))

/-- R146, R147: F2N narrows two FP32 values and N2F widens one code, in lanes that pass the slot's checks; a lane whose slot
or kind is refused faults with 0x148 or 0x149. -/
def Obligations.NarrowConversions : Prop :=
  ∀ (x : ArgsR) (s : State) (b : Block) (c : Crew), s.gang? = some (b, c) →
    let m := s.active x.g
    let sl := slotOf (recSlot b.record (natBits x.x.toNat 5 3))
    let k := if x.x.getLsbD 2 then sl.bk else sl.ak
    let w := if k = 7 ∨ k = 11 then 4 else 8
    let ok := sl.valid = true ∧ k ∈ [3, 4, 5, 6, 7, 9, 11]
    let ei := natBits x.x.toNat 8 6
    let flags := fun (n z : Val) (c v : Bool) => mkFlags (decide (n.relation (.fin false 0 1) = 0b1000#4)) (n.isZero && z.isZero) c v
    (∀ l, (verdict s b c l (.f2n x) = if sl.valid = false then .fault 0x148 0 15 else if ok then .ok else .fault 0x149 0 15) ∧
      verdict s b c l (.n2f x) = if sl.valid = false then .fault 0x148 0 15
        else if ok ∧ ¬ (3 < ei ∧ w = 8) then .ok else .fault 0x149 0 15) ∧
    (s.clear (.f2n x) → ∃ (q : Nat → Nat → Nat) (sat : Nat → Nat → Bool),
      RoundsOnly s (exec (.f2n x) s) b c.core m x.d 1 (fun l => q l 1 * 2 ^ w + q l 0)
        (cwFlags x.cw x.ci (fun l => let v := fun e => decodeElem k (if k = 9 then 0x80 else 8) (q l e)
          flags (v 0) (v 1) ((v 0).isNan || (v 1).isNan) (sat l 0 || sat l 1)))
        (srAdvances b m x.d sl.rm) (if inShadowRange b x.d then 0
          else ((laneList m).filter (fun l => sat l 0)).length + ((laneList m).filter (fun l => sat l 1)).length) ∧
      ∀ l e, e < 2 →
        let v := fp32.decode (s.src false (if e = 0 then x.a else x.b) l)
        let r := s.laneRandom x.d l e
        let top : Int := if k = 9 then 127 else 7
        match elemFmt k with
        | some f =>
          (v = .nan → q l e = f.nanCode ∧ sat l e = (f.top == .finite)) ∧
          (∀ n, v = .inf n → q l e = f.signed n (if k = 4 then f.infCode else f.maxCode) ∧ sat l e = (k != 4)) ∧
          ∀ n p d, v = .fin n p d → let u := roundMag f sl.rm n r p d
            q l e = f.signed n (min u f.maxCode) ∧ sat l e = decide (f.maxCode < u)
        | none =>
          (v = .nan → q l e = 0 ∧ sat l e = true) ∧
          (∀ n, v = .inf n → q l e = wrapNat w (if n then -top else top) ∧ sat l e = true) ∧
          ∀ n p d, v = .fin n p d → let u : Int := if n then -(roundWhole sl.rm n r p d : Int) else roundWhole sl.rm n r p d
            q l e = wrapNat w (max (-top) (min top u)) ∧ sat l e = decide (u < -top ∨ top < u)) ∧
    (s.clear (.n2f x) →
      let v := fun l => decodeElem k sl.sub (s.src false x.a l / 2 ^ (w * ei) % 2 ^ w)
      RoundsOnly s (exec (.n2f x) s) b c.core m x.d 1 (fun l => fitArith fp32 0 0 (v l))
        (cwFlags x.cw x.ci (fun l => flags (v l) (v l) (v l).isNan false)) false 0)

/-- R152, R153: RED.PUSH folds each logical crew's executing set into a latch in rising order, RED.MOV reads a latch and
RED.CLR gives it its operation's identity. -/
def Obligations.SumLatches : Prop :=
  ∀ (x : ArgsR) (s : State) (b : Block) (c : Crew), s.gang? = some (b, c) →
    let n := natBits x.x.toNat 1 0
    let op := natBits x.x.toNat 4 2
    let m := s.active x.g
    let latch := Map.get 0 s.pre.sl n
    let cleared := Map.set 0 c.core.sl n (if op = 2 then 0xFF800000 else if op = 3 then 0x7F800000 else 0)
    (∃ step : Nat → Lanes → Nat,
      (let v := BitVec.ofNat 32 ((s.execSets x.g true).foldl (fun v e => step v e.2) latch.toNat)
       exec (.redPush x) s =
        .next (if s.execSets x.g true = [] then s else s.onCrew (fun p => { p with sl := Map.set 0 p.sl n v }))) ∧
      ∀ v e, let vs := (laneList e).map (s.src false x.a)
        let all := (v :: vs).map fp32.decode
        (op = 0 → step v e = fitArith fp32 0 0 (Val.sum 0 all)) ∧
        (op = 1 → (Val.nan ∈ all → step v e = 0x7FC00000) ∧ (Val.nan ∉ all → ∃ y ∈ all, step v e = fitArith fp32 0 0 y.abs ∧
          ∀ z ∈ all, y.abs.lt z.abs = false)) ∧
        (op = 2 ∨ op = 3 → ((∀ y ∈ all, y = Val.nan) → step v e = 0x7FC00000) ∧ ((∃ y ∈ all, y ≠ Val.nan) → ∃ y ∈ all,
          y ≠ Val.nan ∧ step v e = fitArith fp32 0 0 y ∧ ∀ z ∈ all, (if op = 2 then y.lt z else z.lt y) = false)) ∧
        (op = 4 → step v e = wrapNat 32 ((v :: vs).map (toSigned 32)).sum)) ∧
    (∃ q, exec (.redMov x) s = .next (s.onCrew (fun _ => q)) ∧
      Wrote c.core { q with sl := c.core.sl } m x.d 1 (fun _ => latch.toNat) none ∧
      q.sl = if m ≠ 0 ∧ x.x.getLsbD 5 then cleared else c.core.sl) ∧
    exec (.redClr x) s = .next (if m ≠ 0 then s.onCrew (fun p => { p with sl := cleared }) else s)

/-- R157, R158: CHK has no effect where every lane agrees; where a lane disagrees no slot of the bundle commits in any lane,
a detected error is counted, and the crew, here one with no fence pending and no live list at its safe point, returns to
its checkpoint to rerun. -/
def Obligations.CheckRegisters : Prop :=
  ∀ (x : ArgsR) (s : State) (b : Block) (c : Crew), s.gang? = some (b, c) → s.cur.checked = false → s.cur.holds = [] →
    let m := s.active x.g
    let agrees := fun l => s.src (x.x.getLsbD 0) x.a l = s.src (x.x.getLsbD 0) x.b l
    ((∀ l, m.getLsbD l = true → agrees l) → exec (.chk x) s = .next s) ∧
    ∀ l, m.getLsbD l = true → ¬ agrees l → (∀ j, m.getLsbD j = true → j < l → agrees j) → s.cur.rolled = false →
      c.fences = [] → (s.core b.core).posted = [] → c.ckLanes = 0 → c.rerun = none →
      ∃ t, exec (.chk x) s = .next t ∧ t.cur = { s.cur with eset := 0, rolled := true } ∧
        t.cores = (s.count b.core b.part 0x0F 0 1).cores ∧
        let r : Rerun := ⟨2, 0, [c.bundles], false, false, 0x060, s.gts, l, s.cur.pc.toNat, s.cur.slot, s.cur.units.getD s.cur.slot 1, 0⟩
        { t with cores := s.cores, cur := s.cur } = s.modCrew s.cur.blk s.cur.crew (fun y =>
          { y with core := c.checkpoint.mapLanes (~~~ 0) (fun l th => { th with cubby := (c.thread l).cubby, spoilt := (c.thread l).spoilt }),
                   paths := [], deferred := [], bundles := 0, ord := 0, rerun := some r })

/-! ### Unit M -/

/-- R165, R169: LD.C loads and ST.C stores each lane's own bytes of its thread's cubby, and change nothing else. -/
def Obligations.CubbyAccesses : Prop :=
  ∀ (x : ArgsM) (s : State) (b : Block) (c : Crew), s.gang? = some (b, c) → x.ord = 0 →
    let m := s.active x.g
    let n := Machine.sizeOf x.sz
    let at_ := fun l => s.smallAddr x.a x.b x.sc x.off.toInt n l
    (s.clear (.ldC x) → ∃ q t f, exec (.ldC x) s = .next t ∧ Wrote c.core q m x.d ((n + 3) / 4) f none ∧
      t.Agrees (s.onCrew (fun _ => q)) ∧ (∀ a, t.byte a = s.byte a) ∧
      ∀ l a, m.getLsbD l = true → at_ l = some a → f l = szValue x.sz (ofBytesLE (Map.bytes 0 (c.thread l).cubby a n))) ∧
    (s.clear (.stC x) → ∃ (q : CrewCore) (t : State), exec (.stC x) s = .next t ∧ t.Agrees (s.onCrew (fun _ => q)) ∧
      (∀ a, t.byte a = s.byte a) ∧ { q with threads := c.core.threads } = c.core ∧
      (∀ l, Map.find? c.core.threads l = none → Map.find? q.threads l = none) ∧
      ∀ l th, Map.find? c.core.threads l = some th → ∃ u, Map.find? q.threads l = some u ∧
        { u with cubby := th.cubby, spoilt := th.spoilt } = th ∧ (m.getLsbD l = false → u = th) ∧
        ∀ a, m.getLsbD l = true → at_ l = some a → u.spoilt = spared th.spoilt a n ∧ ∀ j, Map.get 0 u.cubby j =
          if a ≤ j ∧ j < a + n then BitVec.ofNat 8 (s.storeValue x.d x.sz l / 256 ^ (j - a)) else Map.get 0 th.cubby j)

/-- R169, R162: LD.S and LD.Q load from the block's own scratchpad or through the quad window, where no own request to a
scratchpad waits in the core and no copy of it runs; nothing but D changes, and an acquire invalidates the core's L1
(11 R259). -/
def Obligations.ScratchpadLoads : Prop :=
  ∀ (x : ArgsM) (s : State) (b : Block) (c : Crew), s.gang? = some (b, c) →
    (∀ p ∈ (s.core b.core).posted, ∀ k bs, p.op ≠ .scratch k bs) → s.uncopied b.core →
    let m := s.active x.g
    let n := Machine.sizeOf x.sz
    let done := fun (i : Instr) (window : Bool) => s.clear i → ∃ q t f, exec i s = .next t ∧
      Wrote c.core q m x.d ((n + 3) / 4) f none ∧
      t.Agrees ((s.onCrew (fun _ => q)).acquireIf b m x.ord x.scope) ∧ (∀ a, t.byte a = s.byte a) ∧
      ∀ l a k size off y, m.getLsbD l = true → s.smallAddr x.a x.b x.sc x.off.toInt n l = some a →
        s.scratchTarget s.cur.blk b window a = .inr (k, size, off) → s.block? k = some y →
        f l = szValue x.sz (ofBytesLE (Map.bytes 0 y.scratch off n))
    done (.ldS x) false ∧ done (.ldQ x) true

/-- R169, R170: ST.S and ST.Q write the low bytes of D, the highest of several lanes' winning, at once where they are no
release and no pending fence covers a lane; a release by one lane is posted to the core's requests (12 R459). No copy of the
core runs, whose words a store could meet (11 R272). -/
def Obligations.ScratchpadStores : Prop :=
  ∀ (x : ArgsM) (s : State) (b : Block) (c : Crew), s.gang? = some (b, c) →
    (∀ p ∈ (s.core b.core).posted, ∀ k bs, p.op ≠ .scratch k bs) → s.uncopied b.core →
    let m := s.active x.g
    let n := Machine.sizeOf x.sz
    let done := fun (i : Instr) (window : Bool) => s.clear i →
      let place := fun l k off => m.getLsbD l = true ∧ ∃ a size, s.smallAddr x.a x.b x.sc x.off.toInt n l = some a ∧
        s.scratchTarget s.cur.blk b window a = .inr (k, size, off) ∧ (s.block? k).isSome
      let data := fun l => toBytesLE n (s.storeValue x.d x.sz l)
      (x.ord ≠ 1 → (∀ l, m.getLsbD l = true → c.fencesOf l = []) → ∃ (t : State) (ws : List (Nat × Nat × List Byte)),
        exec i s = .next t ∧ (∀ a, t.byte a = s.byte a) ∧
        t.Agrees (ws.foldl (fun (u : State) w => u.scratchWrite w.1 w.2.1 w.2.2) s) ∧
        (∀ k off bs, (k, off, bs) ∈ ws ↔ ∃ l, place l k off ∧ bs = data l) ∧
        ∀ k y, s.block? k = some y → ∃ z, t.block? k = some z ∧ ∀ j,
          (∀ l off, place l k off → off ≤ j → j < off + n → (∀ l' off', l < l' → place l' k off' → ¬ (off' ≤ j ∧ j < off' + n)) →
            Map.get 0 z.scratch j = (data l).getD (j - off) 0) ∧
          ((∀ l off, place l k off → ¬ (off ≤ j ∧ j < off + n)) → Map.get 0 z.scratch j = Map.get 0 y.scratch j)) ∧
      ∀ l k off, x.ord = 1 → onlyLane m l → place l k off → ∃ t, exec i s = .next t ∧ (∀ a, t.byte a = s.byte a) ∧
        t.Agrees (s.posts b.core [⟨s.nextId, s.agentOf l, b.vf, off, off, .scratch k (data l), true, x.scope.toNat,
          c.holdingFence l, s.gts + 64, false, off⟩])
    done (.stS x) false ∧ done (.stQ x) true

/-- R169 for LD.G and LD.L, as one lane executes it where no own request to the line waits in the core and the L1 has room:
the bytes come from the L1 of the block's partition where the load may be served there and the line is present and not behind, else
from its home; D takes them, the line of a plain miss is kept, and one whose bytes differ from those read beyond it falls behind. No
byte of memory changes but the bits that translation sets in its tables (11 R258; 13 R310; 17 R405; a line that falls behind: log
6, DEDUCED). -/
def Obligations.GlobalLoads : Prop :=
  ∀ (x : ArgsM) (s : State) (b : Block) (c : Crew) (l pa : Nat) (e : TlbEntry) (ups : List (Nat × Nat)), s.gang? = some (b, c) →
    let m := s.active x.g
    let n := Machine.sizeOf x.sz
    let va := s.wideAddr x.a x.b x.sc x.off.toInt n l
    let key := s.memKey pa
    let l1 := (s.core b.core).l1
    let at_ := l1Key b.part (key / 64)
    onlyLane m l → translate s b.tctx va 0 = .ok pa e ups →
    ((s.core b.core).l1Of b.part).length < 4096 / modeParts (s.mode b.core) →
    (∀ p ∈ (s.core b.core).posted, p.touches (pa / 64 * 64) 64 = false ∧ p.touches pa n = false) →
    let beyond := e.larder || (x.ord != 0 && decide (3 ≤ x.scope.toNat)) || c.specWide l
    let u := s.useTrans b.tctx e ups
    let home := u.num pa n
    let keep := fun y => if (Map.find? l1 at_).isSome then Map.modify l1 at_ (fun _ => y) else Map.insert l1 at_ y
    ∀ i ∈ [Instr.ldG x, Instr.ldL x], s.clear i → ∃ (q : CrewCore) (t : State) (v : Nat) (kept : Option L1Line),
      exec i s = .next t ∧ Wrote c.core q m x.d ((n + 3) / 4) (fun _ => szValue x.sz v) none ∧
      t.Agrees (((u.modCore b.core (fun k => match kept with
        | none => k
        | some y => { k with l1 := keep y })).onCrew (fun _ => q)).acquireIf b m x.ord x.scope) ∧
      (∀ a, ¬ s.tableByte b.tctx e ups a → t.byte a = s.byte a) ∧
      match Map.find? l1 at_ with
      | none => v = home ∧ kept = if beyond then none else some ⟨u.lineData pa, e.sc, false, false⟩
      | some z =>
        let own := z.data.toNat / 2 ^ (8 * (key % 64)) % 2 ^ (8 * n)
        if beyond || z.behind then v = home ∧ kept = some { z with behind := z.behind || decide (own ≠ home) }
        else v = own ∧ kept = some z

/-- R169 for ST.G and ST.L: one lane's store joins the core's requests on their way to their homes, and updates the core's
own L1 copy unless it bypasses the L1 or a pending fence holds it, where no copy of the core runs and no crew of it has read
the line under a fence; the lanes of one slot post in rising order. No byte of memory changes yet but the bits that
translation sets in its tables (11 R258; 12 R459). -/
def Obligations.GlobalStores : Prop :=
  ∀ (x : ArgsM) (s : State) (b : Block) (c : Crew), s.gang? = some (b, c) → s.uncopied b.core →
    let m := s.active x.g
    let n := Machine.sizeOf x.sz
    ∀ i ∈ [Instr.stG x, Instr.stL x],
    (∀ (l pa : Nat) (e : TlbEntry) (ups : List (Nat × Nat)),
      let va := s.wideAddr x.a x.b x.sc x.off.toInt n l
      let data := toBytesLE n (s.storeValue x.d x.sz l)
      let key := s.memKey pa
      let u := s.useTrans b.tctx e ups
      let shown := if (c.holdingFence l).isSome || e.larder then u
        else (u.modCore b.core (fun k => k.l1Store b.part key data)).keepNotice (key / 64) ⟨some (s.agentOf l), some b.port⟩
      onlyLane m l → s.clear i → translate s b.tctx va 1 = .ok pa e ups → s.unread b.core (key / 64) → ∃ t, exec i s = .next t ∧
        (∀ a, ¬ s.tableByte b.tctx e ups a → t.byte a = s.byte a) ∧
        t.Agrees (shown.posts b.core
          [⟨s.nextId, s.agentOf l, b.vf, pa, va, .store data, x.ord == 1, x.scope.toNat, c.holdingFence l, s.gts + 64, false, pa⟩])) ∧
    (s.cur.checked = true →
      let one := fun (t : State) (l : Nat) => match exec i { t with cur := { t.cur with eset := laneBit l } } with
        | .next u => u
        | _ => t
      let last := (laneList m).foldl one s
      exec i s = .next { last with cur := { last.cur with eset := s.cur.eset } })

/-- R172 to R174: one group of a local atomic, made of any lanes of one half of a crew that name one word, where no copy of the
core runs, performs its lanes in rising order and gives each the value it found; and what a group does to a word, fadd and faddbf2 rounding
their sums before the word. -/
def Obligations.LocalAtomics : Prop :=
  (∀ (x : ArgsAt) (s : State) (b : Block) (c : Crew) (k size off : Nat) (y : Block), s.gang? = some (b, c) →
    let m := s.active x.g
    let n := if x.aw then 8 else 4
    let ls := laneList m
    s.block? k = some y → (∀ p ∈ (s.core b.core).posted, ∀ j bs, p.op ≠ .scratch j bs) → s.uncopied b.core → (x.ord = 1 → (s.core b.core).posted = []) →
    (∀ l ∈ ls, ∀ l' ∈ ls, l / 32 = l' / 32) →
    let done := fun (i : Instr) (cas : Bool) (r : Nat × List Nat) => m ≠ 0 → s.clear i →
      (∀ l ∈ ls, ∃ a, s.smallAddr x.a (if cas then 240 else x.b) x.sc x.off.toInt n l = some a ∧
        s.scratchTarget s.cur.blk b (natBit a 31) a = .inr (k, size, off)) →
      let u := s.scratchWrite k off (toBytesLE n r.1)
      ∃ b' c' q t f, u.gang? = some (b', c') ∧ exec i s = .next t ∧ Wrote c'.core q m x.d (regCount x.aw) f none ∧
        (∀ j l, ls[j]? = some l → f l = r.2.getD j 0) ∧ (∀ a, t.byte a = s.byte a) ∧
        t.Agrees ((u.onCrew (fun _ => q)).acquireIf b m x.ord x.scope)
    let cur := ofBytesLE (Map.bytes 0 y.scratch off n)
    done (.atomS x) false (atomGroup x.aop.toNat (8 * n) cur (ls.map (s.src x.aw x.d))) ∧
    done (.casS x) true (casGroup cur (ls.map (fun l => (s.src x.aw x.b l, s.src x.aw x.d l))))) ∧
  (∀ aop w cur vs v, atomGroup aop w cur [] = (cur, []) ∧ casGroup cur [] = (cur, []) ∧
    (aop ≠ 11 → aop ≠ 12 → atomGroup aop w cur (vs ++ [v]) =
      (atomStep aop w (atomGroup aop w cur vs).1 v, (atomGroup aop w cur vs).2 ++ [(atomGroup aop w cur vs).1])) ∧
    (aop = 11 ∨ aop = 12 →
      let add := faddWord (aop == 12)
      let sum := fun k => (vs.take k).foldl add v
      atomGroup aop w cur (v :: vs) =
        (add cur (sum vs.length), cur :: (List.range vs.length).map (fun k => add cur (sum k))))) ∧
  ∀ cur vs a v, casGroup cur (vs ++ [(a, v)]) =
    (if (casGroup cur vs).1 = a then v else (casGroup cur vs).1, (casGroup cur vs).2 ++ [(casGroup cur vs).1])

/-- R264, R265 for ATOM.H and CAS.H, as one lane executes it where no own request to the word waits in the core, nor any
before an ordered one, and no crew of the core has read its line under a fence: the word takes the operation's value at its home, the core's own copy of the line leaves its L1, and
D takes the old value. -/
def Obligations.HomeAtomics : Prop :=
  ∀ (x : ArgsAt) (s : State) (b : Block) (c : Crew) (l pa : Nat) (e : TlbEntry) (ups : List (Nat × Nat)), s.gang? = some (b, c) →
    let m := s.active x.g
    let n := if x.aw then 8 else 4
    onlyLane m l → s.unread b.core (s.memKey pa / 64) →
    (∀ p ∈ (s.core b.core).posted, p.touches pa n = false) → (x.ord = 1 → (s.core b.core).posted = []) →
    let u := s.useTrans b.tctx e ups
    let old := u.num pa n
    let v := s.src x.aw x.d l
    let done := fun (i : Instr) (b' : BitVec 8) (new : Nat) => s.clear i →
      translate s b.tctx (s.wideAddr x.a b' x.sc x.off.toInt n l) 2 = .ok pa e ups → ∃ q t, exec i s = .next t ∧
        Wrote c.core q m x.d (regCount x.aw) (fun _ => old) none ∧
        t.Agrees (((((u.setBytes pa (toBytesLE n new)).lineWritten (s.memKey pa) ⟨some (s.agentOf l), some b.port⟩).modCore b.core
          (fun k => k.l1Drop (s.memKey pa) 1)).onCrew (fun _ => q)).acquireIf b m x.ord x.scope) ∧
        ∀ a, ¬ s.tableByte b.tctx e ups a → ¬ (s.memKey pa ≤ s.memKey a ∧ s.memKey a < s.memKey pa + n) → t.byte a = s.byte a
    done (.atomH x) x.b (atomStep x.aop.toNat (8 * n) old v) ∧
    done (.casH x) 240 (if old = s.src x.aw x.b l then v else old)

/-- R264, R267 for RED.H and LOP, as one lane executes it: its update joins the core's requests on their way to their homes, a
LOP's in one request for each page that its range reaches into, and D is not written. Where the range lies within one page no
byte of memory changes but the bits that translation sets in its tables. -/
def Obligations.PostedUpdates : Prop :=
  ∀ (x : ArgsAt) (z : ArgsR) (s : State) (b : Block) (c : Crew) (l : Nat), s.gang? = some (b, c) →
    let h := c.holdingFence l
    let posts := fun (va : Nat) (op : HomeOp) (rel : Bool) (scope : Nat) (u : State) =>
      match translate u b.tctx va 2 with
      | .ok pa e ups => (u.useTrans b.tctx e ups).posts b.core
          [⟨u.nextId, s.agentOf l, b.vf, pa, va, op, rel, scope, h, s.gts + 64, false, pa⟩]
      | _ => u
    let quietly := fun (i : Instr) (va : Nat) => ∀ pa e ups, translate s b.tctx va 2 = .ok pa e ups →
      ∀ t, exec i s = .next t → ∀ a, ¬ s.tableByte b.tctx e ups a → t.byte a = s.byte a
    (onlyLane (s.active x.g) l → s.clear (.redH x) →
      let va := s.wideAddr x.a x.b x.sc x.off.toInt (if x.aw then 8 else 4) l
      (∃ t, exec (.redH x) s = .next t ∧ t.Agrees (posts va (.group x.aop.toNat x.aw [BitVec.ofNat 64 (s.src x.aw x.d l)])
        (x.ord == 1) x.scope.toNat s)) ∧ quietly (.redH x) va) ∧
    (onlyLane (s.active z.g) l → s.clear (.lop z) →
      let va := s.src true z.a l
      let w64 := z.x.getLsbD 4
      let w := if w64 then 8 else 4
      let n := s.src false z.b l
      (∃ t, exec (.lop z) s = .next t ∧ t.Agrees ((lopPieces va (n * w)).foldl (fun u p =>
        posts (p.1 % 2 ^ 64) (.lop (natBits z.x.toNat 3 0) w64 (p.2 / w) (BitVec.ofNat 64 (s.src w64 z.c l))) (z.x.getLsbD 5)
          (natBits z.x.toNat 8 6) u) s)) ∧
      (va % 4096 + n * w ≤ 4096 → quietly (.lop z) va))

/-- R176, R178, R180: where no copy of the core runs, a lane of WAITA whose word satisfies its condition takes the word, and
one whose word does not sleeps;
TAGR reads and TAGW writes the tag of a granule; PREF changes nothing. -/
def Obligations.WaitsAndTags : Prop :=
  ∀ (x : ArgsM) (s : State) (b : Block) (c : Crew), s.gang? = some (b, c) →
    let m := s.active x.g
    (∀ p ∈ (s.core b.core).posted, ∀ k bs, p.op ≠ .scratch k bs) → s.uncopied b.core →
    let word := fun a => ofBytesLE (Map.bytes 0 b.scratch a 4)
    let flag := fun l => s.smallAddr x.a 240 0 x.off.toInt 4 l
    exec (.pref x) s = .next s ∧
    (s.clear (.waita x) → ∃ q t f, exec (.waita x) s = .next t ∧ Wrote c.core q m x.d 1 f none ∧
      t.Agrees ((s.onCrew (fun _ => q)).acquireIf b m x.ord x.scope) ∧ (∀ a, t.byte a = s.byte a) ∧
      ∀ l a, m.getLsbD l = true → flag l = some a → f l = word a) ∧
    (∀ l a, c.fences = [] → flag l = some a → a + 4 ≤ hdrScratch b.header → a % 4 = 0 →
      (∀ k ∈ b.spoilt, k < a ∨ a + 4 ≤ k) →
      let v := s.src false x.b l
      let ok := match x.sc.toNat with
        | 0 => word a = v
        | 1 => word a ≠ v
        | 2 => 0 ≤ toSigned 32 (wrapNat 32 ((word a : Int) - v))
        | _ => word a % 2 = v % 2
      (ok → verdict s b c l (.waita x) = .ok) ∧ (¬ ok → verdict s b c l (.waita x) = .sleep a)) ∧
    ∀ (l pa : Nat) (e : TlbEntry) (ups : List (Nat × Nat)), onlyLane m l →
      let va := s.wideAddr x.a x.b x.sc x.off.toInt 32 l
      let u := s.useTrans b.tctx e ups
      (s.clear (.tagr x) → translate s b.tctx (va / 32 * 32 % 2 ^ 60) 0 = .ok pa e ups → ∃ q t, exec (.tagr x) s = .next t ∧
        Wrote c.core q m x.d 1 (fun _ => if e.tg then (s.tag pa).toNat else 0) none ∧
        t.Agrees ((u.onCrew (fun _ => q)).acquireIf b m x.ord x.scope) ∧ ∀ a, ¬ s.tableByte b.tctx e ups a → t.byte a = s.byte a) ∧
      (s.clear (.tagw x) → translate s b.tctx (va % 2 ^ 60) 1 = .ok pa e ups → c.fencesOf l = [] →
        (x.ord = 1 → (s.core b.core).posted = []) → ∃ t, exec (.tagw x) s = .next t ∧
          t.Agrees (u.tagWritten pa (BitVec.ofNat 4 (s.src false x.d l)) ⟨some (s.agentOf l), some b.port⟩) ∧ ∀ a, ¬ s.tableByte b.tctx e ups a → t.byte a = s.byte a)

/-- R270, R272: CP queues one copy request for each lane, in rising order, as its descriptor gives it. -/
def Obligations.CopiesQueued : Prop :=
  ∀ (x : ArgsR) (s : State) (b : Block) (c : Crew), s.gang? = some (b, c) → s.clear (.cp x) →
    let quad := fun (k : Nat) l => s.src false (x.c + BitVec.ofNat 8 k) l
    let f := x.x.getLsbD
    let copies : List CopyReq := (laneList (s.active x.g)).map (fun l => ⟨s.agentOf l, b.linear s.cur.crew l, s.src true x.a l,
      s.src true x.b l, quad 0 l, quad 1 l, BitVec.ofNat 32 (quad 2 l), f 6, f 7, f 5, f 0, f 1, natBits x.x.toNat 4 2, false,
      s.cur.pc, 0, c.holdingFence l, none, s.gts + 64, s.cur.slot, false, 0, [], false⟩)
    ∃ t, exec (.cp x) s = .next t ∧ (∀ a, t.byte a = s.byte a) ∧
      t.Agrees (s.modCore b.core (fun k => { k with copies := k.copies ++ copies }))

/-- R167: the checks of an access in their order, each with its cause, in a crew with no fence pending. -/
def Obligations.AccessChecks : Prop :=
  ∀ (x : ArgsM) (s : State) (b : Block) (c : Crew) (l : Nat), s.gang? = some (b, c) → c.fences = [] →
    let n := Machine.sizeOf x.sz
    let va := s.wideAddr x.a x.b x.sc x.off.toInt n l
    let small := s.smallAddr x.a x.b x.sc x.off.toInt n l
    let bad := fun (i : Instr) (cause a kind : Nat) => verdict s b c l i = .fault cause a kind
    (∀ p ∈ [(Instr.ldG x, 0, false), (Instr.stG x, 1, false), (Instr.ldL x, 0, true), (Instr.stL x, 1, true)],
      (natBits va 59 57 ≠ 0 → bad p.1 0x089 va p.2.1) ∧
      (natBits va 59 57 = 0 → va % n ≠ 0 → bad p.1 0x088 va p.2.1) ∧
      (natBits va 59 57 = 0 → va % n = 0 → (c.thread l).refused = none →
        (∀ cause v i k, translate s b.tctx va p.2.1 = .fail cause v i k → recoverable cause = false → bad p.1 cause va p.2.1) ∧
        ∀ pa e ups, translate s b.tctx va p.2.1 = .ok pa e ups →
          (p.2.2 = true → e.larder = false → bad p.1 0x08B va p.2.1) ∧
          ((p.2.2 = true → e.larder = true) → s.isFrozen pa = false → s.movedPage b.core pa = false → s.heldTag b.core pa n = false →
            e.tg = true → natBits va 63 60 ≠ (s.tag pa).toNat → bad p.1 0x08A va p.2.1))) ∧
    (∀ p ∈ [(Instr.ldS x, 0), (Instr.stS x, 1)],
      (small = none → bad p.1 0x090 0 p.2) ∧
      ∀ a, small = some a → (hdrScratch b.header < a + n → bad p.1 0x090 a p.2) ∧
        (a + n ≤ hdrScratch b.header → a % n ≠ 0 → bad p.1 0x088 a p.2)) ∧
    (∀ p ∈ [(Instr.ldQ x, 0), (Instr.stQ x, 1)], ∀ a, small = some a →
      (recQuad b.record = false ∨ natBits a 30 22 ≠ 0 ∨ s.windowBlock b (natBits a 21 20) = none → bad p.1 0x092 a p.2) ∧
      (recQuad b.record = true → natBits a 30 22 = 0 → ∀ k y, s.windowBlock b (natBits a 21 20) = some (k, y) →
        (hdrScratch y.header < natBits a 19 0 + n → bad p.1 0x090 a p.2) ∧
        (natBits a 19 0 + n ≤ hdrScratch y.header → a % n ≠ 0 → bad p.1 0x088 a p.2))) ∧
    ∀ p ∈ [(Instr.ldC x, 0), (Instr.stC x, 1)],
      (small = none → bad p.1 0x091 0 p.2) ∧
      ∀ a, small = some a → (hdrCubby b.header < a + n → bad p.1 0x091 a p.2) ∧
        (a + n ≤ hdrCubby b.header → a % n ≠ 0 → bad p.1 0x088 a p.2)

/-- R43, R378 for a lane that fails a check as the only one to execute: it commits nothing of the slot, and at the end of
the bundle one record names the lowest-numbered faulting lane and the block is killed, once. -/
def Obligations.FaultingLane : Prop :=
  (∀ (i : Instr) (s : State) (b : Block) (c : Crew) (l cause a k : Nat), s.gang? = some (b, c) →
    s.cur.checked = false → s.cur.replay = false → s.cur.holds = [] → onlyLane (s.active i.guard) l → verdict s b c l i = .fault cause a k →
    s.settle i = s.raiseLane l cause a k ∧
    (∀ x, i ∈ [.ldG x, .stG x, .ldL x, .stL x, .ldS x, .stS x, .ldQ x, .stQ x, .ldC x, .stC x, .tagr x, .tagw x] →
      exec i s = .next (s.raiseLane l cause a k)) ∧
    ∀ j, (s.raiseLane l cause a k).cur.eset.getLsbD j = (s.cur.eset.getLsbD j && j != l)) ∧
  ∀ (s : State) (b : Block) (c : Crew) (f : LaneFault), s.crew? s.cur.blk s.cur.crew = some (b, c) → f ∈ s.cur.faults →
    (∀ g ∈ s.cur.faults, f.lane ≤ g.lane) → (∀ g ∈ s.cur.faults, g.lane = f.lane → g = f) →
    let r := threadRecord s b s.cur.crew c f.lane s.cur.pc.toNat f.cause f.addr f.kind (2 ^ f.slot) (s.cur.units.getD f.slot 0)
    let t := { s with cur := { s.cur with faults := [] } }
    (b.ended = true → s.takeTrap = t) ∧
    (b.ended = false → b.killed = true → s.takeTrap = t.pushRec ⟨0, b.vf, s.gts, r.src, r.bits, none⟩) ∧
    (b.ended = false → b.killed = false → s.takeTrap = (t.pushRec ⟨0, b.vf, s.gts, r.src, r.bits, none⟩).modBlock s.cur.blk
      (fun y => { y with killed := true, killCause := f.cause, killLid := r.launch, killAddr := f.addr }))

/-! ### Unit C -/

/-- R88, R89: BRA, CALL, BRX, CALLX and RET move the lanes where the guard holds to the target that each finds, modulo 2^57,
and a call writes the address of the next bundle to its link pair; an indirect target that is misaligned or no safe point
faults at the branch (15 R359). -/
def Obligations.ControlTransfers : Prop :=
  ∀ (x : ArgsJ) (z : ArgsR) (s : State) (b : Block) (c : Crew), s.gang? = some (b, c) →
    let go := fun (i : Instr) (m : Lanes) (link : Option (BitVec 8)) (target : Nat → DWord) => ∃ t, exec i s = .next t ∧
      (∀ a, t.byte a = s.byte a) ∧ t.Agrees (s.onCrew (fun p =>
        (match link with | some d => p.writeReg m d 2 (fun _ => s.cur.npc.toNat) | none => p).mapLanes m
          (fun l th => { th with pc := target l })))
    let near := fun (_ : Nat) => BitVec.ofNat 64 (wrapNat 57 ((s.cur.pc.toNat : Int) + 8 * x.off.toInt))
    let target := fun l => s.src true z.a l
    let far := fun l => BitVec.ofNat 64 (target l % 2 ^ 57)
    go (.bra x) (s.active x.g) none near ∧ go (.call x) (s.active x.g) (some x.d) near ∧
    (s.clear (.brx z) → go (.brx z) (s.active z.g) none far) ∧
    (s.clear (.callx z) → go (.callx z) (s.active z.g) (some z.d) far) ∧
    (s.clear (.ret z) → go (.ret z) (s.active z.g) none far) ∧
    (c.fences = [] → ∀ i ∈ [Instr.brx z, .callx z, .ret z], ∀ l, verdict s b c l i =
      if target l % 8 ≠ 0 ∨ natBits (target l) 59 57 ≠ 0 then .fault 0x00A (target l) 15
      else if s.safeTarget b (target l % 2 ^ 57) then .ok else .fault 0x1D6 (target l) 15)

/-- R90, R95: EXIT ends the threads of the lanes where the guard holds; YIELD and NSLEEP take them out of issue, NSLEEP each
for its own time of at most 2^20 - 1 ns, and 0 as YIELD. Nothing else changes. -/
def Obligations.ThreadsLeaveIssue : Prop :=
  ∀ (x : ArgsR) (s : State) (b : Block) (c : Crew), s.gang? = some (b, c) →
    let sets := fun (i : Instr) (f : Nat → Thread → Thread) =>
      exec i s = .next (s.onCrew (fun p => p.mapLanes (s.active x.g) f)) ∧ ∀ a l t, (s.onCrew (fun p => p.mapLanes (s.active x.g) f)).byte a = s.byte a ∧
        { f l t with st := t.st, age := t.age } = t
    let yields := fun (t : Thread) => { t with st := .yielded 2, age := 0 }
    (s.clear (.exit x) → sets (.exit x) (fun _ t => { t with st := .exited })) ∧
    sets (.yield x) (fun _ t => yields t) ∧
    sets (.nsleep x) (fun l t => if s.src false x.a l = 0 then yields t
      else { t with st := .sleep (s.gts + min (s.src false x.a l) (2 ^ 20 - 1)) })

/-- R87, R85: JOIN, LEAVE, MSET, MOP and MWR change the bits of one mask that they name, MRD reads a mask of the lane's own
logical crew, and WAITM makes members wait and arrive; m0 reads as the live mask. -/
def Obligations.ConvergenceMasks : Prop :=
  ∀ (x : ArgsR) (s : State) (b : Block) (c : Crew), s.gang? = some (b, c) →
    let m := s.active x.g
    let w := b.width
    let bit := fun (p : CrewCore) k l => (Map.get 0 p.masks k).getLsbD l
    let sets := fun (i : Instr) (f : Nat → Bool) => ∃ q, exec i s = .next (s.onCrew (fun _ => q)) ∧
      { q with masks := c.core.masks } = c.core ∧
      ∀ k l, l < 64 → bit q k l = if k = x.d.toNat then f l else bit c.core k l
    let old := bit c.core x.d.toNat
    let within := fun l => s.setOf x.g true w l
    let a := s.pre.mask x.a.toNat
    let a2 := s.pre.mask x.b.toNat
    sets (.join x) (fun l => m.getLsbD l || old l) ∧
    sets (.leave x) (fun l => !m.getLsbD l && old l) ∧
    sets (.mwr x) (fun l => if m.getLsbD l then (s.src false x.a l).testBit 0 else old l) ∧
    sets (.mset x) (fun l => match lowLane (within l) with
      | some j => (s.src (w == 64) x.a j).testBit (l % w)
      | none => old l) ∧
    sets (.mop x) (fun l => if within l = 0 then old l else
      match natBits x.x.toNat 2 0 with
      | 0 => a.getLsbD l && a2.getLsbD l
      | 1 => a.getLsbD l || a2.getLsbD l
      | 2 => a.getLsbD l != a2.getLsbD l
      | 3 => a.getLsbD l && !a2.getLsbD l
      | 4 => a.getLsbD l
      | _ => !a.getLsbD l) ∧
    (∃ f, WritesOnly s (exec (.mrd x) s) c.core m x.d (regCount (w == 64)) f none ∧
      ∀ l j, (f l).testBit j = (decide (j < w) && a.getLsbD (w * (l / w) + j))) ∧
    (s.clear (.waitm x) → let members := m &&& a &&& s.pre.live
      ∃ q, exec (.waitm x) s = .next (s.onCrew (fun _ => q)) ∧ { q with threads := c.core.threads, arrived := c.core.arrived } = c.core ∧
        q.threads = (c.core.mapLanes members (fun _ t => { t with st := .maskWait x.a.toNat, since := s.gts })).threads ∧
        ∀ k, Map.get 0 q.arrived k = if k = x.a.toNat then Map.get 0 c.core.arrived k ||| members else Map.get 0 c.core.arrived k) ∧
    ∀ (p : CrewCore) l, l < 64 → ((p.mask 0).getLsbD l = true ↔ ∃ t, Map.find? p.threads l = some t ∧ t.st ≠ .exited)

/-- R91, R92: BAR adds each lane's thread to its barrier's arrival set, or to its early set where it has arrived already,
and without .arrive it waits; SBAR notes each thread at its scope once every earlier access of the core is performed; and a
barrier whose every expected thread has arrived completes its phase. -/
def Obligations.Barriers : Prop :=
  (∀ (x : ArgsR) (s : State) (b : Block) (c : Crew), s.gang? = some (b, c) →
    let m := s.active x.g
    let n := natBits x.x.toNat 3 0
    let sc := natBits x.x.toNat 2 0
    let r := (Map.find? b.bars n).getD {}
    let at_ := fun (i : Nat) => ∃ l, m.getLsbD l = true ∧ b.linear s.cur.crew l = i
    let waits := fun (t : State) (go : Bool) (st : TStatus) =>
      if go then t else t.onCrew (fun p => p.mapLanes m (fun _ th => { th with st := st, since := s.gts }))
    (s.clear (.bar x) → ∃ r', exec (.bar x) s =
        .next (waits (s.modBlock s.cur.blk (fun y => { y with bars := Map.insert y.bars n r' })) (x.x.getLsbD 4) (.barWait n)) ∧
      r'.phase = r.phase ∧ ∀ i, i < 1024 → (r'.arr.getLsbD i = true ↔ r.arr.getLsbD i = true ∨ at_ i) ∧
        (r'.early.getLsbD i = true ↔ r.early.getLsbD i = true ∨ (at_ i ∧ r.arr.getLsbD i = true))) ∧
    (s.clear (.sbar x) → m ≠ 0 → ∃ f : BitVec 1024 → BitVec 1024, exec (.sbar x) s =
        .next (waits ((s.drain b.core (fun _ => true)).modBlock s.cur.blk (fun y =>
          { y with sarr := Map.insert y.sarr sc (f ((Map.find? y.sarr sc).getD 0)) })) (x.x.getLsbD 3) (.sbarWait sc)) ∧
      ∀ r i, i < 1024 → ((f r).getLsbD i = true ↔ r.getLsbD i = true ∨ at_ i))) ∧
  ∀ (b : Block) (n : Nat) (r : Barrier), Map.find? b.bars n = some r →
    let whole := b.expected ≠ 0 ∧ ∀ i, b.expected.getLsbD i = true → r.arr.getLsbD i = true
    (¬ whole → b.testBar n = b) ∧
    (whole → Map.find? (b.testBar n).bars n = some ⟨!r.phase, r.early, 0⟩ ∧
      (∀ k, k ≠ n → Map.find? (b.testBar n).bars k = Map.find? b.bars k) ∧
      { b.testBar n with bars := b.bars, crews := b.crews } = b ∧
      (b.testBar n).crews = Map.mapVals (fun k w => w.mapThreads (fun l t =>
        if t.st = .barWait n ∧ (t.stalled = true ∨ r.early.getLsbD (b.linear k l) = false) then
          { t with st := .run, stalled := false, since := 0 } else t)) b.crews)

/-- R292, R293: an acquiring FENCE drops the lines of its core's L1 that are not system-coherent, at .quad and wider, and
acquires the copies whose completion words its lanes have read; a releasing one is pending while a request of its core is
unperformed or an earlier fence pends, with the crew as it stands kept to roll back to. -/
def Obligations.Fences : Prop :=
  ∀ (x : ArgsR) (s : State) (b : Block) (c : Crew), s.gang? = some (b, c) → s.clear (.fence x) →
    let m := s.active x.g
    let kind := natBits x.x.toNat 1 0
    let scope := natBits x.x.toNat 4 2
    let own := fun (a : Agent) => a.blk == s.cur.blk && a.crew == s.cur.crew && m.getLsbD a.lane
    let u := if kind = 1 then s else (s.l1Acquire b.core scope).fenceFlags b.core own
    let ready := kind = 0 ∨ ((s.core b.core).posted = [] ∧ c.fences = [])
    (m = 0 → exec (.fence x) s = .next s) ∧
    (m ≠ 0 → ready → exec (.fence x) s = .next u) ∧
    (m ≠ 0 → ¬ ready →
      let held : PFence := ⟨s.nextId, m, kind, scope, s.nextId, c.core, [], c.log.length, c.bundles, c.ord, []⟩
      let v : State := { u with nextId := s.nextId + 1 }
      exec (.fence x) s = .next (v.modCrew s.cur.blk s.cur.crew (fun y => { y with fences := y.fences ++ [held] }))) ∧
    (∀ a, u.byte a = s.byte a) ∧ { u with cores := s.cores } = s ∧
    ∀ k, { u.core k with l1 := (s.core k).l1, ended := (s.core k).ended } = s.core k ∧
      (∀ y, y ∈ (u.core k).ended ↔ y ∈ (s.core k).ended ∧ ¬ (kind ≠ 1 ∧ k = b.core ∧ y.seen = true ∧ own y.agent = true)) ∧ ∀ j,
      let before := Map.find? (s.core k).l1 j
      let after := Map.find? (u.core k).l1 j
      if kind ≠ 1 ∧ 3 ≤ scope ∧ k = b.core then (∀ y, after = some y → y.sc = true) ∧ (∀ y, before = some y → y.sc = true → after = before)
      else after = before

/-- R184, R185, R359, R209: HATCH sets the gate PC and makes its threads wait in the gate, SAFEPT has the crew take a
checkpoint, SHELF declares a loop body; a HATCH at another PC than the gate's faults with 0x102. -/
def Obligations.GatesAndSafePoints : Prop :=
  ∀ (x : ArgsR) (s : State) (b : Block) (c : Crew), s.gang? = some (b, c) →
    let m := s.active x.g
    (m = 0 → (s.clear (.hatch x) → exec (.hatch x) s = .next s) ∧ (s.clear (.safept x) → exec (.safept x) s = .next s) ∧
      exec (.shelf x) s = .next s) ∧
    (m ≠ 0 → s.clear (.hatch x) → exec (.hatch x) s = .next ((s.modBlock s.cur.blk (fun y => { y with
      gatePc := some (y.gatePc.getD s.cur.pc), gateMap := natBits x.x.toNat 5 0, gateLen := max 1 s.cur.units.length, gateSlot := s.cur.slot
      })).onCrew (fun p => p.mapLanes m (fun _ t => { t with st := .gate, since := s.gts })))) ∧
    (∀ l, c.fences = [] → verdict s b c l (.hatch x) = if b.gatePc = none ∨ b.gatePc = some s.cur.pc then .ok else .fault 0x102 0 15) ∧
    (m ≠ 0 → s.clear (.safept x) → ∃ w : Crew, exec (.safept x) s = .next (s.modCrew s.cur.blk s.cur.crew (fun _ => w)) ∧
      w.core = c.core ∧ w.checkpoint = c.core ∧ w.log = [] ∧ w.bundles = 0 ∧ w.ord = 0 ∧ w.ckPc = s.cur.pc.toNat ∧
      w.ckLanes = (if c.bundles = 0 ∧ c.ckPc = s.cur.pc.toNat then c.ckLanes ||| m else m) ∧
      w.rerun = c.rerun.map (fun r => { r with reached := true }) ∧
      { w with checkpoint := c.checkpoint, log := c.log, bundles := c.bundles, ord := c.ord, ckPc := c.ckPc, ckLanes := c.ckLanes, rerun := c.rerun } = c) ∧
    (m ≠ 0 → ∃ held, exec (.shelf x) s = .next ((s.modCrew s.cur.blk s.cur.crew
        (fun y => { y with shelf := some (s.cur.npc.toNat, 8 * (x.x.toNat + 1)) })).modCore b.core (fun k => { k with shelf := held })) ∧
      (held = (s.core b.core).shelf ∨ held.head? = some ⟨c.column, b.vf, s.cur.npc.toNat, x.x.toNat + 1⟩ ∧
        (∀ y ∈ held.tail, y ∈ (s.core b.core).shelf) ∧
        (c.column < 4 → (held.filter (fun y => y.column = c.column)).length ≤ 8) ∧
        ((held.filter (fun y => y.column = c.column)).map (fun y => y.slots)).sum ≤ 512))

/-- R340, R341 for LAUNCH, as one lane executes it with no request of its core unperformed: the 128-byte record is read and
written to the entry at the queue's tail, and the queue's next launch is accepted. -/
def Obligations.LaunchAccepts : Prop :=
  ∀ (x : ArgsR) (s : State) (b : Block) (c : Crew) (l pa ea : Nat) (e e2 : TlbEntry) (ups ups2 : List (Nat × Nat)),
    s.gang? = some (b, c) → onlyLane (s.active x.g) l → s.clear (.launch x) → (s.core b.core).posted = [] →
    let q := natBits x.x.toNat 7 0
    let k := s.queue q
    let cfg := (s.reg .qcfg q).toNat
    translate s b.tctx (s.src true x.a l) 0 = .ok pa e ups →
    translate s (ipaCtx b.vf) (s.ringAddr q k.tail) 1 = .ok ea e2 ups2 →
    let u := (s.useTrans b.tctx e ups).useTrans (ipaCtx b.vf) e2 ups2
    ∃ t snap, exec (.launch x) s = .next t ∧
      t.mem = Map.setBytes 0 (Map.setBytes 0 u.mem (s.memKey ea) (toBytesLE 64 (u.num pa 64))) (s.memKey (ea + 64))
        (toBytesLE 64 (u.num (pa + 64) 64)) ∧
      (∀ h, Map.find? t.launches h = if h = s.nextId then
          some { queue := q, seq := k.accepted, ring := k.tail, vf := natBits cfg 57 52, snapshot := snap }
        else Map.find? s.launches h) ∧
      (∀ n, t.queue n = if n = q then { k with tail := (k.tail + 1) % ringSize cfg, accepted := (k.accepted + 1) % 2 ^ 56 } else s.queue n) ∧
      t.nextId = s.nextId + 1 ∧ t.tags = s.tags ∧ t.gts = s.gts

/-- R382, R383: TRAP.c writes one record for each lane and the threads go on; TRAP without .c faults its lanes with
0x1E0 + N; BKPT writes a record for each lane and stops the crew where a debugger is attached, and has no effect else. -/
def Obligations.TrapsAndBreakpoints : Prop :=
  ∀ (x : ArgsR) (s : State) (b : Block) (c : Crew), s.gang? = some (b, c) →
    let m := s.active x.g
    let n := natBits x.x.toNat 4 0
    let addr := fun l => if x.x.getLsbD 6 then s.src (x.x.getLsbD 7) x.a l else 0
    let records := fun (cause : Nat) (addr : Nat → Nat) => (laneList m).foldl (fun (t : State) l =>
      let r := threadRecord s b s.cur.crew c l s.cur.pc.toNat cause (addr l) 15 (2 ^ s.cur.slot) 3
      t.pushRec ⟨0, b.vf, s.gts, r.src, r.bits, none⟩) s
    (x.x.getLsbD 5 = true → s.clear (.trap x) → exec (.trap x) s = .next (records (0x1E0 + n) addr)) ∧
    (x.x.getLsbD 5 = false → c.fences = [] → ∀ l, verdict s b c l (.trap x) = .fault (0x1E0 + n) (addr l) 15) ∧
    (s.clear (.bkpt x) →
      let attached := b.lid ≠ 0 ∧ (s.reg .dbgatt b.vf = b.lid ∨ s.reg .dbgatt b.vf = BitVec.ofNat 64 (s.launchFor b s.cur.pc.toNat))
      (m ≠ 0 → attached → exec (.bkpt x) s = .next ((records 0x182 (fun _ => natBits x.x.toNat 7 0)).modCrew s.cur.blk s.cur.crew
        (fun w => { w with stop := { w.stop with stopped := true } }))) ∧
      (m = 0 ∨ ¬ attached → exec (.bkpt x) s = .next s)) ∧
    ∀ a, (records (0x1E0 + n) addr).byte a = s.byte a

/-- R417, R415, R418: GTS reads the timestamp and CNT a counter of the partition or its identity into a pair; EVT counts one
USER_EVT for each lane and writes one trace record for the gang where the kind is enabled. -/
def Obligations.TimeCountersEvents : Prop :=
  ∀ (x : ArgsR) (s : State) (b : Block) (c : Crew), s.gang? = some (b, c) → s.cur.replay = false →
    let m := s.active x.g
    let reads := fun (i : Instr) (v : Nat) => ∃ q t, exec i s = .next t ∧ Wrote c.core q m x.d 2 (fun _ => v) none ∧
      t.Agrees (s.onCrew (fun _ => q)) ∧ ∀ a, t.byte a = s.byte a
    let n := natBits x.x.toNat 4 0
    let mode := natBits (s.core b.core).partcfg.toNat 1 0
    let share := if mode = 0 then 16 else if mode = 1 then 8 else 4
    let id := natBits x.x.toNat 7 0
    reads (.gts x) s.gts ∧
    reads (.cnt x) (if n < share then (Map.get 0 (s.core b.core).ctr (16 * b.part + n)).toNat else if n ≤ 15 then 0
      else mode + 4 * b.part + 16 * share) ∧
    (s.clear (.evt x) → m = 0 → exec (.evt x) s = .next s) ∧
    ∀ l, s.clear (.evt x) → lowLane m = some l →
      let r : Rec := ⟨2, b.vf, s.gts, srcOf b.core c l, traceBits s.gts (s.launchFor b s.cur.pc.toNat) b.index (b.linear s.cur.crew l) 0
        (srcOf b.core c l) (s.pcFor b s.cur.pc.toNat)
        (field (s.src false x.a l) 0 32 + field id 32 8 + field (m.toNat / 2 ^ (32 * (l / 32))) 40 32) false b.spliced, none⟩
      exec (.evt x) s = .next ((if natBit (s.reg .trccfg b.vf).toNat 0 then s.pushRec r else s).count b.core b.part 0x10 id (laneList m).length)

/-! ### The Loft -/

/-- R197 with R196's flags: QADD, QSUB, QMUL, QLI, QSHL, QAND, QCMP and QMOV complete with 64-bit results where their guard
holds, and change nothing where it fails. -/
def Obligations.LoftArithmetic : Prop :=
  ∀ (x : ArgsR) (y : ArgsI) (s : State) (b : Block) (p : LoftCtx), s.loft? = some (b, p) →
    let A := (s.qsrc x.a).toNat
    let B := (s.qsrc x.b).toNat
    let dif := wrapNat 64 ((A : Int) - B)
    let lf := fun (v : Nat) (c o : Bool) => if x.cw then some (x.ci.toNat, flagsFrom 64 v c o) else none
    let done := fun (i : Instr) (v : Nat) (c o : Bool) => QCompletes s i p.regs x.d.toNat v (lf v c o)
    let sub := outSigned 64 (toSigned 64 A - toSigned 64 B)
    (s.loftActs x.g = true →
      done (.qadd x) ((A + B) % 2 ^ 64) (decide (2 ^ 64 ≤ A + B)) (outSigned 64 (toSigned 64 A + toSigned 64 B)) ∧
      done (.qsub x) dif (decide (B ≤ A)) sub ∧
      done (.qmul x) (A * B % 2 ^ 64) (decide (2 ^ 64 ≤ A * B)) (decide (2 ^ 64 ≤ A * B)) ∧
      done (.qshl x) (if !x.x.getLsbD 0 then (if 64 ≤ B then 0 else A * 2 ^ B % 2 ^ 64)
        else if !x.x.getLsbD 1 then (if 64 ≤ B then 0 else A / 2 ^ B)
        else if 64 ≤ B then (if 2 ^ 63 ≤ A then 2 ^ 64 - 1 else 0) else wrapNat 64 (toSigned 64 A / (2 ^ B : Nat))) false false ∧
      done (.qand x) (A &&& B) false false ∧
      done (.qmov x) (if x.x.getLsbD 0 then A % 2 ^ 32 + (s.qsrc (x.a + 1)).toNat % 2 ^ 32 * 2 ^ 32 else A) false false ∧
      QCompletes s (.qcmp x) p.regs 240 0 (lf dif (decide (B ≤ A)) sub)) ∧
    (s.loftActs y.g = true → QCompletes s (.qli y) p.regs y.d.toNat (y.imm.signExtend 64).toNat none) ∧
    (s.loftActs x.g = false → ∀ i ∈ [Instr.qadd x, .qsub x, .qmul x, .qshl x, .qand x, .qmov x, .qcmp x], exec i s = .next s) ∧
    (s.loftActs y.g = false → exec (.qli y) s = .next s)

/-- R198, R199, R200, R191: QBRA and QLOOP set the Loft PC, QLOOP counting down, its body going into the Loft's Shelf (15
R363); QWAIT and QSIG, with no own request to a scratchpad waiting in the core and no copy of it running, go on and store a word; UNHATCH and TFENCE have the context wait; QSAFE takes a checkpoint. -/
def Obligations.LoftControl : Prop :=
  ∀ (x : ArgsR) (y : ArgsJ) (s : State) (b : Block) (p : LoftCtx), s.loft? = some (b, p) →
    let near := BitVec.ofNat 64 (wrapNat 57 ((s.cur.pc.toNat : Int) + 8 * y.off.toInt))
    let lc := (s.qsrc y.d).toNat
    let waits := fun (t : State) (w : LoftWait) => t.modLoft s.cur.blk (fun c => { c with wait := w })
    (s.loftActs y.g = false → exec (.qbra y) s = .next s ∧ exec (.qloop y) s = .next s) ∧
    (s.loftActs x.g = false → ∀ i ∈ [Instr.qwait x, .qsig x, .unhatch x, .qsafe x, .tfence x], exec i s = .next s) ∧
    (s.loftActs y.g = true →
      exec (.qbra y) s = .next (s.onLoft (fun r => { r with pc := near })) ∧
      (lc ≠ 0 → ∃ q, exec (.qloop y) s = .next (if near.toNat < s.cur.npc.toNat then
          (s.onLoft (fun _ => q)).holdBody b.core ⟨4, b.vf, near.toNat, (s.cur.npc.toNat - near.toNat) / 8⟩ else s.onLoft (fun _ => q)) ∧
        QWrote { p.regs with pc := near } q y.d.toNat (BitVec.ofNat 64 (lc - 1)) none) ∧
      (lc = 0 → s.cur.replay = false →
        exec (.qloop y) s = .next (s.bankSnapshot b.core b.part 1 (fun t k v => t.traceLoft b p k v)))) ∧
    (s.loftActs x.g = true →
      exec (.unhatch x) s = .next (waits s .unhatch) ∧
      (∃ (e t : Nat), exec (.tfence x) s = .next (waits s (.tfence e s.cur.pc.toNat t)) ∧
        (∀ k, natBit e k = (decide (k < 3) && (natBit x.x.toNat k || natBits x.x.toNat 2 0 == 0))) ∧
        (∀ k, k < 3 → natBit e k = true → p.busyUntil (k + 1) ≤ t ∧ ∀ f ∈ p.flights, f.engine = k + 1 → f.ready ≤ t) ∧
        (t = 0 ∨ ∃ k, k < 3 ∧ natBit e k = true ∧ (t = p.busyUntil (k + 1) ∨ ∃ f ∈ p.flights, f.engine = k + 1 ∧ t = f.ready))) ∧
      (∃ w : LoftCtx, exec (.qsafe x) s = .next (s.modLoft s.cur.blk (fun _ => w)) ∧ w.checkpoint = p.regs ∧ w.ckTiles = b.tiles ∧
        w.ckPc = s.cur.pc.toNat ∧ w.log = [] ∧ w.bundles = 0 ∧ w.regs = p.regs ∧ w.flights = p.flights ∧ w.wait = p.wait) ∧
      ((∀ r ∈ (s.core b.core).posted, ∀ k bs, r.op ≠ .scratch k bs) → s.uncopied b.core →
        (s.loftClear (.qwait x) → ∃ t, exec (.qwait x) s = .next t ∧ (∀ a, t.byte a = s.byte a) ∧
          t.Agrees (if x.x.getLsbD 2 then s.l1Acquire b.core (natBits x.x.toNat 5 3) else s)) ∧
        (s.loftClear (.qsig x) →
          let a := (s.qsrc x.a).toNat
          let u := if x.x.getLsbD 2 then s.drain b.core (fun _ => true) else s
          ∀ k size off z, s.scratchTarget s.cur.blk b (natBit a 31) a = .inr (k, size, off) → s.block? k = some z →
            ∃ t, exec (.qsig x) s = .next t ∧ (∀ a, t.byte a = u.byte a) ∧
              t.Agrees (u.scratchWrite k off (toBytesLE 4 ((s.qsrc x.b).toNat % 2 ^ 32)))))) ∧
    (s.loftScratch b (s.qsrc x.a).toNat 4 4 false = .ok →
      (∀ j ∈ b.spoilt, j < (s.qsrc x.a).toNat ∨ (s.qsrc x.a).toNat + 4 ≤ j) →
      loftVerdict s b p (.qwait x) = if flagHolds (natBits x.x.toNat 1 0) (ofBytesLE (Map.bytes 0 b.scratch (s.qsrc x.a).toNat 4))
        ((s.qsrc x.b).toNat % 2 ^ 32) then .ok else .sleep (s.qsrc x.a).toNat)

/-- R203 to R206: what the X instructions read as they issue, and what lands in a tile, a latch or memory, where no copy of
the core runs whose words a store could meet. TLD and TST take their pieces of memory in turn, rows first; one piece is bytes of a scratchpad, or within a line of global memory comes
from the core's L1 where the line is present and not behind, else from its home (11 R258, R262; log 6, DEDUCED). -/
def Obligations.TileMoves : Prop :=
  ∀ (x : ArgsT) (s : State) (b : Block) (p : LoftCtx), s.loft? = some (b, p) →
    let sp := x.c.getLsbD 3
    let tr := natBits x.c.toNat 1 0
    let base := (s.qsrc x.a).toNat
    let lands := fun (t : State) (w : List EngWrite) => t.fly 1 x.beats w none
    let quiet := (∀ r ∈ (s.core b.core).posted, ∀ k bs, r.op ≠ .scratch k bs) ∧ s.uncopied b.core
    let counted := fun m => if sp then s.loftPasses 4 (movePieces x base m) else s
    (s.loftActs x.g = false → ∀ i ∈ [Instr.tld x, .tst x, .tcp x, .txp x, .tgat x, .tfill x, .tzero x], exec i s = .next s) ∧
    (s.loftActs x.g = true → s.loftClear (.tzero x) → exec (.tzero x) s = .next (lands s [.tile x.d.toNat Tile.zero])) ∧
    (s.loftActs x.g = true → s.loftClear (.txp x) → ∃ t : Tile, exec (.txp x) s = .next (lands s [.tile x.d.toNat t]) ∧ t.side = 0 ∧
      let w := 32 / 2 ^ natBits x.c.toNat 1 0
      (w ∈ [32, 16, 8] → ∀ i k j, i < 32 → j < 32 → k < 32 / w → t.elem w i (32 * k + j) = (s.tileSrc x.a).elem w j (32 * k + i))) ∧
    (s.loftActs x.g = true → s.loftClear (.tld x) → ∀ m, moveDesc s x = some m → ∃ (t : Tile) (vs : List Nat) (u : State),
      (counted m).movePiecesIn sp (movePieces x base m) = (vs, u) ∧ exec (.tld x) s = .next (lands u [.tile x.d.toNat t]) ∧
      let row := fun i => vs.getD i 0
      t.side.toNat = (if x.c.getLsbD 2 then vs.getD (moveRows tr m.rows).1 0 % 2 ^ 4096 else 0) ∧ ∀ i, i < 32 →
        (tr = 0 → t.row i = if m.rows < i then 0 else row i % 2 ^ 1024) ∧
        (tr = 1 → ∀ j, j < 128 → t.elem 8 i j = row j / 2 ^ (8 * i) % 2 ^ 8) ∧
        (tr = 2 → ∀ j, j < 64 → t.elem 16 i j = row j / 2 ^ (16 * i) % 2 ^ 16)) ∧
    (s.loftActs x.g = true → s.loftClear (.tst x) → ∀ m, moveDesc s x = some m →
      let t := s.tileSrc x.d
      let vals := (List.range (m.rows + 1)).map t.row ++ [t.side.toNat]
      exec (.tst x) s = .next (lands (((movePieces x base m).zip vals).foldl (fun (u : State) e => u.storePiece sp e.1 e.2) (counted m)) [])) ∧
    (s.loftActs x.g = true → s.loftClear (.tcp x) →
      let lo := (s.qsrc x.c).toNat
      let hi := (s.qsrc (x.c + 1)).toNat
      let q : CopyReq := ⟨⟨s.cur.blk, 64, 0⟩, p.frame.thread, base, (s.qsrc x.b).toNat, natBits lo 31 0, natBits lo 51 32,
        BitVec.ofNat 32 (natBits hi 31 0), natBit lo 58, natBit lo 59, natBit lo 52, natBit lo 56, natBit lo 57, natBits lo 55 53,
        false, p.frame.pc, s.cur.pc, none, none, s.gts + 64, s.cur.slot, false, 0, [], false⟩
      ∃ t, exec (.tcp x) s = .next t ∧ (∀ a, t.byte a = s.byte a) ∧
        t.Agrees (lands (s.modCore b.core (fun k => { k with copies := k.copies ++ [q] })) [])) ∧
    (quiet → s.loftActs x.g = true → ∀ rows stride idx, gatherDesc (s.qsrc x.b).toNat = some (rows, stride, idx) →
      let n := fun i => ofBytesLE (Map.bytes 0 b.scratch (idx + 2 * i) 2)
      let gathered := fun (t : Tile) => ∀ i, i < 32 → t.row i = if rows ≤ i ∨ n i = 0xFFFF then 0
        else ofBytesLE (Map.bytes 0 b.scratch (base + n i * stride) 128)
      (s.loftClear (.tgat x) → ∃ t d, exec (.tgat x) s = .next t ∧ (∀ a, t.byte a = s.byte a) ∧
        t.Agrees (lands s [.latch (x.d.toNat - 40) d]) ∧ gathered ⟨d, 0⟩) ∧
      (s.loftClear (.tfill x) → ∃ t d, exec (.tfill x) s = .next t ∧ (∀ a, t.byte a = s.byte a) ∧
        t.Agrees (lands s [.tile x.d.toNat ⟨d, 0⟩]) ∧ gathered ⟨d, 0⟩)) ∧
    (quiet → s.cur.replay = false → ∀ a n k size off z, s.scratchTarget s.cur.blk b (natBit a 31) a = .inr (k, size, off) →
      s.block? k = some z →
      (∃ t, s.movePiece true (a, n) = (ofBytesLE (Map.bytes 0 z.scratch off n), t) ∧ t.Agrees s ∧ ∀ a, t.byte a = s.byte a) ∧
      ∀ v, (s.storePiece true (a, n) v).Agrees (s.scratchWrite k off (toBytesLE n v)) ∧ ∀ a, (s.storePiece true (a, n) v).byte a = s.byte a) ∧
    (s.cur.replay = false → ∀ va n pa e ups, 0 < n → va % 64 + n ≤ 64 → va < 2 ^ 64 →
      (∀ r ∈ (s.core b.core).posted, r.touches (pa / 64 * 64) 64 = false ∧ r.touches pa n = false) →
      let key := s.memKey pa
      let l1 := (s.core b.core).l1
      (translate s b.tctx va 0 = .ok pa e ups →
        let u := s.useTrans b.tctx e ups
        ∃ v t, s.movePiece false (va, n) = (v, t) ∧ (∀ a, ¬ s.tableByte b.tctx e ups a → t.byte a = s.byte a) ∧
          (e.larder = true ∨ Map.find? l1 (l1Key b.part (key / 64)) = none → v = u.num pa n) ∧
          ∀ y, e.larder = false → Map.find? l1 (l1Key b.part (key / 64)) = some y →
            v = if y.behind then u.num pa n else y.data.toNat / 2 ^ (8 * (key % 64)) % 2 ^ (8 * n)) ∧
      (translate s b.tctx va 1 = .ok pa e ups → s.uncopied b.core → s.unread b.core (key / 64) → ∀ v,
        let u := s.useTrans b.tctx e ups
        (s.storePiece false (va, n) v).Agrees (((u.setBytes pa (toBytesLE n v)).lineWritten key
          ⟨some ⟨s.cur.blk, 64, 0⟩, some b.port⟩).modCore b.core (fun c => c.l1Store b.part key (toBytesLE n v)))))

/-- R220, R223, R228: TMMA lands four groups of exact products folded in turn into each accumulator (02 R38, R39); TGEMM
lands in each accumulator tile the tile steps of its nest in increasing depth, and the engine state of a completed nest;
TRESUME goes on from a stopped nest for its need. TGEMM's operands are those that stand in the scratchpads as it issues, where
no request of the core waits to write one and no copy of the core runs. -/
def Obligations.TensorProducts : Prop :=
  ∀ (x : ArgsT) (y : ArgsG) (z : ArgsR) (s : State) (b : Block) (p : LoftCtx), s.loft? = some (b, p) →
    (s.loftActs x.g = false → exec (.tmma x) s = .next s) ∧ (s.loftActs y.g = false → exec (.tgemm y) s = .next s) ∧
    (s.loftActs z.g = false → exec (.tresume z) s = .next s) ∧
    (s.loftActs x.g = true → s.loftClear (.tmma x) →
      let sl := slotOf (s.fslot x.fs.toNat)
      let kc := kExtent sl.ak sl.bk
      let G := kc / 4
      let A := fun i k => (s.tileSrc x.a).val sl.ak sl i (if kindBits sl.ak < kindBits sl.bk then k + kc * natBits x.c.toNat 3 1 else k)
      let B := fun j k => (s.tileSrc x.b).val sl.bk sl j (if kindBits sl.bk < kindBits sl.ak then k + kc * natBits x.c.toNat 3 1 else k)
      ∃ t : Tile, exec (.tmma x) s = .next ((s.onLoft (fun r => { r with es := Map.set 0 r.es 7 0 })).fly 2
          (natBits x.x.toNat 8 1 + 1) [.tile x.d.toNat t] none) ∧ t.side = 0 ∧
        ∀ i j, i < 32 → j < 32 → ∃ acc : Nat → Nat, acc 0 = (if x.c.getLsbD 0 then 0 else (s.tileSrc x.d).elem 32 i j) ∧
          acc 4 = t.elem 32 i j ∧ ∀ g, g < 4 →
            let ps := (List.range G).map (fun n => (A i (G * g + n)).mul (B j (G * g + n)))
            if kindInteger sl.ak && sl.sk == 0 then ∃ v : Int, (Val.sum 0 ps).eqv (Val.ofInt v) = true ∧
              acc (g + 1) = wrapNat 32 (let w := toSigned 32 (acc g) + v
                if x.x.getLsbD 0 then max (-(2 ^ 31 : Nat) : Int) (min ((2 ^ 31 : Nat) - 1) w) else w)
            else acc (g + 1) = fitArith fp32 0 0 (Val.sum 0 [fp32.decode (acc g), fp32.decode (fitArith fp32 0 0 (Val.sum 0 ps))])) ∧
    ((∀ r ∈ (s.core b.core).posted, ∀ k bs, r.op ≠ .scratch k bs) → s.uncopied b.core → s.loftActs y.g = true → s.loftClear (.tgemm y) →
      let sl := slotOf (s.fslot y.fs.toNat)
      let qa := s.qsrc y.a
      let qb := s.qsrc y.b
      let oa := gemmOp qa
      let ob := gemmOp qb
      let kt := natBits qa.toNat 63 56 + 1
      let m := modeParts (s.mode b.core)
      let rho := sliceRatio sl.ak sl.bk
      let c := oa.tiles * ob.tiles * (if kindBits sl.ak = 32 ∨ kindBits sl.bk = 32 then 16 else 4)
      let reads := fun (o : GemmOp) (narrow : Bool) k => if narrow && k % rho != 0 then 0 else o.tiles * (if o.sc then 36 else 32)
      let fetch := fun k => if k = kt then 0 else reads oa (narrowerA sl) k + reads ob (narrowerB sl) k
      let need := m * (fetch 0 + ((List.range kt).map (fun k => max c (fetch (k + 1)))).sum)
      let tile := fun (o : GemmOp) (narrow : Bool) i k => match s.gemmBlock b o with
        | some (h, _) => (match s.block? h with
          | some w =>
            let a := 128 * (o.base + i * o.xstr + (if narrow then k / rho else k) * o.kstr)
            (⟨BitVec.ofNat 32768 (ofBytesLE (Map.bytes 0 w.scratch a 4096)),
              if o.sc then BitVec.ofNat 4096 (ofBytesLE (Map.bytes 0 w.scratch (a + 4096) 512)) else 0⟩ : Tile)
          | none => Tile.zero)
        | none => Tile.zero
      let acc := fun i j => (List.range kt).foldl (fun d k => tmmaTile sl (qa.getLsbD 47 && k == 0) (qa.getLsbD 46) (k % rho)
        (tile oa (narrowerA sl) i k) (tile ob (narrowerB sl) j k) d) (s.tileSrc (BitVec.ofNat 8 (y.d.toNat + i * ob.tiles + j)))
      ∃ nest t, exec (.tgemm y) s = .next t ∧ (∀ a, t.byte a = s.byte a) ∧ t.Agrees (s.fly 2 (if y.beats.toNat = 131071 then need else y.beats.toNat)
        (((List.range (oa.tiles * ob.tiles)).map (fun i => EngWrite.tile (y.d.toNat + i) (acc (i / ob.tiles) (i % ob.tiles)))) ++
          [.es 0 qa, .es 1 qb, .es 2 (BitVec.ofNat 64 (kt * 2 ^ 16)),
           .es 3 (BitVec.ofNat 64 (y.beats.toNat * 2 ^ 32 + (if y.beats.toNat = 131071 then need else y.beats.toNat))),
           .es 4 (BitVec.ofNat 64 (y.fs.toNat * 2 ^ 13 + s.mode b.core * 2 ^ 11 + y.d.toNat)), .es 5 0, .es 6 0, .es 7 0]) (some nest))) ∧
    (s.loftActs z.g = true → s.loftClear (.tresume z) →
      let sl := s.fslot (natBits (s.es 4).toNat 15 13)
      let need := nestNeed (slotOf sl) (s.es 0) (s.es 1) s.esPos (modeParts (s.mode b.core))
      let r := s.nestOf sl (s.es 0) (s.es 1) (natBits (s.es 4).toNat 15 13) z.d.toNat (natBits (s.es 3).toNat 48 32)
        (natBits (s.es 3).toNat 31 0) s.esPos
      ∃ ws : List EngWrite, exec (.tresume z) s = .next (r.2.fly 2 need
        (ws ++ [.es 0 (s.es 0), .es 1 (s.es 1), .es 2 (BitVec.ofNat 64 ((natBits (s.es 0).toNat 63 56 + 1) * 2 ^ 16)),
          .es 3 (BitVec.ofNat 64 (natBits (s.es 3).toNat 48 32 * 2 ^ 32 + (natBits (s.es 3).toNat 31 0 + need) % 2 ^ 32)),
          .es 4 (BitVec.ofNat 64 (natBits (s.es 4).toNat 15 13 * 2 ^ 13 + s.mode b.core * 2 ^ 11 + z.d.toNat)), .es 5 (s.es 5), .es 6 0, .es 7 0])
        (some r.1)) ∧ ws = (indexed (r.1.accsAt ⟨natBits (s.es 0).toNat 63 56 + 1, 0, 0, 0, 0⟩)).map (fun a => .tile (z.d.toNat + a.1) a.2))

/-- R246, R248, R249, R252 with R242, R244, R245; of R247, R250 and R253 what is exact: the V instructions complete with a
tile that lands in D when their beats have run, its codes computed from their sources as they stood, its saturations counted. GELU, SiLU,
EXP2, TANH and the sigmoid are the model's free choice within their bounds (log 7, DESIGN CHOICE). -/
def Obligations.TileArithmetic : Prop :=
  ∀ (x : ArgsT) (s : State) (b : Block) (p : LoftCtx), s.loft? = some (b, p) →
    let sl := slotOf (s.fslot x.fs.toNat)
    let r := fun i j => s.loftRandom (256 * i + j)
    let A := (s.tileSrc x.a).val sl.ak sl
    let B := fun k => (s.tileSrc x.b).val k sl
    let old := s.tileSrc x.d
    let D := fun k => old.val k sl
    let f := if sl.ok = 0 then fp32 else if sl.ok = 1 then bf16 else fp16
    let done := fun (i : Instr) (sr : Bool) (ok : Tile → Nat → Prop) => s.loftClear i → ∃ t n, ok t n ∧
      exec i s = .next (((s.fly 3 x.beats [.tile x.d.toNat t] none).count b.core b.part 0x09 0 n).advanceLoftSrn (if sr then sl.rm else 0))
    let sums := fun (v : Nat → Nat → Val) (t : Tile) n => t.table sl.ok n (fun i j => (fitArith f sl.rm (r i j) (v i j), false))
    let narrows := fun (v : Nat → Nat → Val) (t : Tile) n => t.table sl.ok n (fun i j => narrowTo sl.ok sl.rm (r i j) (v i j))
    let pick := fun (hi : Bool) (u v : Val) => if u.isNan then v else if v.isNan then u else if (if hi then u.lt v else v.lt u) then v else u
    let most := fun (hi : Bool) (l : List Val) => l.foldl (pick hi) .nan
    let outside := fun (n : Nat) (t : Tile) => ∀ i j, i < 32 → j < kindCols sl.ok → ¬ (n * natBits x.c.toNat 2 0 ≤ j ∧ j < n * natBits x.c.toNat 2 0 + n) →
      t.elem (kindBits sl.ok) i j = old.elem (kindBits sl.ok) i j
    (s.loftActs x.g = false → ∀ i ∈ [Instr.tadd x, .tmul x, .tfma x, .tmax x, .tact x, .tscale x, .tred x, .tamax x, .tminmax x, .tqnt x,
      .tdqt x, .tcvt x, .topt x], exec i s = .next s) ∧
    (s.loftActs x.g = true →
      done (.tadd x) true (sums (fun i j => Val.sum sl.rm [A i j, if x.c.getLsbD 0 then (B sl.bk i j).neg else B sl.bk i j])) ∧
      done (.tmul x) true (sums (fun i j => (A i j).mul (B sl.bk i j))) ∧
      done (.tfma x) true (sums (fun i j => Val.sum sl.rm [(A i j).mul (B sl.bk i j), (s.tileSrc x.c).val sl.bk sl i j])) ∧
      done (.tmax x) true (narrows (fun i j => pick (!x.c.getLsbD 0) (A i j) (B sl.bk i j))) ∧
      done (.tscale x) true (sums (fun i j => (A i j).mul (match natBits x.c.toNat 1 0 with
        | 0 => B 0 0 0
        | 1 => B 0 i 0
        | _ => B 0 0 (j % 32)))) ∧
      done (.tact x) true (fun t n => ∃ h : Val → Val, sums (fun i j => h (A i j)) t n ∧ h .nan = .nan ∧
        let fn := natBits x.c.toNat 2 0
        (fn = 0 → ∀ g k d, h (.fin g k d) = (if g ∨ k = 0 then .fin false 0 1 else .fin g k d)) ∧
        (fn = 6 → ∀ g k d, h (.fin g k d) = if k = 0 then .inf g else .fin g d k) ∧
        (fn = 1 ∨ fn = 2 → h (.inf false) = .inf false ∧ h (.inf true) = .fin true 0 1) ∧
        (fn = 3 → h (.inf false) = .inf false ∧ h (.inf true) = .fin false 0 1) ∧
        (fn = 4 → h (.inf false) = .fin false 1 1 ∧ h (.inf true) = .fin true 1 1) ∧
        (fn = 5 → h (.inf false) = .fin false 1 1 ∧ h (.inf true) = .fin false 0 1)) ∧
      done (.tred x) true (fun t n =>
        let op := natBits x.c.toNat 1 0
        let cols := x.c.getLsbD 2
        let vals := fun k => (if cols then (List.range 32).map (fun i => A i k) else (List.range (kindCols sl.ak)).map (fun j => A k j))
          ++ (if x.c.getLsbD 3 then [if cols then D sl.ok 0 k else D sl.ok k 0] else [])
        let v := fun k => if op = 0 then Val.sum sl.rm (vals k) else if op = 1 then most true (vals k) else if op = 2 then most false (vals k)
          else if Val.nan ∈ vals k then .nan else ((vals k).map Val.abs).foldl (pick true) (.fin false 0 1)
        t.table sl.ok n (fun i j => if (if cols then i else j) = 0 then
          (if op = 0 then (fitArith f sl.rm (r i j) (v (if cols then j else i)), false)
            else narrowTo sl.ok sl.rm (r i j) (v (if cols then j else i))) else (0, false))) ∧
      (∀ e ∈ [(Instr.tamax x, true), (Instr.tminmax x, false)], done e.1 false (fun t n => n = 0 ∧ t.side = 0 ∧ ∀ i, i < 32 →
        let v := (List.range (kindCols sl.ak)).map (A i)
        let top := if e.2 then (v.map Val.abs).foldl (pick true) (.fin false 0 1) else most true v
        let low := if e.2 then top.neg else most false v
        let hi := if Val.nan ∈ v then .nan else top
        let lo := if Val.nan ∈ v then .nan else low
        let bad := hi.isNan || lo.isNan || (D 0 i 0).isNan || (D 0 i 1).isNan
        let acc := x.c.getLsbD 3
        t.elem 32 i 0 = fitArith fp32 0 0 (if acc then (if bad then .nan else pick true hi (D 0 i 0)) else hi) ∧
        t.elem 32 i 1 = fitArith fp32 0 0 (if acc then (if bad then .nan else pick false lo (D 0 i 1)) else lo) ∧
        ∀ j, 2 ≤ j → j < 32 → t.elem 32 i j = 0)) ∧
      done (.tdqt x) true (narrows (fun i j => A i (kindCols sl.ok * natBits x.c.toNat 2 0 + j))) ∧
      done (.tcvt x) true (fun t n => t.side = 0 ∧ (sl.ak = sl.ok → n = 0 ∧
          (sl.ok ≠ 5 → sl.ok ≠ 6 → t.data = (s.tileSrc x.a).data) ∧
          (sl.ok = 5 ∨ sl.ok = 6 → ∀ i j, i < 32 → j < 128 → t.elem 8 i j = (s.tileSrc x.a).elem 8 i j % 64)) ∧
        (sl.ak ≠ sl.ok → kindBits sl.ak ≤ kindBits sl.ok → narrows (fun i j => A i (kindCols sl.ok * natBits x.c.toNat 2 0 + j)) t n) ∧
        (kindBits sl.ok < kindBits sl.ak → outside (kindCols sl.ak) t ∧ ∀ i j, i < 32 → j < kindCols sl.ak →
          let k := kindCols sl.ak * natBits x.c.toNat 2 0 + j
          t.elem (kindBits sl.ok) i k = (narrowTo sl.ok sl.rm (r i k) (A i j)).1)) ∧
      done (.tqnt x) true (fun t _ => outside (kindCols sl.ak) t ∧ (sl.sk = 0 → sl.ok ∉ [8, 10, 12] → ∀ i j, i < 32 → j < kindCols sl.ak →
        let k := kindCols sl.ak * natBits x.c.toNat 2 0 + j
        t.elem (kindBits sl.ok) i k = (narrowTo sl.ok sl.rm (r i k) (A i j)).1)) ∧
      done (.topt x) true (fun t _ =>
        let q := s.qsrc x.c
        let n := kindCols sl.bk
        let beta := fp32.decode (natBits q.toNat 31 0)
        let g := fun i j => if q.getLsbD 32 then (B sl.bk i j).mul (B sl.bk i j) else B sl.bk i j
        ∀ i j, i < 32 → let k := n * natBits q.toNat 35 33 + j
          (j < kindCols sl.ok → ¬ (n * natBits q.toNat 35 33 ≤ j ∧ j < n * natBits q.toNat 35 33 + n) →
            t.elem (kindBits sl.ok) i j = old.elem (kindBits sl.ok) i j) ∧
          (j < n → sl.sk = 0 → sl.ok ∉ [8, 10, 12] → t.elem (kindBits sl.ok) i k = (narrowTo sl.ok sl.rm (r i k)
            (Val.sum 0 [beta.mul (A i k), (Val.sum 0 [.fin false 1 1, beta.neg]).mul (g i j)])).1)))

/-! ### Events of a core -/

/-- R293, R257, R259, R327, R459: a fence whose conditions are met completes and lets go what it held, here where its lanes have
hit no watchpoint and no crew has read what it lets go; a conflict notice rolls a crew back to the oldest fence that recorded
the line; a request that may be performed reaches its home, or returns MOVED from a frozen frame and is replayed at its page's
new home; an invalidation takes a line from an L1. -/
def Obligations.FencesAndHomes : Prop :=
  ∀ (s : State) (core n line k blk crew : Nat),
    (∀ b c (f : PFence), s.crew? blk crew = some (b, c) → c.fences[n]? = some f →
      let i := Instr.fenceComplete blk crew n
      let ready := (∀ p ∈ (s.core b.core).posted, f.after < p.id ∨ ∃ j, p.fence = some j ∧ f.id ≤ j) ∧
        ∀ g ∈ c.fences.take n, g.lanes &&& f.lanes = 0
      (¬ ready → exec i s = .next s) ∧
      (ready → f.hits = [] → (∀ p ∈ (s.core b.core).posted, s.unread b.core (s.memKey p.now / 64)) → ∃ t c', exec i s = .next t ∧ (∀ a, t.byte a = s.byte a) ∧ (t.crew? blk crew).map Prod.snd = some c' ∧
        { c' with fences := c.fences } = c ∧ c'.fences = c.fences.filter (fun g => g.id != f.id) ∧
        (t.core b.core).posted = (s.core b.core).posted.map (fun p => if p.fence = some f.id then { p with fence := none } else p) ∧
        (t.core b.core).copies = (s.core b.core).copies.map (fun p => if p.fence = some f.id then { p with fence := none } else p) ∧
        (f.kind ≠ 1 → 3 ≤ f.scope → ∀ e ∈ (t.core b.core).l1, e.2.sc = true))) ∧
    (s.unread core line → exec (.conflictNotice core line) s = .next s) ∧
    (∀ (b : Block) (c : Crew) (f : PFence), (Map.keys s.blocks).Nodup → (Map.keys b.crews).Nodup → Map.find? s.blocks blk = some b →
      Map.find? b.crews crew = some c → c.fences.find? (fun g => g.lines.any (fun x => x.1 == line)) = some f →
      ∃ t b' c', exec (.conflictNotice b.core line) s = .next t ∧ (∀ a, t.byte a = s.byte a) ∧ Map.find? t.blocks blk = some b' ∧
        Map.find? b'.crews crew = some c' ∧ { f with lines := [], hits := [] } ∈ c'.fences ∧
        (∀ g ∈ c.fences, g.id < f.id → g ∈ c'.fences) ∧ c'.paths = [] ∧
        (f.whole = true → c'.log = c.log.take f.logLen ∧ { c'.core with threads := f.saved.threads } = f.saved) ∧
        (f.whole = false → { c'.core with threads := c.core.threads } = c.core) ∧
        (∀ l th, Map.find? c.core.threads l = some th → Map.find? c'.core.threads l =
          some (if f.lanes.getLsbD l then (Map.find? f.saved.threads l).getD th else th)) ∧
        ∀ p ∈ (t.core b.core).posted, p.agent.blk = blk → p.agent.crew = crew → f.lanes.getLsbD p.agent.lane = true →
          ∀ j, p.fence = some j → j < f.id) ∧
    (∀ p, (s.core core).posted[k]? = some p →
      let i := Instr.homeRequest core k
      let waits := fun (q : Posted) => q.moved = true ∧ q.agent.blk = p.agent.blk ∧ q.agent.crew = p.agent.crew ∧
        q.isScratch = false ∧ p.isScratch = false ∧ q.now / 4096 = p.now / 4096
      let may := p.fence = none ∧ p.moved = false ∧
        ∀ q ∈ (s.core core).posted.take k, q.fence ≠ none ∨ (q.meets p = false ∧ p.release = false ∧ ¬ waits q)
      let u := s.modCore core (fun c => { c with posted := c.posted.eraseIdx k })
      let w : Writer := ⟨some p.agent, some (core, s.partOf p.agent.blk)⟩
      let still := (∀ j bs, p.op ≠ .scratch j bs) → s.isFrozen p.addr = false
      let done := fun (v : State) => ∃ t, exec i s = .next t ∧ t.Agrees v
      (¬ may → exec i s = .next s) ∧
      (may → ¬ still → done (s.modCore core (fun c => { c with posted := c.posted.set k { p with moved := true } }))) ∧
      (may → still → (∀ j bs, p.op = .scratch j bs → done (u.scratchWrite j p.addr bs)) ∧
        (∀ bs, p.op = .store bs → done (u.performBytes p.addr bs w)) ∧ (∀ t, p.op = .tag t → done (u.tagWritten p.addr t w)) ∧
        (∀ aop w64 vs, p.op = .group aop w64 vs → let m := if w64 then 8 else 4
          done (u.performBytes p.addr (toBytesLE m (atomGroup aop (8 * m) (s.num p.addr m) (vs.map (fun v => v.toNat % 2 ^ (8 * m)))).1) w
            |>.dropOwn core p.addr)) ∧
        ∀ op w64 m c, p.op = .lop op w64 m c → let z := if w64 then 8 else 4
          done ((List.range m).foldl (fun (v : State) j => v.performBytes (p.addr + z * j) (toBytesLE z
            (lopStep op (8 * z) (v.num (p.addr + z * j) z) (c.toNat % 2 ^ (8 * z)))) w |>.dropOwn core (p.addr + z * j)) u)) ∧
      (p.moved = false → exec (.moved core k) s = .next s) ∧
      (p.moved = true → (∀ q ∈ (s.core core).posted.take k, ¬ waits q) → exec (.moved core k) s = .next (s.modCore core (fun c =>
        { c with posted := c.posted.set k { p with addr := p.now, moved := false, due := s.gts } })))) ∧
    (let hit := fun (e : Nat × L1Line) => e.2.doomed && e.1 % 2 ^ 52 == line
     let i := Instr.l1Invalidation core line
     ((∀ e ∈ (s.core core).l1, hit e = false) → exec i s = .next s) ∧
     ((∃ e ∈ (s.core core).l1, hit e = true) →
       exec i s = .next (s.modCore core (fun c => { c with l1 := c.l1.filter (fun e => !hit e) })))) ∧
    (s.cur.checked = false → (∀ c, s.unread c (s.memKey (64 * line) / 64)) → ∃ t, exec (.cxlCacheSnoop line) s = .next t ∧ { t with cores := s.cores } = s ∧
      ∀ c p y, p < 4 → Map.find? (s.core c).l1 (l1Key p (s.memKey (64 * line) / 64)) = some y →
        Map.find? (t.core c).l1 (l1Key p (s.memKey (64 * line) / 64)) = some (if y.sc then { y with doomed := true } else y))

/-- R272, R186, R191, R194, R377, R95, R76, R176, R94, R199: a queued copy runs; a free Loft is granted to its queue's head; an engine's
result lands; a block leaves its gate; a record reaches its ring; sleeps and waits end; a regroup point chooses paths; and
a wait beyond its limit kills its block. -/
def Obligations.EnginesAndWaits : Prop :=
  ∀ (s : State) (die k core blk crew lane : Nat),
    (∀ i (c : CopyReq) (b : Block), (s.dieCopies die)[k]? = some (core, i) → (s.core core).copies[i]? = some c →
      s.block? c.agent.blk = some b →
      let gone := fun (t : State) => t.modCore core (fun x => { x with copies := x.copies.eraseIdx i })
      let finished : CopyReq := { c with acqDone := false, src := c.srcAt c.len, dst := c.dstAt c.len, len := 0, done := c.done + c.len }
      let ended := fun (q : CopyReq) (t : State) => t.modCore core (fun x => { x with ended := x.ended ++ [q] })
      let flagged := fun (t : State) => if c.fw then t.scratchWrite c.agent.blk c.flag (toBytesLE 4 c.value.toNat) else t
      let aged := fun (t : State) => { t with fresh := t.fresh + c.len }
      let runs := fun (t : State) => ∃ u, exec (.copyRun die k) s = .next u ∧ u.Agrees t
      (c.fence.isSome = true ∨ c.hold.isSome = true → runs s) ∧
      (b.core = core → c.fence = none → c.hold = none → c.refused = false → c.acq = false → c.rel = false → c.raced = [] → c.done = 0 →
        (s.core core).posted = [] → (∀ l, Map.find? s.launches b.launch = some l → l.watch = 0) →
        (c.len = 0 → runs (flagged (ended { c with acqDone := false } (gone s)))) ∧
        (0 < c.len → c.len ≤ 4096 → c.ssp = true → c.dsp = true → c.src + c.len ≤ c.dst ∨ c.dst + c.len ≤ c.src → c.src + c.len < 2 ^ 64 →
          c.dst + c.len < 2 ^ 64 → (∀ j ∈ b.spoilt, j < c.src ∨ c.src + c.len ≤ j) →
          runs (flagged (ended finished (aged ((gone s).scratchWrite c.agent.blk c.dst (Map.bytes 0 b.scratch c.src c.len)))))) ∧
        ∀ pa e ups, 0 < c.len → c.ssp = false → c.dsp = true → c.len ≤ 4096 - c.src % 4096 → c.dst + c.len < 2 ^ 64 →
          translate s b.tctx (c.src % 2 ^ 64) 4 = .ok pa e ups → s.isFrozen pa = false → e.tg = false →
          s.consumes core pa c.len none = false →
          let u := s.useTrans b.tctx e ups
          runs (flagged (ended finished (aged ((gone u).scratchWrite c.agent.blk c.dst (u.bytes pa c.len))))))) ∧
    (match Map.get [] (s.core core).loftq lane with
      | [] => exec (.loftGrant core lane) s = .next s
      | h :: q => (s.loftHeld core lane = true → exec (.loftGrant core lane) s = .next s) ∧
        (s.loftHeld core lane = false → (s.core core).posted = [] → exec (.loftGrant core lane) s = .next
          ((s.modCore core (fun c => { c with loftq := Map.set [] c.loftq lane q })).modBlock h (fun b =>
            { b with loft := b.loft.map (fun x => { x with
              holding := true, checkpoint := x.regs, ckTiles := b.tiles, ckClk := x.clk, ckBusy := x.busy, ckFlights := x.flights,
              ckSrn := b.loftSrn, ckPc := 0, log := if x.rerun.isSome then x.log else [], bundles := 0 }) })))) ∧
    (∀ b x f, s.block? blk = some b → b.loft = some x → x.flights[k]? = some f →
      let lands := (∀ g ∈ x.flights, f.ready ≤ g.ready) ∧ (f.ready ≤ x.clk ∨ x.wait ≠ .none)
      (¬ lands → exec (.engineResultWrite blk k) s = .next s) ∧
      (lands → exec (.engineResultWrite blk k) s = .next (f.writes.foldl (fun (t : State) w => t.engWrite blk w) (s.modLoft blk (fun y =>
        { y with flights := y.flights.eraseIdx k, clk := if y.wait = .unhatch then max y.clk f.ready else y.clk }))))) ∧
    (∀ b x, s.block? blk = some b → b.loft = some x → x.wait = .unhatch → x.flights = [] → x.rerun = none →
      (∀ e ∈ b.crews, e.2.rerun = none ∧ e.2.shelf = none) → (∀ e ∈ x.regs.shadow, e.1 + 128 ∉ b.spoiltTiles) →
      (s.core b.core).posted = [] → ∃ b', exec (.unhatchComplete blk) s = .next (s.modBlock blk (fun _ => b')) ∧
        b'.loft = none ∧ b'.gatePc = none ∧ b'.tiles = b.tiles ∧ b'.scratch = b.scratch ∧
        (∀ ci c l t, Map.find? b.crews ci = some c → Map.find? c.core.threads l = some t → ∃ c' t', Map.find? b'.crews ci = some c' ∧
          Map.find? c'.core.threads l = some t' ∧ { t' with v := t.v } = (if t.st = .gate then { t with st := .run, pc := x.regs.pc, since := 0 } else t) ∧
          (x.regs.shadow = [] ∨ t.st = .exited → t'.v = t.v)) ∧
        ∀ h tile i j th r sub t, x.regs.shadow = [(h, tile)] → (hatchOf x.frame.descs h).w * (hatchOf x.frame.descs h).p ≤ 32 →
          i < 32 → j < 1024 / (hatchOf x.frame.descs h).w → (hatchOf x.frame.descs h).place i j = some (th, r, sub) → b.thread? th = some t → t.st ≠ .exited →
          ∃ t', b'.thread? th = some t' ∧ let w := (hatchOf x.frame.descs h).w
            (Map.get 0 t'.v r).toNat / 2 ^ (w * sub) % 2 ^ w = tile.elem w i j) ∧
    (∀ r : Rec, s.recs[k]? = some r →
      let due := r.gts + 2000 ≤ s.gts ∧ ∀ q ∈ s.recs.take k, ¬ (q.ring = r.ring ∧ q.fn = r.fn)
      let (rb, rh, rt, rd, size) := ringRegs r.ring
      let base := (s.reg rb r.fn).toNat
      let m := 64 * 2 ^ min (natBits base 3 0) 10
      let tail := natBits (s.reg rt r.fn).toNat 15 0 % m
      let full := natBits base 51 12 = 0 ∨ (tail + 1) % m = natBits (s.reg rh r.fn).toNat 15 0 % m
      let u : State := { s with recs := s.recs.eraseIdx k }
      (¬ due → exec (.trapRecordWrite k) s = .next s) ∧
      (due → full → exec (.trapRecordWrite k) s = .next (u.setReg rd r.fn (BitVec.ofNat 64 (min ((s.reg rd r.fn).toNat + 1) (2 ^ 32 - 1))))) ∧
      (due → ¬ full → r.lost = none → exec (.trapRecordWrite k) s = .next (((u.deviceWrite (natBits base 51 12 * 4096 + size * tail)
        (toBytesLE size r.bits.toNat)).setReg rt r.fn (BitVec.ofNat 64 ((tail + 1) % m))).signal r.fn
          (if r.ring = 0 then 1 else if r.ring = 1 then 3 else 2)))) ∧
    (∀ b c t, s.crew? blk crew = some (b, c) → Map.find? c.core.threads lane = some t →
      let becomes := fun (i : Instr) (go : Prop) (t' : Thread) =>
        (go → exec i s = .next (s.modThread blk crew lane (fun _ => t'))) ∧ (¬ go → exec i s = .next s)
      (∀ u, t.st = .sleep u → becomes (.sleepEnd blk crew lane) (u ≤ s.gts) { t with st := .run, stalled := false, since := 0 }) ∧
      (crew ≠ 64 → ∀ a u w, t.st = .flag a u w → becomes (.waitWake blk crew lane) (u ≤ s.gts) { t with st := .run })) ∧
    (∀ b x a u since w, s.block? blk = some b → b.loft = some x → x.wait = .flag a u since w → u ≤ s.gts →
      exec (.waitWake blk 64 lane) s = .next (s.modLoft blk (fun y => { y with wait := .none, clk := y.clk + s.clocks (s.gts - since) }))) ∧
    (∀ b c, s.crew? blk crew = some (b, c) →
      let due := c.deferred = [] ∧ (c.lastRegroup / 4 < s.clk / 4 ∨ ((∀ m ∈ c.paths, m &&& b.runnable c = 0) ∧ b.runnable c ≠ 0))
      (¬ due → exec (.regroupPoint blk crew) s = .next s) ∧
      (due → ∃ w : Crew, exec (.regroupPoint blk crew) s = .next (s.modCrew blk crew (fun _ => w)) ∧ w.lastRegroup = s.clk ∧
        w.paths.length ≤ 2 ∧ (b.runnable w ≠ 0 → w.paths ≠ []) ∧
        (∀ m ∈ w.paths, m ≠ 0 ∧ ∃ pc : Nat, ∀ l, m.getLsbD l = true ↔ (b.runnable w).getLsbD l = true ∧ (w.thread l).pc.toNat = pc) ∧
        ((∀ l, (b.runnable w).getLsbD l = true → (w.thread l).age < 32) → ∀ m ms, w.paths = m :: ms → ∀ pc : Nat,
          laneCount (lanesWhere (b.runnable w) (fun l => (w.thread l).pc.toNat == pc)) ≤ laneCount m))) ∧
    (∀ b, s.block? blk = some b →
      (s.overLimit b = none → s.loftOverLimit b = none → exec (.waitLimit blk) s = .next s) ∧
      (∀ x, s.overLimit b = none → s.loftOverLimit b = some x → (∃ n, x.waitFrom = some n ∧ recWl b.record < s.gts - n) ∧
        exec (.waitLimit blk) s = .next ((s.killBlock blk (loftRecord s b x x.regs.pc.toNat 0x100 0 15 0 4)).settleKills
          (s.blocks.length + 1))) ∧
      ∀ ci l t c, s.overLimit b = some (ci, l, t) → Map.find? b.crews ci = some c →
        (∃ n, b.waitSince t = some n ∧ recWl b.record < s.gts - n) ∧
        exec (.waitLimit blk) s = .next ((s.killBlock blk (threadRecord s b ci c l t.pc.toNat 0x100 0 15 0
          (match t.st with | .flag _ _ _ => 2 | _ => 3))).settleKills (s.blocks.length + 1)))

/-! ### Events of the memory tiers -/

/-- R313, R305, R460, R322, R326, R328, R324, R325: TLB invalidations are queued, sixteen of a function, later ones waiting with
the writes behind them, and complete with nothing they cover cached;
frames change owners zeroed; frame groups; the pool; pages move (their data with them, in a canonical memory), are retired, and
their old frames let go; and gated launches go on. -/
def Obligations.FramesAndPages : Prop :=
  ∀ (s : State) (fn vfs asid base count k : Nat) (value : DWord),
    let who := if fn = 0 then vfs else fn
    let v := value.toNat
    let queued := fun (i : Instr) (t : Tlbi) =>
      ((s.tlbis.filter (fun x => x.fn == fn)).length < 16 → exec i s = .next { s with tlbis := s.tlbis ++ [t] }) ∧
      (16 ≤ (s.tlbis.filter (fun x => x.fn == fn)).length →
        exec i s = .next { s with heldWrites := Map.set [] s.heldWrites fn (Map.get [] s.heldWrites fn ++ [i]) })
    let uncached := fun (t : State) (q : TlbEntry → Prop) => (∀ e ∈ t.l2tlb, ∀ x ∈ e.2, ¬ q x) ∧ ∀ e ∈ t.cores, ∀ x ∈ e.2.utlb, ¬ q x
    let zeroed := fun (t : State) (f n : Nat) => (∀ a, t.byte a = if 4096 * f ≤ a ∧ a < 4096 * (f + n) then 0 else s.byte a) ∧
      uncached t (fun e => f ≤ e.ppn ∧ e.ppn < f + n) ∧ ∀ c p j, p < 4 → 64 * f ≤ j → j < 64 * (f + n) → Map.find? (t.core c).l1 (l1Key p j) = none
    let ownable := fun f => aperture (4096 * f) = 0 ∧ s.backed (4096 * f) = true ∧ f ∉ s.retiredFrames
    queued (.tlbiVaRange fn vfs asid base count) ⟨fn, who, 0, asid, base, count⟩ ∧ queued (.tlbiAsid fn vfs asid) ⟨fn, who, 1, asid, 0, 0⟩ ∧
    queued (.tlbiVfStage1 fn vfs) ⟨fn, who, 2, 0, 0, 0⟩ ∧
    (fn = 0 → queued (.tlbiIpaRange fn vfs base count) ⟨fn, vfs, 3, 0, base, count⟩ ∧ queued (.tlbiVfStage2 fn vfs) ⟨fn, vfs, 4, 0, 0, 0⟩) ∧
    (fn ≠ 0 → exec (.tlbiIpaRange fn vfs base count) s = .next s ∧ exec (.tlbiVfStage2 fn vfs) s = .next s) ∧
    (∀ t, s.tlbis[k]? = some t → (∀ u ∈ s.tlbis.take k, u.fn ≠ t.fn) → ∃ u, exec (.tlbiComplete k) s = .next u ∧
      u.tlbis = s.tlbis.eraseIdx k ∧ (s.unposted → (∀ a, u.byte a = s.byte a) ∧ u.agenda = Map.get [] s.heldWrites t.fn ++ s.agenda ∧
        Map.get [] u.heldWrites t.fn = []) ∧ uncached u (fun e => e.vf = t.vf ∧
        (t.kind = 0 → e.asid = t.asid ∧ t.base / 4096 ≤ e.vpn ∧ e.vpn < t.base / 4096 + t.count) ∧ (t.kind = 1 → e.asid = t.asid) ∧
        (t.kind = 3 → t.base / 4096 ≤ e.ipn ∧ e.ipn < t.base / 4096 + t.count))) ∧
    (let f := natBits v 51 12
     let may := fn = 0 ∧ natBits v 63 52 = 0 ∧ ownable f
     (¬ may → exec (.framecmd fn value) s = .next s) ∧
     (may → s.unposted → ∃ t, exec (.framecmd fn value) s = .next t ∧
       (∀ j, t.owner j = if j = f then mkOwner false (natBit v 6) (natBits v 5 0) else s.owner j) ∧ zeroed t f 1)) ∧
    (let lo := k * 2 ^ 22
     let drops := 72 ≤ k ∨ (∃ e ∈ s.owners, lo ≤ e.1 ∧ e.1 < lo + 2 ^ 22 ∧ ownAsg e.2 = true) ∨
       (∃ r ∈ s.pool, lo ≤ r * 512 ∧ r * 512 < lo + 2 ^ 22) ∨ (natBit v 3 = true ∧ 5 < natBits v 2 0)
     (drops → exec (.framegrpWrite k value) s = .next s) ∧
     (¬ drops → exec (.framegrpWrite k value) s = .next (s.setReg .framegrp k (BitVec.ofNat 64 (natBits v 3 0))))) ∧
    (let may := fn = 0 ∧ k ∉ s.pool ∧ (∀ i, i < 512 → s.owner (512 * k + i) = 0 ∧ 512 * k + i ∉ s.retiredFrames) ∧ (512 * k + 512) * 4096 ≤ cellarTop
     let runOf := fun (t : State) (x : Byte) => ∀ j, t.owner j = if 512 * k ≤ j ∧ j < 512 * k + 512 then x else s.owner j
     (¬ may → exec (.poolAdd fn k) s = .next s) ∧
     (may → ∃ t, exec (.poolAdd fn k) s = .next t ∧ t.pool = s.pool ++ [k] ∧ runOf t (mkOwner false true 0) ∧ t.mem = s.mem) ∧
     (¬ (fn = 0 ∧ k ∈ s.pool) → exec (.poolRemove fn k) s = .next s) ∧
     (fn = 0 → k ∈ s.pool → (512 * k + 512) * 4096 ≤ cellarTop → s.unposted → ∃ t, exec (.poolRemove fn k) s = .next t ∧
       t.pool = s.pool.filter (fun r => r != k) ∧ runOf t 0 ∧ zeroed t (512 * k) 512)) ∧
    (∀ vf ipa size dest ls, 4096 ≤ size → dest % size = 0 → s.moveAllowed dest (size / 4096) = true →
      rangeLeaves s vf (ipa / size * size) (size / 4096 + 1) (size / 4096) 0 = some ls →
      (wholeGroups (ipa / size * size) (size / 4096) ls = true →
        exec (.pageMove vf ipa size dest) s = .next (s.movePage vf (ipa / size * size) (size / 4096) dest 0 .copy false ls)) ∧
      (wholeGroups (ipa / size * size) (size / 4096) ls = false → exec (.pageMove vf ipa size dest) s = .next s)) ∧
    (∀ frame ipa dest,
      let o := s.owner frame
      (¬ ownable frame → exec (.pageRetire frame ipa dest) s = .next s) ∧
      (ownable frame → (ownAsg o = false ∨ ownVf o = 0 ∨ s.pageIn (ownVf o) ipa frame = none) → frame / 512 ∉ s.pool → s.unposted →
        ∃ t, exec (.pageRetire frame ipa dest) s = .next t ∧ t.retiredFrames = s.retiredFrames ++ [frame] ∧
          (∀ j, t.owner j = if j = frame then 0 else s.owner j) ∧ zeroed t frame 1) ∧
      ∀ base n ls, ownable frame → ownAsg o = true → ownVf o ≠ 0 → s.pageIn (ownVf o) ipa frame = some (base, n, ls) → dest % (4096 * n) = 0 →
        aperture dest = 0 → s.moveAllowed dest n = true → exec (.pageRetire frame ipa dest) s = .next
          { s.movePage (ownVf o) base n dest 0 .zero true ls with retiredFrames := s.retiredFrames ++ [frame] }) ∧
    (Memory.wf s.mem → ∀ vf base dest back lost e pte, dest < cellarTop → aperture (natBits e 51 12 * 4096) = 0 → pte < cellarTop → dest % 4096 = 0 →
      dest ≠ natBits e 51 12 * 4096 → pte + 8 ≤ dest ∨ dest + 4096 ≤ pte → pte + 8 ≤ natBits e 51 12 * 4096 ∨ natBits e 51 12 * 4096 + 4096 ≤ pte →
      ∀ fill, let t := s.movePage vf base 1 dest back fill lost [(e, pte, 1, 0)]
        let old := natBits e 51 12 * 4096
        (∀ i, i < 4096 → t.byte (dest + i) = match fill with
          | .copy => s.byte (old + i)
          | .zero => 0
          | .keep => s.byte (dest + i)) ∧
        t.num pte 8 = s.newLeaf e dest % 2 ^ 64 ∧ t.frozen = s.frozen ++ [⟨natBits e 51 12, 1, back⟩] ∧
        (∀ j, t.owner j = if j = dest / 4096 then mkOwner lost true vf else s.owner j) ∧
        uncached t (fun e => e.vf = vf ∧ e.ipn = base / 4096) ∧
        (∀ c p j, p < 4 → (old / 64 ≤ j ∧ j < old / 64 + 64) ∨ (dest / 64 ≤ j ∧ j < dest / 64 + 64) → Map.find? (t.core c).l1 (l1Key p j) = none) ∧
        (∀ c, (t.core c).posted = (s.core c).posted.map (fun p => p.follow old dest 4096)) ∧
        ∀ a, (a < dest ∨ dest + 4096 ≤ a) → (a < pte ∨ pte + 8 ≤ a) → t.byte a = s.byte a) ∧
    (∀ f : Frozen, s.frozen[k]? = some f →
      let u : State := { s with frozen := s.frozen.eraseIdx k }
      let arrives := ∃ e ∈ s.cores, ∃ p ∈ e.2.posted, p.moved = false ∧ p.within (4096 * f.frame) (4096 * f.count) = true
      (arrives → exec (.frozenFrameRelease k) s = .next s) ∧
      (¬ arrives → aperture (4096 * f.frame) ≠ 0 → exec (.frozenFrameRelease k) s = .next u) ∧
      (¬ arrives → aperture (4096 * f.frame) = 0 → f.back ≠ 1 →
        exec (.frozenFrameRelease k) s = .next ((u.zeroRange (4096 * f.frame) (4096 * f.count)).setOwners f.frame f.count 0)) ∧
      (¬ arrives → aperture (4096 * f.frame) = 0 → f.back = 1 → ∃ t, exec (.frozenFrameRelease k) s = .next t ∧
        { t with pool := s.pool } = u.setOwners f.frame f.count (mkOwner false true 0) ∧
        ∀ r, r ∈ t.pool ↔ r ∈ s.pool ∨ ((∃ i, i < f.count ∧ r = (f.frame + i) / 512) ∧ t.runBack r = true))) ∧
    (∀ m run rest, s.region fn k = some m →
      let ipa := (s.wsWindow fn).1 + 2 ^ 21 * k
      (s.pool = run :: rest → m.attic = true → s.upRoom fn = true → (∃ w ∈ s.wanted, w.1 = fn ∧ s.incoming w.1 w.2 = some k) →
        exec (.dumbwaiterMove fn k true) s = .next
          (({ s with pool := rest }.movePage fn ipa 512 (run * 2 ^ 21) 1 .copy false m.leaves).countShared fn 4 0 0 1)) ∧
      (s.nextMove = some (fn, k, false) →
        let back := s.num (natBits (s.reg .wsback fn).toNat 51 12 * 4096 + 8 * k) 8
        exec (.dumbwaiterMove fn k false) s = .next
          ((s.movePage fn ipa 512 (natBits back 51 21 * 2 ^ 21) 1 (if m.dirty then .copy else .keep) false m.leaves).countShared fn 4 0 1 1)) ∧
      (s.pool = [] → exec (.dumbwaiterMove fn k true) s = .next s) ∧ (s.nextMove ≠ some (fn, k, false) → exec (.dumbwaiterMove fn k false) s = .next s)) ∧
    ∀ h l, Map.findBy (fun _ l => l.queue == k && l.stage == 2 && l.failed.isNone) s.launches = some (h, l) →
      let goes := s.modLaunch h (fun l => { l with stage := 3 })
      let moving := (s.incoming l.vf (s.workingSet l)).isSome = true ∧ (s.upRoom l.vf = true ∨ s.nextMove.isSome = true)
      (s.otherGates l = true → exec (.residencyRelease k) s = .next s) ∧
      (s.otherGates l = false → s.gated l = false → exec (.residencyRelease k) s = .next goes) ∧
      (s.otherGates l = false → s.gated l = true → moving → exec (.residencyRelease k) s = .next s) ∧
      (s.otherGates l = false → s.gated l = true → ¬ moving → exec (.residencyRelease k) s = .next (goes.countShared l.vf 4 0 2 1))

/-! ### What reaches the package from outside -/

/-- R315, R317, R2, R435, R437, R414, R419, R421: replies end waits; registers are written, and command registers act as their own
events; the host and peers write memory where they may; counters are read in halves and copied as a snapshot. -/
def Obligations.OutsideAccesses : Prop :=
  ∀ (s : State) (fn id q core part n : Nat) (value : DWord) (bs : List Byte),
    let v := value.toNat
    let stores := fun (i : Instr) (pa : Nat) (bs : List Byte) => ∃ t, exec i s = .next t ∧ t.regs = s.regs ∧
      ∀ a, t.byte a = if pa ≤ a ∧ a < pa + bs.length then bs.getD (a - pa) 0 else s.byte a
    (∀ no : Bool,
      let i := if no then Instr.refuse fn id else .retry fn id
      ((∀ r ∈ s.pageReqs, ¬ (r.posted = true ∧ r.fn = fn ∧ r.id = id)) → exec i s = .next (s.countShared fn 6 0 1 1)) ∧
      ∀ r, (∀ x ∈ s.pageReqs, x.posted = true) → s.pageReqs.find? (fun x => x.fn == fn && x.id == id) = some r →
        let h := (fn, r.stage * 2 ^ 52 + r.page)
        ∃ t, exec i s = .next t ∧ t.pageReqs = s.pageReqs.filter (fun x => !(x.fn == fn && x.id == id)) ∧ t.mem = s.mem ∧
          (r.stage ≠ 2 → t.owners = s.owners) ∧
          ∀ blk crew l b c th, Map.find? s.blocks blk = some b → b.gone = false → Map.find? b.crews crew = some c →
            Map.find? c.core.threads l = some th → ∃ b' c', Map.find? t.blocks blk = some b' ∧ Map.find? b'.crews crew = some c' ∧ Map.find? c'.core.threads l =
              some (if th.hold = some h then { th with hold := none, refused := if no then some th.heldAt else th.refused } else th)) ∧
    (∀ (r : RegName) (m : Nat), regWritable r = some m → r ≠ .wsmap → r ≠ .qcfg →
      let may := (fn = 0 ∨ (regPf r = false ∧ (if r = .scsel then n / 8 else n) = fn)) ∧ s.areaFree r n (v &&& m) = true
      (may → exec (.registerWrite fn r n value) s = .next (s.setReg r n (BitVec.ofNat 64 (v &&& m)))) ∧
      (¬ may → exec (.registerWrite fn r n value) s = .next s)) ∧
    (exec (.registerWrite fn .doorbell n value) s = exec (.doorbell fn n (BitVec.ofNat 16 v)) s ∧
      exec (.registerWrite fn .loadreq fn value) s = exec (.loadreq fn value) s ∧
      exec (.registerWrite fn .dbgatt fn value) s = exec (.dbgattWrite fn value) s ∧
      exec (.registerWrite fn .framecmd n value) s = exec (.framecmd fn value) s ∧
      exec (.registerWrite 0 .framegrp n value) s = exec (.framegrpWrite n value) s ∧
      exec (.registerWrite 0 .partcfg n value) s = exec (.partcfgWrite n value) s ∧
      (natBit v 1 = true → exec (.registerWrite fn .qstat n value) s = exec (.qstatResume fn n) s) ∧
      (fn ≠ n → exec (.registerWrite fn .preq0 n value) s = .next s) ∧
      exec (.registerWrite fn .preq0 fn value) s = exec (match natBits v 25 24 with
        | 0 => .preemptEstimator fn (natBits v 23 18) (natBits v 8 0) (natBits v 17 9)
        | 1 => .preemptSave fn (natBits v 23 18) (natBits v 8 0) (natBits v 17 9)
        | 2 => .preemptDrain fn (natBits v 23 18) (natBits v 8 0) (natBits v 17 9)
        | _ => .preemptDiscard fn (natBits v 23 18) (natBits v 8 0) (natBits v 17 9)) s) ∧
    (aperture (q + bs.length) = aperture q → q + bs.length < 2 ^ 52 →
      (s.hostMay q bs.length = true → stores (.hostWrite q bs) q bs) ∧ (s.hostMay q bs.length = false → exec (.hostWrite q bs) s = .next s)) ∧
    (let pa := natBits q 43 0
     let w := if n = 17 then bs.length / 2 else bs.length
     let may := s.peerMay fn pa w = true
     let old := s.num pa w
     let reads := fun (t : State) => t.readOut = BitVec.ofNat 64 (s.num pa (min 8 w))
     let does := fun (bs : List Byte) => stores (.peerRequest fn q n bs) pa bs
     (¬ may → exec (.peerRequest fn q n bs) s = .next s) ∧
     (may → n = 0 → ∃ t, exec (.peerRequest fn q n bs) s = .next t ∧ reads t ∧ { t with readOut := s.readOut } = s) ∧
     (may → n = 1 → does bs) ∧
     (may → 2 ≤ n → n ≤ 16 → (w = 4 ∨ w = 8) → ∃ t, exec (.peerRequest fn q n bs) s = .next t ∧ reads t ∧
       t.num pa w = atomStep (n - 2) (8 * w) old (ofBytesLE bs) % 2 ^ (8 * w) ∧ ∀ a, (a < pa ∨ pa + w ≤ a) → t.byte a = s.byte a) ∧
     (may → n = 17 → bs.length = 2 * w → (w = 4 ∨ w = 8) → ∃ t, exec (.peerRequest fn q n bs) s = .next t ∧ reads t ∧
       t.num pa w = (if old = ofBytesLE (bs.take w) then ofBytesLE (bs.drop w) else old) ∧ ∀ a, (a < pa ∨ pa + w ≤ a) → t.byte a = s.byte a)) ∧
    (let x := if core = 512 then s.reg .sctr (8 * fn + n % 8) else s.counterOf fn core part n
     (core = 512 ∨ s.ownsNow fn core part = true) → ∃ t u, exec (.ctrloRead fn core part n) s = .next t ∧
       exec (.ctrhiRead fn core part n) t = .next u ∧ t.readOut.toNat = x.toNat % 2 ^ 32 ∧ u.readOut.toNat = x.toNat / 2 ^ 32 ∧
       (∀ a, t.byte a = s.byte a ∧ u.byte a = s.byte a) ∧ t.regs = s.regs ∧ u.regs = s.regs) ∧
    (let pa := natBits v 51 6 * 64
     (areaOk pa 64 = false → exec (.scsnap fn value) s = .next s) ∧
     (areaOk pa 64 = true → aperture pa ≠ 3 → pa / 4096 ≠ statusPage / 4096 → stores (.scsnap fn value) pa
       ((List.range 8).flatMap (fun n => toBytesLE 8 (s.reg .sctr (8 * fn + n)).toNat))))

/-! ### Pre-emption -/

/-- R384 to R388, R319, R389, R390: a request is dropped while another runs, and is done at once where nothing stands on its cores;
else each team is drained, discarded or marked to be saved as FORCE and the estimator say; a swapped or saved team leaves its core
for a crate. -/
def Obligations.Preemption : Prop :=
  ∀ (s : State) (fn vfs first count blk : Nat),
    let who := if fn = 0 then vfs else fn
    (∀ (force : Nat) (i : Instr), (force, i) ∈ [(0, Instr.preemptEstimator fn vfs first count), (1, .preemptSave fn vfs first count),
        (2, .preemptDrain fn vfs first count), (3, .preemptDiscard fn vfs first count)] →
      let deadline := natBits (s.reg .preq1 fn).toNat 31 0
      let u : State := { s.setReg .prestat fn (s.reg .prestat fn &&& 2) with
        preempts := s.preempts ++ [⟨fn, who, first, count, deadline, force, s.gts, []⟩] }
      ((∃ p ∈ s.preempts, p.fn = fn) → exec i s = .next (s.setReg .prestat fn (s.reg .prestat fn ||| 2))) ∧
      (s.preempts = [] → (∀ e ∈ s.blocks, ¬ (e.2.vf = who ∧ first ≤ e.2.core ∧ e.2.core < first + count)) →
        exec i s = .next ((s.setReg .prestat fn (s.reg .prestat fn &&& 2)).setReg .predone fn (BitVec.ofNat 64 s.gts))) ∧
      ∀ (h : Nat) (b : Block), s.preempts = [] → s.namedTeams who first count = [(h, 0)] → s.block? h = some b → b.leaving = 0 →
        b.ended = false → b.gone = false → b.vf = who → first ≤ b.core → b.core < first + count →
        let t := s.teamOf b
        let room := (u.crateRoom b.vf t (u.crateSize t)).isSome = true
        let restarts := recRestart b.record = true ∧ recCoop b.record = false
        let c := u.estimate t b deadline force
        (force = 2 → c = .drain) ∧ (force = 3 → restarts → c = .discard) ∧
        ((force = 1 ∨ (force = 3 ∧ ¬ restarts)) → (room → c = .save) ∧ (¬ room → c = .drain)) ∧
        (c = .drain → exec i s = .next ((((Map.keys t).foldl (fun (v : State) k => v.modBlock k (fun x => { x with leaving := 2 })) u).noteDrain fn t).countPre fn 16)) ∧
        (c = .discard → exec i s = .next ((u.discardTeam t b).countPre fn 24).settlePreempts) ∧
        (c = .save → recCoop b.record = false → exec i s = .next ((u.markSave t b 1).countPre fn 32))) ∧
    (∀ (t : Map Block) (b : Block) (why n : Nat), let u := s.markSave t b why
      u.blocks.length = s.blocks.length ∧ (∀ e ∈ t, ∀ x, Map.find? s.blocks e.1 = some x → ∃ y, Map.find? u.blocks e.1 = some y ∧ y.leaving = why ∧
        { y with leaving := x.leaving, crate := x.crate } = x ∧ (n = s.crateSize t → x.crate = none → y.crate = (s.crateRoom b.vf t n).map (fun a => (a, n))))) ∧
    ∀ b : Block, s.block? blk = some b →
      let t := s.teamOf b
      let leaves := fun (i : Instr) (why a : Nat) => ∃ u, exec i s = .next u ∧ (∀ k ∈ Map.keys t, Map.find? u.blocks k = none) ∧
        ∃ k v, Map.find? u.saved k = some v ∧ v.launch = b.launch ∧ v.vf = b.vf ∧ v.why = why ∧ v.at_ = a ∧ v.blocks.length = t.length
      let mayLeave := s.awaitsMoved t = false ∧ (Map.keys s.blocks).Nodup ∧ b.ended = false ∧ b.gone = false ∧ ∀ e ∈ t, e.2.vf = b.vf
      (s.swapDue blk b = false → exec (.swapOut blk) s = .next s) ∧
      (s.swapDue blk b = true → s.swapRoom b = none → exec (.swapOut blk) s = .next s) ∧
      (∀ a, s.swapDue blk b = true → mayLeave → s.swapRoom b = some a → leaves (.swapOut blk) 3 a) ∧
      (s.teamReady t = false → exec (.crateWrite blk) s = .next s) ∧
      (s.teamReady t = true → s.cratePlace t b = none → exec (.crateWrite blk) s = .next s) ∧
      ∀ a, s.teamReady t = true → mayLeave → s.cratePlace t b = some a → leaves (.crateWrite blk) b.leaving a

/-! ### The launch path -/

/-- R330 to R336, R338, R339, R342, R347, R73, R163, R364, R365: entries are accepted; HALT is cleared; the head is checked; the
splicer decides; blocks are placed and start; they retire; launches complete in order. Which read of an entry the head sees is the
model's (log 8, DESIGN CHOICE). -/
def Obligations.LaunchPath : Prop :=
  ∀ (s : State) (fn q blk : Nat) (tail : BitVec 16),
    (let cfg := (s.reg .qcfg q).toNat
     let size := ringSize cfg
     let c := s.queue q
     let more := (tail.toNat + size - c.tail) % size
     let drops := 256 ≤ q ∨ natBit cfg 3 = false ∨ natBits cfg 57 52 ≠ fn ∨ size - 1 < (c.tail + size - c.head) % size + more
     (drops → exec (.doorbell fn q tail) s = .next s) ∧
     (¬ drops → c.tail < size → ∃ t, exec (.doorbell fn q tail) s = .next t ∧ t.mem = s.mem ∧ t.regs = s.regs ∧ (t.queue q).tail = tail.toNat % size ∧
       (t.queue q).head = c.head ∧ (t.queue q).done = c.done ∧ (c.accepted < 2 ^ 56 → (t.queue q).accepted = (c.accepted + more) % 2 ^ 56) ∧
       (more = 1 → ∃ l, Map.find? t.launches s.nextId = some l ∧ l.queue = q ∧ l.seq = c.accepted ∧ l.ring = c.tail ∧ l.vf = fn ∧ l.stage = 0 ∧
         l.record = none))) ∧
    (let owns := fn = 0 ∨ natBits (s.reg .qcfg q).toNat 57 52 = fn
     (owns → ∃ t, exec (.qstatResume fn q) s = .next t ∧ natBit (t.reg .qstat q).toNat 1 = false ∧ (∀ r k, (r, k) ≠ (RegName.qstat, q) → k < 2 ^ 20 →
       q < 2 ^ 20 → t.reg r k = s.reg r k) ∧ { t with regs := s.regs } = s) ∧
     (¬ owns → exec (.qstatResume fn q) s = .next s)) ∧
    (natBit (s.reg .qstat q).toNat 1 = true → exec (.launchHead q) s = .next s) ∧
    (∀ h l r, natBit (s.reg .qstat q).toNat 1 = false → s.nextHead q = some (h, l) → Map.find? s.launches h = some l → l.record = some r →
      l.hold = none → l.failed = none →
      let i := Instr.launchHead q
      (r.getLsbD 235 = true → s.predecessorOpen l = true → exec i s = .next s) ∧
      (¬ (r.getLsbD 235 = true ∧ s.predecessorOpen l = true) →
        let u := s.modLaunch h (fun x => { x with headAt := some (x.headAt.getD s.gts) })
        (u.headerAt l r = .wait → exec i s = .next u) ∧
        (∀ c v a k, u.headerAt l r = .fail c v a k → exec i s = .next (u.failLaunch h l.seq 0x1D4)) ∧
        ∀ pa e ups, u.headerAt l r = .ok pa e ups →
          let w := u.useTrans (l.tctx r) e ups
          (w.loadedAt l.vf pa = false → exec i s = .next (w.failLaunch h l.seq 0x1D4)) ∧
          (∀ c, w.loadedAt l.vf pa = true → w.recordCheck l.vf r (w.record pa) = some c → exec i s = .next (w.failLaunch h l.seq c)) ∧
          (w.loadedAt l.vf pa = true → w.recordCheck l.vf r (w.record pa) = none → recBits r 511 455 = 0 →
            ∃ t, exec i s = .next t ∧ { t with launches := w.launches } = w ∧ (∀ k, k ≠ h → Map.find? t.launches k = Map.find? s.launches k) ∧
              Map.find? t.launches h =
                some { l with header := w.record pa, stage := 1, headAt := some (l.headAt.getD s.gts), watch := 0 }))) ∧
    (∀ vf (r h : BitVec 1024), (s.recordCheck vf r h = some 0x1D0 ↔ recBits r 234 222 ≠ 0 ∨ recBits r 340 320 ≠ 0 ∨ recBits r 454 448 ≠ 0 ∨
        64 < recTiles r ∨ (recQuad r = false ∧ recBits r 241 240 ≠ 0) ∨ recBits r 385 384 ≠ 0) ∧
      (s.recordCheck vf r h = some 0x1D1 → 1024 < recThreads r ∨ 2 ^ 40 < recBlocks r ∨ recTiles r < recBits h 287 280) ∧
      (s.recordCheck vf r h = none → recThreads r ≤ 1024 ∧ recBlocks r ≤ 2 ^ 40 ∧ recBits h 287 280 ≤ recTiles r ∧ recTiles r ≤ 64)) ∧
    (∀ h p, Map.findBy (fun _ l => l.queue == q && l.stage == 1) s.launches = some (h, p) → Map.find? s.launches h = some p →
      let passes := fun (n : Nat) => exec (.spliceDecision q) s = .next ((s.spliceRecord p n).modLaunch h (fun l => { l with stage := 2 }))
      let next := Map.findBy (fun _ l => l.queue == q && l.seq == p.seq + 1 && l.stage == 0 && l.failed.isNone) s.launches
      (next = none → passes 1) ∧
      ∀ g c r k, next = some (g, c) → Map.find? s.launches g = some c → p.record = some r → c.record = some k →
        (k.getLsbD 235 = false → passes 2) ∧
        (k.getLsbD 235 = true → r.getLsbD 236 = true ∨ k.getLsbD 236 = true ∨ p.joined.isSome = true ∨ p.header.getLsbD 370 = true → passes 3) ∧
        (∀ n x, s.spliceChecks p c r k = (n + 1, x) → passes (n + 1)) ∧
        ∀ e u, s.spliceChecks p c r k = (0, some (e, u)) → ∃ t, exec (.spliceDecision q) s = .next t ∧ t.blocks = u.blocks ∧ t.mem = u.mem ∧
          (Map.find? u.launches h = some p → g ≠ h → Map.find? t.launches g = none ∧ ∃ l, Map.find? t.launches h = some l ∧ l.stage = 2 ∧
            l.record = some (joinRecord r k) ∧ l.header = e.header ∧ (l.joined.map (fun j => (j.seq, j.ring, j.param))) =
              some (c.seq, c.ring, recBits k 127 64))) ∧
    (s.choose s.cands = none → exec .distributorDecision s = .next s) ∧
    (∀ c l ps cs, s.choose s.cands = some (c, l, ps) → s.cands = c :: cs → exec .distributorDecision s = .next (s.placeCand c l ps)) ∧
    (∀ h (l : Launch) n (x : Spot) r, l.record = some r → let b := s.newBlock h l n x
      b.launch = h ∧ b.index = n ∧ b.lid.toNat = (l.seq * 256 + l.queue) % 2 ^ 64 ∧ b.core = x.core ∧ b.part = x.part ∧ b.crews.length = x.crews.length ∧
      b.scratch = [] ∧ b.tiles = [] ∧ ∀ ci c, Map.find? b.crews ci = some c →
        (∀ j, j < 12 → Map.get 0 c.core.masks j = 0) ∧ (l.joined = none → c.core.kreg 0 = BitVec.ofNat 32 (recBits r 127 64) ∧
          c.core.kreg 1 = BitVec.ofNat 32 (recBits r 127 64 / 2 ^ 32)) ∧
        ∀ lane t, Map.find? c.core.threads lane = some t → t.st = .run ∧ t.pc = pcMask (recBits l.header 63 0) ∧ t.v = [] ∧ t.cc = [] ∧ t.cubby = []) ∧
    (∀ b, s.block? blk = some b →
      (s.mayRetire blk b = false → exec (.blockRetire blk) s = .next s) ∧
      (s.mayRetire blk b = true → s.preempts = [] → recQuad b.record = false → ∃ t, exec (.blockRetire blk) s = .next t ∧ t.mem = s.mem ∧
        Map.find? t.blocks blk = none ∧ (∀ k, k ≠ blk → Map.find? t.blocks k = Map.find? s.blocks k) ∧
        ∀ l, Map.find? s.launches b.launch = some l → (Map.find? t.launches b.launch).map Launch.retired = some (l.retired + 1)) ∧
      (s.mayRetire blk b = true → recQuad b.record = true → (∃ e ∈ s.blocks, e.1 ≠ blk ∧ e.2.launch = b.launch ∧ e.2.team = b.team ∧ e.2.gone = false) →
        ∃ t, exec (.blockRetire blk) s = .next t ∧ Map.find? t.blocks blk = some { b with gone := true, crews := [], tiles := [], spoiltTiles := [] })) ∧
    ∀ h l, Map.findBy (fun _ x => x.queue == q && x.seq == l.seq) s.launches = some (h, l) → Map.find? s.launches h = some l → s.mayComplete h l = true →
      let c := s.queue q
      (Map.findBy (fun _ x => x.queue == q && x.stage == 5 && x.seq == c.done) s.launches = none → l.seq ≠ c.done → c.owed = [] →
        exec (.launchComplete q l.seq) s = .next (s.modLaunch h (fun x => { x with stage := 5 }))) ∧
      (l.seq = c.done → l.joined = none → natBits (s.reg .qdone q).toNat 51 3 = 0 → c.doneHold = none →
        (∀ e ∈ s.launches, e.2.queue = q → e.1 = h ∨ (e.2.stage ≠ 5 ∧ e.2.seq ≠ l.seq)) → ∃ t, exec (.launchComplete q l.seq) s = .next t ∧
          Map.find? t.launches h = none ∧ (t.queue q).done = (l.seq + 1) % 2 ^ 56 ∧ (t.queue q).head = (c.head + 1) % ringSize (s.reg .qcfg q).toNat ∧
          t.mem = s.mem)

/-! ### The loader and partitions -/

/-- R351, R361, R407, R410, R413, R414: load requests are queued, run and answered; code is invalidated; a partition's owner and a
core's mode change when what they touch is empty, the counters following their function. -/
def Obligations.LoaderAndPartitions : Prop :=
  ∀ (s : State) (fn core part : Nat) (value : DWord),
    (let ipa := natBits value.toNat 51 6 * 64
     let drops := fn = 0 ∧ areaOk ipa 64 = false
     (drops → exec (.loadreq fn value) s = .next s) ∧
     (¬ drops → exec (.loadreq fn value) s =
       .next { s.setReg .loadreq fn (BitVec.ofNat 64 ipa) with loads := s.loads ++ [⟨fn, ipa⟩] })) ∧
    (∃ t, exec (.icinv fn) s = .next t ∧ { t with cores := s.cores } = s ∧ ∀ k, t.core k = { s.core k with
      icache := (s.core k).icache.filter (fun e => e.2.vf != fn), shelf := (s.core k).shelf.filter (fun e => e.vf != fn) }) ∧
    (s.loads = [] → exec .loaderRun s = .next s) ∧
    (∀ (w : LoadReq) rest, s.loads = w :: rest →
      let own := ipaCtx w.fn
      (translate s own w.addr 0 = .wait → exec .loaderRun s = .next s) ∧
      ∀ pa e1 u1 p2 e2 u2, translate s own w.addr 0 = .ok pa e1 u1 → translate s own w.addr 1 = .ok p2 e2 u2 → pa + 64 ≤ cellarTop →
        let r := s.num pa 64
        let ctx : TCtx := ⟨w.fn, if natBit r 356 then some (natBits r 383 357 * 2 ^ 21, natBits r 175 160) else none, none, 0⟩
        let image := natBits r 63 0
        let code := natBits r 127 64
        let len := natBits r 159 128
        let hdr := natBits r 255 192
        let answers := fun (c at_ : Nat) (more : State → Prop) => ∃ t, exec .loaderRun s = .next t ∧ t.loads = rest ∧
          t.num (pa + 32) 8 = (c + at_ % 2 ^ 32 * 2 ^ 32) % 2 ^ 64 ∧ natBit (t.num (pa + 40) 1) 0 = true ∧
          (∀ k, (∀ e ∈ (t.core k).icache, e.2.vf ≠ w.fn) ∧ ∀ e ∈ (t.core k).shelf, e.vf ≠ w.fn) ∧ more t
        (∀ off, s.span ctx 0 image 128 = .fail off → answers 0x1C0 off (fun _ => True)) ∧
        ∀ head cs, s.span ctx 0 image 128 = .ok head → s.span ctx 0 image (natBits (ofBytesLE (s.readSpan head)) 63 34 * 8) = .ok cs →
          (∀ c at_, buildImage (s.readSpan cs) code len = .error (c, at_) → answers c at_ (fun _ => True)) ∧
          ∀ b ccs hcs, buildImage (s.readSpan cs) code len = .ok b → s.span ctx 1 code len = .ok ccs → s.span ctx 1 hdr 128 = .ok hcs →
            (code % 4096 ≠ 0 ∨ hdr % 128 ≠ 0 → answers 0x1CC 0 (fun _ => True)) ∧
            (∀ off, code % 4096 = 0 → hdr % 128 = 0 → b.liveBad = some off → answers 0x1CD off (fun _ => True)) ∧
            (code % 4096 = 0 → hdr % 128 = 0 → b.liveBad = none → answers 0 0 (fun t => ∀ c ∈ hcs, (⟨w.fn, c.pa⟩ : LoadedHdr) ∈ t.headers))) ∧
    (let v := value &&& 0xBFBFBFBF03
     let mode := natBits v.toNat 1 0
     (384 ≤ core ∨ mode = 3 → exec (.partcfgWrite core value) s = .next s) ∧
     (core < 384 → mode ≠ 3 → mode ≠ s.mode core → exec (.partcfgWrite core value) s = .next (s.modCore core (fun c => { c with partPend := some v }))) ∧
     (core < 384 → mode ≠ 3 → mode = s.mode core →
       let same := ∀ p, p < modeParts (s.mode core) → partOwner v p = partOwner (s.core core).partcfg p
       exec (.partcfgWrite core value) s = .next (s.modCore core (fun c => if same then { c with partcfg := v, partPend := none } else { c with partPend := some v })))) ∧
    (s.switchDue core part = false → exec (.worldSwitch core part) s = .next s) ∧
    ∀ v, (s.core core).partPend = some v → s.switchDue core part = true →
      (natBits v.toNat 1 0 ≠ s.mode core → ∃ t, exec (.worldSwitch core part) s = .next t ∧ (t.core core).partcfg = v ∧ (t.core core).partPend = none ∧
        (∀ p line, p < modeParts (s.mode core) → line < 2 ^ 52 → Map.find? (t.core core).l1 (l1Key p line) = none) ∧ t.blocks = s.blocks) ∧
      (natBits v.toNat 1 0 = s.mode core →
        let old := partOwner (s.core core).partcfg part
        let new := partOwner v part
        ∃ t, exec (.worldSwitch core part) s = .next t ∧ t.blocks = s.blocks ∧
          (t.core core).l1 = (s.core core).l1.filter (fun e => e.1 / 2 ^ 52 != part) ∧
          (∀ p, p < modeParts (s.mode core) → partOwner (t.core core).partcfg p = if p = part then new else partOwner (s.core core).partcfg p) ∧
          (ownEn new = false ∨ s.counterSlot (ownFn new) core part = none → (∀ n, n < 16 → Map.get 0 (t.core core).ctr (16 * part + n) = 0 ∧
            Map.get 0 (t.core core).sel (16 * part + n) = 0) ∧ Map.find? (t.core core).latch part = none) ∧
          (ownEn old = true → ownEn new = false → (∀ p, p < modeParts (s.mode core) → p ≠ part → ownEn (partOwner (s.core core).partcfg p) = false) → ∀ a, s.counterSlot (ownFn old) core part = some a → a + 256 ≤ cellarTop →
            ∀ n, n < modeShare (s.mode core) → t.num (a + 8 * n) 8 = (Map.get 0 (s.core core).ctr (16 * part + n)).toNat ∧
              t.num (a + 128 + 4 * n) 4 = (Map.get 0 (s.core core).sel (16 * part + n)).toNat))

/-! ### Debugging and detected errors -/

/-- R401 to R404, R426, R427, R429 to R431: a detected error rolls back to the checkpoint; a corrected one is counted, and data at rest
is poisoned or its L1 line dropped (what of it is struck is a free choice: log 74, DESIGN CHOICE); a rerun is classified; samples are taken;
stops arrive; a debugger attaches, resumes, steps, stops and reloads. -/
def Obligations.DebugAndErrors : Prop :=
  ∀ (s : State) (fn blk crew core part src : Nat) (value : DWord),
    (∀ b, s.block? blk = some b →
      (b.ended = true ∨ b.gone = true ∨ b.killed = true → exec (.eccDetected blk crew) s = .next s) ∧
      (b.ended = false → b.gone = false → b.killed = false → (s.core b.core).posted = [] →
        (∀ c l, crew < 64 → Map.find? b.crews crew = some c → lowLane c.core.live = some l → c.fences = [] → c.ckLanes = 0 → c.rerun = none →
          ∃ t c' r, exec (.eccDetected blk crew) s = .next t ∧ t.mem = s.mem ∧ (t.crew? blk crew).map Prod.snd = some c' ∧
            { c' with core := c.core, paths := c.paths, deferred := c.deferred, bundles := c.bundles, ord := c.ord, rerun := c.rerun } = c ∧
            c'.core = c.checkpoint.mapLanes (~~~ 0) (fun j t => t.keepCubby (c.thread j)) ∧ c'.paths = [] ∧ c'.bundles = 0 ∧ c'.rerun = some r ∧ r.run = 2 ∧ r.pos = 0 ∧ r.cause = 0x062 ∧
            r.detectedAt = [c.bundles]) ∧
        (∀ x, crew = 64 → b.loft = some x → x.ckPc = 0 → x.rerun = none → ∃ t b' x' r, exec (.eccDetected blk crew) s = .next t ∧ t.mem = s.mem ∧
          t.block? blk = some b' ∧ b'.loft = some x' ∧ b'.tiles = x.ckTiles ∧ b'.loftSrn = x.ckSrn ∧ x'.regs = x.checkpoint ∧ x'.clk = x.ckClk ∧
          x'.flights = x.ckFlights ∧ x'.wait = .none ∧ x'.rerun = some r ∧ r.run = 2 ∧ r.cause = 0x061)) ∧
      (b.ended = false → b.gone = false → b.killed = false →
        (crew = 65 → exec (.eccDetected blk crew) s = .next (s.count b.core b.part 0x0E 0 1)) ∧
        (crew = 66 → 0 < hdrScratch b.header → ∃ t a, exec (.eccDetected blk crew) s = .next t ∧ t.mem = s.mem ∧ a < hdrScratch b.header ∧
          t.block? blk = some { b with spoilt := dedup (b.spoilt ++ eccUnit a) }) ∧
        (crew = 69 → ∃ t a, exec (.eccDetected blk crew) s = .next t ∧ t.mem = s.mem ∧ t.blocks = s.blocks ∧
          (t.poison = s.poison ∨ t.poison = dedup (s.poison ++ eccUnit a))) ∧
        (crew = 70 → ∃ t k, exec (.eccDetected blk crew) s = .next t ∧ t.mem = s.mem ∧ t.blocks = s.blocks ∧
          (t.core b.core).l1 = (s.core b.core).l1.eraseIdx k)) ∧
      (b.rerunClass crew = none → exec (.errorClassify blk crew) s = .next s) ∧
      (b.rerunClass crew = some 1 → exec (.errorClassify blk crew) s =
        .next ((match s.errorInfo b crew 0 with | some t => s.logError t | none => s).modRerun blk crew (fun _ => none))) ∧
      (b.rerunClass crew = some 2 → ∀ i, s.errorInfo b crew 0x063 = some i → exec (.errorClassify blk crew) s =
        .next ((s.killBlock blk i).settleKills (s.blocks.length + 1))) ∧
      (b.rerunClass crew = some 4 → exec (.errorClassify blk crew) s = .next (s.modRerun blk crew (fun _ => none))) ∧
      (b.rerunClass crew = some 3 → ∃ t, exec (.errorClassify blk crew) s = .next t ∧
        (∃ r ∈ t.recs, r.ring = 1 ∧ r.fn = 0 ∧ recBits r.bits 511 503 = 0x064 ∧ recBits r.bits 495 487 = b.core % 2 ^ 9) ∧
        (crew = 64 → (t.core b.core).retired = true) ∧
        (∀ c r, crew ≠ 64 → Map.find? b.crews crew = some c → c.rerun = some r → c.columnOf r.lane ∈ (t.core b.core).retiredCols) ∧
        ((Map.keys s.blocks).Nodup → crew = 64 → (t.block? blk).map Block.leaving = some 4)) ∧
      (∀ c, crew ≠ 64 → Map.find? b.crews crew = some c →
        let addr := fun hit => field c.stop.skid 0 16 + field (s.gts - hit) 32 32
        (c.stop.due = none → exec (.stopBroadcast blk crew) s = .next s) ∧
        ∀ hit at_ l, c.stop.due = some (hit, at_) → lowLane c.core.live = some l → exec (.stopBroadcast blk crew) s =
          .next ((s.trap (threadRecord s b crew c l (c.thread l).pc.toNat 0x181 (addr hit) 15 0 3)).modCrew blk crew
            (fun c => { c with stop := { stopped := true } })))) ∧
    (∀ r : Rerun, ∀ reached, (classOf r reached = some 3 ↔ 4 ≤ r.run ∨ (r.mismatch = true ∧ r.run = 3)) ∧
      (classOf r reached = some 2 ↔ r.run < 3 ∧ r.mismatch = true) ∧
      (classOf r reached = some 1 ↔ (r.run = 0 ∨ r.run = 2 ∨ r.run = 3) ∧ r.mismatch = false ∧ reached = true)) ∧
    (s.sampleDue core part = false → exec (.traceSample core part) s = .next s) ∧
    (∀ p h ci half, s.sampleDue core part = true → s.heldCrews core part = [(p, h, ci, half)] →
      exec (.traceSample core part) s = .next ((s.modCore core (fun c => { c with
        sampleAt := Map.set 0 c.sampleAt part s.clk, sampleNext := Map.set 0 c.sampleNext part (p + 1) })).sampleCrew h ci half)) ∧
    (∀ (b : Block) (c : Crew) (half l : Nat), s.crew? blk crew = some (b, c) →
      let mine := c.core.live &&& subCrew 32 half
      let path := c.paths.headD 0 &&& mine
      lowLane path = some l → (∃ j, mine.getLsbD j = true ∧ (c.thread j).st ≠ .gate) → s.sampleCrew blk crew half =
        s.traceThread b crew c l (c.thread l).pc.toNat 3 (field (halfOf path half) 0 32 + field (c.thread l).st.code.1 32 4)) ∧
    (let i := Instr.dbgattWrite fn value
     ∃ t, exec i s = .next t ∧ t.reg .dbgatt fn = value ∧ (s.reg .dbgatt fn = value → t.blocks = s.blocks) ∧
       (s.reg .dbgatt fn ≠ value → ∀ h b, Map.find? s.blocks h = some b → s.debugs fn b = true → ∃ b', Map.find? t.blocks h = some b' ∧
         ∀ ci c, Map.find? b.crews ci = some c → Map.find? b'.crews ci = some { c with stop := {} })) ∧
    (let resumed := fun (i : Instr) (q : Nat → Bool) => ∃ t, exec i s = .next t ∧ { t with blocks := s.blocks } = s ∧
       ∀ h b, Map.find? s.blocks h = some b → ∃ b', Map.find? t.blocks h = some b' ∧ { b' with crews := b.crews, loft := b.loft } = b ∧
         b'.loft = b.loft.map (fun x => if s.debugs fn b = true ∧ q (b.core * 64 + 48 + b.part) = true then { x with stop := {} } else x) ∧
         ∀ ci c, Map.find? b.crews ci = some c → Map.find? b'.crews ci = some (if s.debugs fn b = true ∧
           (q (srcOf b.core c 0) = true ∨ (b.width = 64 ∧ q (srcOf b.core c 32) = true)) then { c with stop := {} } else c)
     resumed (.resumeAll fn) (fun _ => true) ∧ resumed (.resumeOneCrew fn src) (fun n => n == src)) ∧
    (s.crewAt fn src = none → exec (.step fn src) s = .next s) ∧
    (∀ h ci b c, s.crewAt fn src = some (h, ci) → s.crew? h ci = some (b, c) →
      (c.stop.stopped = false → exec (.step fn src) s = .next s) ∧
      (c.stop.stopped = true → b.runnable c ≠ 0 → exec (.step fn src) s =
        .next (s.modCrew h ci (fun c => { c with stop := { stopped := true, stepping := true } }))) ∧
      (c.stop.stopped = true → b.runnable c = 0 → ∀ l, lowLane c.core.live = some l → exec (.step fn src) s =
        .next (s.trap (threadRecord s b ci c l (c.thread l).pc.toNat 0x184
          (field (c.thread l).st.code.1 0 4 + field (c.thread l).st.code.2 4 4) 15 0 3)))) ∧
    ((∀ e ∈ s.blocks, s.debugs fn e.2 = false) → exec (.stopLaunch fn) s = .next s) ∧
    (∀ h b, Map.findBy (fun _ x => s.debugs fn x) s.blocks = some (h, b) → ∃ t, exec (.stopLaunch fn) s = .next t ∧ { t with blocks := s.blocks } = s ∧
      ∀ k x, Map.find? s.blocks k = some x → x.launch = b.launch → x.ended = false → ∃ y, Map.find? t.blocks k = some y ∧
        ∀ ci c, Map.find? x.crews ci = some c → Map.find? y.crews ci = some (if c.stop.stopped = true ∨ c.stop.due.isSome = true then c
          else { c with stop := { c.stop with due := some (s.gts, s.gts + 4000), skid := 0 } })) ∧
    ∀ h l r, Map.findBy (fun _ x => x.vf == fn && x.record.isSome && namesLaunch (s.reg .dbgatt fn) (BitVec.ofNat 64 x.lid) x.joined.isSome) s.launches = some (h, l) → l.record = some r →
      (recWatch r = 0 → exec (.reloadWatchpoints fn) s = .next s) ∧
      (recWatch r ≠ 0 → (∀ pa e ups, s.watchAt l r ≠ .ok pa e ups) → exec (.reloadWatchpoints fn) s = .next s) ∧
      ∀ pa e ups, recWatch r ≠ 0 → s.watchAt l r = .ok pa e ups →
        exec (.reloadWatchpoints fn) s = .next ((s.useTrans (l.tctx r) e ups).modLaunch h (fun x => { x with watch := s.record pa }))

/-! ### The package -/

/-- R92, R93, R434, R436 to R444: attestation, maintenance mode, links, packages, pod barriers, reset, full service and power. What
fails at bring-up is a free choice (log 13, DESIGN CHOICE); the throttle's step is the model's (log 14, DESIGN CHOICE). -/
def Obligations.PackageEvents : Prop :=
  ∀ (s : State) (k : Nat) (value : DWord),
    (let told := fun (t : State) => t.changedAt = s.gts ∧ (∀ f, f < 64 → Map.get 0 t.irqs (4 * f + 3) = Map.get 0 s.irqs (4 * f + 3) + 1) ∧
       { t with changedAt := s.changedAt, irqs := s.irqs, maint := s.maint, lowGear := s.lowGear, mhz := s.mhz, dies := s.dies } = s
     exec (.attnonce k value) s = .next { s with nonce := Map.set 0 s.nonce (k % 4) value, reportDue := s.reportDue || k % 4 == 3 } ∧
     (s.reportDue = false → exec .attestationReport s = .next s) ∧
     (s.reportDue = true → ∃ t bs, exec .attestationReport s = .next t ∧ t.report = some bs ∧ bs.length = 320 ∧ t.reportDue = false ∧
       (∀ j, j < 4 → ofBytesLE ((bs.drop (8 * j)).take 8) = (Map.get 0 s.nonce j).toNat) ∧
       { t with report := s.report, reportDue := s.reportDue, fresh := s.fresh } = s) ∧
     exec .maintEnter s = .next (s.setReg .devctl 0 1) ∧
     (let due := s.maint = false ∧ (s.reg .devctl 0).getLsbD 0 = true ∧ ∀ e ∈ s.blocks, e.2.vf = 0
      (¬ due → exec .maintEffect s = .next s) ∧
      (due → ∃ t, exec .maintEffect s = .next t ∧ told t ∧ t.maint = true ∧ t.lowGear = s.lowGear ∧ t.mhz = s.mhz ∧ t.dies = s.dies)) ∧
     (∃ t, exec .maintLeave s = .next t ∧ t.maint = false ∧ t.reg .devctl 0 = 0 ∧ (s.maint = true → t.changedAt = s.gts) ∧ t.mem = s.mem) ∧
     (∃ t, exec .fullService s = .next t ∧ (s.lowGear = false → t = s) ∧
       (s.lowGear = true → t.lowGear = false ∧ t.mhz = 1050 ∧ t.changedAt = s.gts ∧ 0 ∈ t.dies ∧ t.mem = s.mem ∧
         (∀ p, p ∈ t.atticUp ↔ p ∈ s.atticUp ∨ (p < 4 ∧ atticDie p ≠ 0 ∧ atticDie p ∈ t.dies)) ∧
         (∀ p, p ∈ t.ladderUp ↔ p ∈ s.ladderUp ∨ (p < 18 ∧ p / 3 ≠ 0 ∧ p / 3 ∈ t.dies)) ∧
         (∀ d, d ≠ 0 → (d ∈ t.dies ↔ 1 ≤ d ∧ d ≤ 5 ∧ natBit ((s.pick 32).1) (d - 1) = false)) ∧
         ∀ d c, 1 ≤ d → d ≤ 5 → d ∉ t.dies → c / 64 = d → (t.core c).retired = true)) ∧
     (let m := ((if s.lowGear then 525 else 1050) * 16 - 1050 * k) / 16
      (m = s.mhz ∨ m = 0 → exec (.thermalThrottle k) s = .next s) ∧
      (m ≠ s.mhz → m ≠ 0 → ∃ t, exec (.thermalThrottle k) s = .next t ∧ told t ∧ t.mhz = m ∧ t.maint = s.maint ∧ t.lowGear = s.lowGear ∧ t.dies = s.dies))) ∧
    exec .thermalShutdown s = .next { s with power := false } ∧
    exec (.ladderPortFailure k) s = .next { s with ladderUp := s.ladderUp.filter (fun p => p != k) } ∧
    exec (.atticLinkDown k) s = .next { s with atticUp := s.atticUp.filter (fun p => p != k) } ∧
    (∃ t, exec .reset s = .next t ∧ { t with agenda := [], picks := [], fresh := 0, verified := true } = State.reset ∧ t.agenda = s.agenda ∧
      (s.picks = [] → t.verified = true)) ∧
    (∃ t, exec (.packageUnreachable k) s = .next t ∧ k ∈ t.unreachable ∧
      (∀ h l, Map.find? s.launches h = some l → k ∈ l.podWait → ∃ l', Map.find? t.launches h = some l' ∧ (6, 0) ∈ l'.broken) ∧
      ∀ h b l ci c lane th, Map.find? s.blocks h = some b → b.ended = false → b.gone = false → Map.find? s.launches b.launch = some l → k ∈ l.podWait →
        Map.find? b.crews ci = some c → Map.find? c.core.threads lane = some th → th.st = .sbarWait 6 →
        ∃ b', Map.find? t.blocks h = some b' ∧ b'.killed = true) ∧
    (k ∈ s.unreachable → exec (.podBarrierTraffic value k) s = .next s) ∧
    (∀ h l, k ∉ s.unreachable → Map.findBy (fun _ x => BitVec.ofNat 64 x.lid == value) s.launches = some (h, l) → Map.find? s.launches h = some l →
      ∃ t l', exec (.podBarrierTraffic value k) s = .next t ∧ Map.find? t.launches h = some l' ∧ l'.podWait = dedup (l.podWait ++ [k]) ∧
        (l'.podArrived = dedup (l.podArrived ++ [k]) ∨ l'.podArrived = []) ∧ t.mem = s.mem) ∧
    (natBits (s.num statusPage 4) 31 16 = s.mhz % 2 ^ 16 ∧ natBit (s.num statusPage 4) 1 = s.maint ∧ natBit (s.num statusPage 4) 0 = s.lowGear)

/-! ### The step -/

/-- R42, R43, R75, R77, R193: a step takes what reaches the machine from outside, then what is due, then an issue opportunity. Where
one crew may issue one path, or one Loft context, and the bytes at its PC decode to a bundle, the step is exec of its slots in
order, after its checks and the advance of its PC, with the end of the cycle after them. A register write behind a TLBI that waits at its
register waits too (13 R313). The order of events is the model's
(log 5, DESIGN CHOICE). -/
def Obligations.StepRunsDecodedInstruction : Prop :=
  ∀ s : State,
    (s.power = false → step s = .fault .noPower) ∧ (s.power = true → s.verified = false → step s = .fault .heldInReset) ∧
    (s.power = true → s.verified = true →
      (∀ e r, s.agenda = e :: r → (encodeSlot true e = none → s.waitsBehind e = none → step s = exec e { s with agenda := r }) ∧
        (∀ fn, encodeSlot true e = none → s.waitsBehind e = some fn → step s = .next ({ s with agenda := r }.holdWrite fn e)) ∧
        ((encodeSlot true e).isSome = true → step s = .next { s with agenda := r })) ∧
      (s.agenda = [] → (∀ e, due s = some e → step s = exec e s) ∧
        (due s = none → s.issuers = [] → step s = .next s.tick) ∧
        (∀ x ws us is b c b2 c2 m l, due s = none → s.picks = [] → s.issuers = [x] → x.crew ≠ 64 → s.crew? x.blk x.crew = some (b, c) →
          c.stop = {} → c.nextEntry = none →
          let s1 := (s.modCrew x.blk x.crew (fun c => { c with lastChosen := s.clk + 1 })).choosePaths x.blk x.crew
          s1.1 = [m] → s1.2.crew? x.blk x.crew = some (b2, c2) → lowLane m = some l →
          let pc := (c2.thread l).pc
          let cur : Cursor := { blk := x.blk, crew := x.crew, lanes := m, eset := m, pc := pc, npc := pc }
          let s2 : State := { s1.2 with pre := c2.core, cur := cur }
          s2.fetch b2 pc.toNat = .words ws us → decodeBundle b2.env ws = .ok is →
          let g : Gang := ⟨{ cur with npc := pcMask (pc.toNat + 8 * ws.length), units := ws.map slotUnit }, is⟩
          let r := (s2.useFetch b2 us).settleGang g
          r.1.cur.eset ≠ 0 → r.2.cur.rolled = false →
          let s3 : State := { r.2 with cur := { r.2.cur with peer := 0 } }
          step s = andThen (runSlots exec is 0 (s3.logIssue.commitLanes r.1)) (fun t =>
            let t2 := t.takeTrap.actHits
            let c3 := match t2.crew? x.blk x.crew with | some (_, c) => c | none => c2
            let out := r.1.issued c3
            let t3 := t2.countIssue b2 (if out != 0 then 1 else 0)
            .next (t3.endCycle x.blk x.crew out (is.any isSafept)).tick)) ∧
        ∀ x y ws us is b, due s = none → s.picks = [] → s.issuers = [x] → x.crew = 64 → s.block? x.blk = some b → b.loft = some y →
          y.wait = .none → y.nextEntry = none →
          let z := { y with lastChosen := s.clk + 1 }
          let b2 := { b with loft := some z }
          let s1 : State := { s.modBlock x.blk (fun _ => b2) with
            cur := { loft := true, blk := x.blk, lanes := 1, eset := 1, pc := y.regs.pc, npc := y.regs.pc }, preL := y.regs }
          s1.fetch b2 y.regs.pc.toNat = .words ws us → decodeBundle (b2.loftEnv (s1.useFetch b2 us) z) ws = .ok is →
          listMax ((y.flights.filter (fun f => overlap (is.flatMap (loftCodes (s1.useFetch b2 us) (b2.loftEnv (s1.useFetch b2 us) z))) f.codes)).map
            (fun f => f.ready)) ≤ y.clk →
          let s2 := s1.useFetch b2 us
          let s3 : State := { s2 with cur := { s2.cur with npc := pcMask (y.regs.pc.toNat + 8 * ws.length), units := ws.map slotUnit } }
          let s4 := (indexed is).foldl (fun (s : State) i => { s with cur := { s.cur with slot := i.1 } }.loftSettle i.2) s3
          ∀ b3 x3, s4.cur.eset ≠ 0 → ({ s4 with cur := { s4.cur with checked := true } }).loft? = some (b3, x3) →
            step s = andThen (runSlots exec is 0 (({ s4 with cur := { s4.cur with checked := true } }).logLoft.count b3.core b3.part 0x03 0 1))
              (fun t => .next (((t.modLoft t.cur.blk (fun x => { x with clk := x.clk + 1 })).actLoftHits.endLoft (is.any isQsafe)).tick)))) ∧
    ∀ i k, runSlots exec [i] k s = andThen (exec i { s with cur := { s.cur with slot := k } }) .next

/-- R45 to R51, R56 to R62: words written out from the tables decode to what they stand for. -/
def Obligations.WordsDecode : Prop :=
  decodeSlot 0x0040004020300000 = .ok (.iadd ⟨⟨0, 0⟩, 4, 2, 3, 0, false, 0, 0, false, false, 0⟩) ∧ slotLast 0x0040004020300000 = false ∧
  decodeSlot 0x804800A020600A80 = .ok (.iadc ⟨⟨0, 0⟩, 10, 2, 6, 0, true, 1, 1, false, false, 0⟩) ∧ slotLast 0x804800A020600A80 = true ∧
  decodeSlot 0x810F210101200008 = .ok (.sel ⟨⟨3, 2⟩, 16, 16, 18, 0, false, 0, 8⟩) ∧
  decodeSlot 0x90CC006040500A10 = .ok (.f2n ⟨⟨0, 0⟩, 6, 4, 5, 0, true, 1, 0x10⟩) ∧
  decodeSlot 0xA08020704F000000 = .ok (.atomS ⟨⟨0, 2⟩, 7, 4, 240, 0, 0, 0, 0, false, 0⟩) ∧
  decodeSlot 0xA0A00050B064D200 = .ok (.waita ⟨⟨0, 0⟩, 5, 11, 6, 4, 3, 1, 1, 0⟩) ∧
  decodeSlot 0xB040300000003002 = .ok (.bra ⟨⟨0, 3⟩, 0, 3, 0, 1, false⟩) ∧
  decodeSlot 0xC09B240000000000 = .ok (.tresume ⟨⟨3, 2⟩, 64, 0, 0, 0, false, 0, 0⟩) ∧
  decodeSlot 0xD04004000F00801F = .ok (.tld ⟨⟨0, 0⟩, 64, 0, 240, 8, 0, 0x1F⟩) ∧
  decodeSlot 0xE040049404100207 = .ok (.tmma ⟨⟨0, 0⟩, 73, 64, 65, 0, 1, 7⟩) ∧
  decodeSlot 0xF06404540440820F = .ok (.tqnt ⟨⟨0, 0⟩, 69, 64, 68, 8, 1, 0xF⟩) ∧
  decodeSlot 0x8FFC000000000000 = .error .illegalOpcode

/-- R440: after reset the package is in low gear on die 0 with no work, and HOLD is 4,000; the values that the manual leaves open are
the model's (logs 1, 2, 13 to 16). Every sparse table is canonical. -/
def Obligations.ResetState : Prop :=
  let s := State.reset
  Memory.wf s.mem ∧ s.lowGear = true ∧ s.dies = [0] ∧ s.atticUp = [0] ∧ s.ladderUp = [0, 1, 2] ∧ s.mhz = 525 ∧ s.maint = false ∧ s.blocks = [] ∧ s.launches = [] ∧ s.gts = 0 ∧
    (∀ fn, s.reg .hold fn = 4000) ∧ (∀ r fn, r ≠ RegName.hold → s.reg r fn = 0) ∧ (∀ c, s.mode c = 0 ∧ partOwner (s.core c).partcfg 0 = 0x80) ∧
    (∀ c w, Map.get 0x40 (s.core c).icway w = 0x40) ∧ (∀ a, a / 4096 ≠ statusPage / 4096 → s.byte a = 0) ∧ step s = .next s.tick

/-- Every step keeps memory in its canonical form: addresses strictly rising, and no byte listed that an unlisted address reads as
(log 1, DESIGN CHOICE). -/
def Obligations.StepKeepsMemory : Prop :=
  ∀ s t : State, Memory.wf s.mem → step s = .next t → Memory.wf t.mem
end

