-- ==== Sys2Proof/Laws/Maps.lean ====
section
/-! SUPPORT. The laws of the sparse maps: what a read finds after each update, and that every update keeps the canonical
form. -/

namespace Sys2Proof.Machine

variable {α : Type}

/-! ### Reads after updates -/

@[simp] theorem Map.find?_nil (k : Nat) : Map.find? ([] : Map α) k = none := rfl

theorem Map.find?_insert (m : Map α) (k : Nat) (a : α) (j : Nat) :
    Map.find? (Map.insert m k a) j = if k = j then some a else Map.find? m j := by
  induction m with
  | nil => by_cases h : k = j <;> simp [Map.insert, Map.find?, h]
  | cons e r ih =>
    obtain ⟨i, b⟩ := e
    unfold Map.insert
    split
    · by_cases h : k = j <;> simp [Map.find?, h]
    · split
      · rename_i h2; subst h2
        by_cases h : k = j <;> simp [Map.find?, h]
      · by_cases h : k = j
        · subst h; simp_all [Map.find?]; intro h; exact absurd h.symm (by assumption)
        · simp_all [Map.find?]

@[simp] theorem Map.find?_insert_self (m : Map α) (k : Nat) (a : α) : Map.find? (Map.insert m k a) k = some a := by
  simp [Map.find?_insert]

theorem Map.find?_insert_ne (m : Map α) {k j : Nat} (a : α) (h : k ≠ j) : Map.find? (Map.insert m k a) j = Map.find? m j := by
  simp [Map.find?_insert, h]

theorem Map.find?_erase (m : Map α) (k j : Nat) :
    Map.find? (Map.erase m k) j = if k = j then none else Map.find? m j := by
  induction m with
  | nil => simp [Map.erase]
  | cons e r ih =>
    obtain ⟨i, b⟩ := e
    by_cases h1 : i = k <;> by_cases h : k = j <;> by_cases h3 : i = j <;> simp_all [Map.erase, Map.find?]

theorem Map.find?_modify (m : Map α) (k : Nat) (f : α → α) (j : Nat) :
    Map.find? (Map.modify m k f) j = if k = j then (Map.find? m j).map f else Map.find? m j := by
  induction m with
  | nil => simp [Map.modify]
  | cons e r ih =>
    obtain ⟨i, b⟩ := e
    by_cases h1 : i = k <;> by_cases h : k = j <;> by_cases h3 : i = j <;> simp_all [Map.modify, Map.find?]

@[simp] theorem Map.find?_modify_self (m : Map α) (k : Nat) (f : α → α) :
    Map.find? (Map.modify m k f) k = (Map.find? m k).map f := by simp [Map.find?_modify]

theorem Map.find?_modify_ne (m : Map α) {k j : Nat} (f : α → α) (h : k ≠ j) :
    Map.find? (Map.modify m k f) j = Map.find? m j := by simp [Map.find?_modify, h]

@[simp] theorem Map.find?_mapVals {β : Type} (f : Nat → α → β) (m : Map α) (j : Nat) :
    Map.find? (Map.mapVals f m) j = (Map.find? m j).map (f j) := by
  induction m with
  | nil => rfl
  | cons e r ih =>
    obtain ⟨i, b⟩ := e
    by_cases h : i = j <;> simp_all [Map.mapVals, Map.find?]

/-- A read after a write: the value at its own key, what was there at any other. -/
theorem Map.modify_congr {m : Map α} {k : Nat} {f g : α → α} (h : ∀ a, Map.find? m k = some a → f a = g a) :
    Map.modify m k f = Map.modify m k g := by
  induction m with
  | nil => rfl
  | cons e r ih =>
    obtain ⟨i, a⟩ := e
    simp only [Map.modify]
    by_cases hi : i = k
    · rw [if_pos hi, if_pos hi, h a (by simp [Map.find?, hi])]
    · rw [if_neg hi, if_neg hi, ih (fun b hb => h b (by simp [Map.find?, hi, hb]))]

theorem Map.modify_modify (m : Map α) (k : Nat) (f g : α → α) :
    Map.modify (Map.modify m k f) k g = Map.modify m k (fun a => g (f a)) := by
  induction m with
  | nil => rfl
  | cons e r ih =>
    obtain ⟨i, a⟩ := e
    by_cases hi : i = k <;> simp [Map.modify, hi, ih]

theorem Map.get_set [DecidableEq α] (d : α) (m : Map α) (k : Nat) (a : α) (j : Nat) :
    Map.get d (Map.set d m k a) j = if k = j then a else Map.get d m j := by
  by_cases h : a = d <;> by_cases hk : k = j <;> simp_all [Map.get, Map.set, Map.find?_erase, Map.find?_insert]

@[simp] theorem Map.get_set_self [DecidableEq α] (d : α) (m : Map α) (k : Nat) (a : α) : Map.get d (Map.set d m k a) k = a := by
  simp [Map.get_set]

theorem Map.get_set_ne [DecidableEq α] (d : α) (m : Map α) {k j : Nat} (a : α) (h : k ≠ j) :
    Map.get d (Map.set d m k a) j = Map.get d m j := by simp [Map.get_set, h]

@[simp] theorem Map.get_nil (d : α) (k : Nat) : Map.get d ([] : Map α) k = d := rfl

/-- A byte after a run of bytes is written: the run's where it lies within it, what was there elsewhere. -/
theorem Map.get_setBytes (d : Byte) (m : Map Byte) (a : Nat) (bs : List Byte) (j : Nat) :
    Map.get d (Map.setBytes d m a bs) j = if a ≤ j ∧ j < a + bs.length then bs.getD (j - a) d else Map.get d m j := by
  induction bs generalizing m a with
  | nil => simp [Map.setBytes] <;> intros <;> omega
  | cons b bs ih =>
    rw [Map.setBytes, ih, Map.get_set]
    by_cases h : a = j
    · subst h; simp <;> (intro h; omega)
    · by_cases h1 : a + 1 ≤ j ∧ j < a + 1 + bs.length
      · rw [if_pos h1, if_pos (by simp; omega)]
        obtain ⟨n, rfl⟩ : ∃ n, j = a + 1 + n := ⟨j - (a + 1), by omega⟩
        simp [show a + 1 + n - a = n + 1 by omega]
      · rw [if_neg h1, if_neg h, if_neg (by simp; omega)]

/-- The bytes of a run read back after they are written. -/
theorem Map.bytes_setBytes (d : Byte) (m : Map Byte) (a : Nat) (bs : List Byte) :
    Map.bytes d (Map.setBytes d m a bs) a bs.length = bs := by
  apply List.ext_getElem
  · simp [Map.bytes]
  · intro i h1 h2
    simp [Map.bytes, Map.get_setBytes, h2]

theorem Map.find?_filter (m : Map α) (q : Nat → Bool) (j : Nat) :
    Map.find? (m.filter (fun e => q e.1)) j = if q j then Map.find? m j else none := by
  induction m with
  | nil => simp
  | cons e r ih =>
    obtain ⟨i, b⟩ := e
    by_cases h1 : q i <;> by_cases h2 : i = j <;> simp_all [Map.find?]

/-- A read after a range is made to hold the default. -/
theorem Map.get_clearRange (d : α) (m : Map α) (a n j : Nat) :
    Map.get d (Map.clearRange m a n) j = if a ≤ j ∧ j < a + n then d else Map.get d m j := by
  have h := Map.find?_filter m (fun j => decide (j < a) || decide (a + n ≤ j)) j
  simp only [Map.get, Map.clearRange, h]
  by_cases h1 : j < a <;> by_cases h2 : a + n ≤ j <;> simp [h1, h2] <;> intros <;> omega

/-! ### The canonical form -/

theorem Map.risesFrom_mono {b : Nat} {c : Option Nat} {m : Map α} (h : Map.risesFrom (some b) m = true)
    (hc : ∀ x, c = some x → x ≤ b) : Map.risesFrom c m = true := by
  cases m with
  | nil => cases c <;> rfl
  | cons e r =>
    obtain ⟨i, x⟩ := e
    cases c with
    | none => simp_all [Map.risesFrom]
    | some y =>
      have := hc y rfl
      simp_all [Map.risesFrom]; omega

theorem Map.risesFrom_insert (m : Map α) (c : Option Nat) (k : Nat) (a : α) (h : Map.risesFrom c m = true)
    (hk : ∀ x, c = some x → x < k) : Map.risesFrom c (Map.insert m k a) = true := by
  induction m generalizing c with
  | nil => cases c <;> simp_all [Map.insert, Map.risesFrom]
  | cons e r ih =>
    obtain ⟨i, b⟩ := e
    by_cases h1 : k < i
    · cases c <;> simp_all [Map.insert, Map.risesFrom]
    · by_cases h2 : k = i
      · subst h2
        cases c <;> simp_all [Map.insert, Map.risesFrom]
      · have h3 : Map.risesFrom (some i) (Map.insert r k a) = true :=
          ih (some i) (by cases c <;> simp_all [Map.risesFrom]) (by intro x hx; cases hx; omega)
        have h4 : Map.insert ((i, b) :: r) k a = (i, b) :: Map.insert r k a := by simp [Map.insert, h1, h2]
        rw [h4]
        cases c <;> simp_all [Map.risesFrom]

theorem Map.risesFrom_filter (m : Map α) (c : Option Nat) (q : Nat × α → Bool) (h : Map.risesFrom c m = true) :
    Map.risesFrom c (m.filter q) = true := by
  induction m generalizing c with
  | nil => exact h
  | cons e r ih =>
    obtain ⟨i, b⟩ := e
    have h1 : Map.risesFrom (some i) r = true := by cases c <;> simp_all [Map.risesFrom]
    have h2 := ih (some i) h1
    by_cases hq : q (i, b)
    · cases c <;> simp_all [Map.risesFrom, List.filter]
    · simp only [List.filter, hq]
      refine Map.risesFrom_mono h2 ?_
      intro x hx; subst hx
      simp only [Map.risesFrom, Bool.and_eq_true, decide_eq_true_eq] at h
      omega

theorem Map.erase_eq_filter (m : Map α) (k : Nat) : Map.erase m k = m.filter (fun e => decide (e.1 ≠ k)) := by
  induction m with
  | nil => rfl
  | cons e r ih =>
    obtain ⟨i, b⟩ := e
    by_cases h : i = k <;> simp_all [Map.erase]

theorem Map.mem_insert {m : Map α} {k : Nat} {a : α} {e : Nat × α} (h : e ∈ Map.insert m k a) : e = (k, a) ∨ e ∈ m := by
  induction m with
  | nil => simpa [Map.insert] using h
  | cons x r ih =>
    obtain ⟨i, b⟩ := x
    unfold Map.insert at h
    split at h
    · simpa using h
    · split at h
      · simp only [List.mem_cons] at h ⊢; rcases h with h | h <;> simp [h]
      · simp only [List.mem_cons] at h ⊢
        rcases h with h | h
        · simp [h]
        · rcases ih h with h | h <;> simp [h]

theorem Map.rises_insert {m : Map α} (k : Nat) (a : α) (h : Map.rises m = true) : Map.rises (Map.insert m k a) = true :=
  Map.risesFrom_insert m none k a h (by intro x hx; cases hx)

theorem Map.rises_filter {m : Map α} (q : Nat × α → Bool) (h : Map.rises m = true) : Map.rises (m.filter q) = true :=
  Map.risesFrom_filter m none q h

variable [DecidableEq α]

theorem Map.wf_filter {d : α} {m : Map α} (q : Nat × α → Bool) (h : Map.wf d m = true) : Map.wf d (m.filter q) = true := by
  simp only [Map.wf, Bool.and_eq_true, List.all_eq_true] at h ⊢
  exact ⟨Map.rises_filter q h.1, fun e he => h.2 e (List.mem_filter.mp he).1⟩

/-- A write keeps the canonical form. -/
theorem Map.wf_set {d : α} {m : Map α} (k : Nat) (a : α) (h : Map.wf d m = true) : Map.wf d (Map.set d m k a) = true := by
  unfold Map.set
  split
  · rw [Map.erase_eq_filter]; exact Map.wf_filter _ h
  · rename_i ha
    simp only [Map.wf, Bool.and_eq_true, List.all_eq_true, decide_eq_true_eq] at h ⊢
    refine ⟨Map.rises_insert k a h.1, fun e he => ?_⟩
    rcases Map.mem_insert he with rfl | he
    · exact ha
    · exact h.2 e he

theorem Map.wf_clearRange {d : α} {m : Map α} (a n : Nat) (h : Map.wf d m = true) : Map.wf d (Map.clearRange m a n) = true :=
  Map.wf_filter _ h

omit [DecidableEq α] in
theorem Map.wf_setBytes {d : Byte} {m : Map Byte} (a : Nat) (bs : List Byte) (h : Map.wf d m = true) :
    Map.wf d (Map.setBytes d m a bs) = true := by
  induction bs generalizing m a with
  | nil => exact h
  | cons b bs ih => exact ih (a + 1) (Map.wf_set a b h)

omit [DecidableEq α] in
theorem Map.find?_none_of_risesFrom {m : Map α} {b : Nat} (h : Map.risesFrom (some b) m = true) {k : Nat} (hk : k ≤ b) :
    Map.find? m k = none := by
  induction m generalizing b with
  | nil => rfl
  | cons e r ih =>
    obtain ⟨i, x⟩ := e
    simp only [Map.risesFrom, Bool.and_eq_true, decide_eq_true_eq] at h
    rw [Map.find?, if_neg (by omega)]
    exact ih h.2 (by omega)

omit [DecidableEq α] in
theorem Map.rises_tail {e : Nat × α} {r : Map α} (h : Map.rises (e :: r) = true) : Map.risesFrom (some e.1) r = true := by
  simpa [Map.rises, Map.risesFrom] using h

omit [DecidableEq α] in
theorem Map.rises_of_tail {e : Nat × α} {r : Map α} (h : Map.rises (e :: r) = true) : Map.rises r = true :=
  Map.risesFrom_mono (Map.rises_tail h) (by intro x hx; cases hx)

omit [DecidableEq α] in
/-- Two maps whose keys rise and that find the same entries are the same data. -/
theorem Map.ext_find? {m n : Map α} (hm : Map.rises m = true) (hn : Map.rises n = true)
    (h : ∀ k, Map.find? m k = Map.find? n k) : m = n := by
  induction m generalizing n with
  | nil =>
    cases n with
    | nil => rfl
    | cons e r => have := h e.1; simp [Map.find?] at this
  | cons e r ih =>
    cases n with
    | nil => have := h e.1; simp [Map.find?] at this
    | cons f t =>
      obtain ⟨i, a⟩ := e
      obtain ⟨j, b⟩ := f
      have hi := h i
      have hj := h j
      have hij : i = j := by
        rcases Nat.lt_trichotomy i j with hlt | heq | hgt
        · rw [Map.find?, if_pos rfl, Map.find?, if_neg (by omega),
            Map.find?_none_of_risesFrom (Map.rises_tail hn) (by simp; omega)] at hi
          cases hi
        · exact heq
        · rw [Map.find?, if_neg (by omega), Map.find?_none_of_risesFrom (Map.rises_tail hm) (by simp; omega),
            Map.find?, if_pos rfl] at hj
          cases hj
      subst hij
      have hab : a = b := by simpa [Map.find?] using hi
      subst hab
      rw [ih (Map.rises_of_tail hm) (Map.rises_of_tail hn) ?_]
      intro k
      by_cases hk : i = k
      · subst hk
        rw [Map.find?_none_of_risesFrom (Map.rises_tail hm) (Nat.le_refl _), Map.find?_none_of_risesFrom (Map.rises_tail hn) (Nat.le_refl _)]
      · have := h k; simpa [Map.find?, hk] using this

omit [DecidableEq α] in
theorem Map.find?_mem {m : Map α} {k : Nat} {a : α} (h : Map.find? m k = some a) : (k, a) ∈ m := by
  induction m with
  | nil => cases h
  | cons e r ih =>
    obtain ⟨i, b⟩ := e
    unfold Map.find? at h
    split at h
    · rename_i hi; subst hi; simp_all
    · exact List.mem_cons_of_mem _ (ih h)

/-- Two maps in canonical form that read alike are the same data. -/
theorem Map.ext_get {d : α} {m n : Map α} (hm : Map.wf d m = true) (hn : Map.wf d n = true)
    (h : ∀ k, Map.get d m k = Map.get d n k) : m = n := by
  simp only [Map.wf, Bool.and_eq_true, List.all_eq_true, decide_eq_true_eq] at hm hn
  refine Map.ext_find? hm.1 hn.1 fun k => ?_
  have hk := h k
  unfold Map.get at hk
  cases h1 : Map.find? m k <;> cases h2 : Map.find? n k
  · rfl
  · rw [h1, h2] at hk; exact absurd hk.symm (hn.2 _ (Map.find?_mem h2))
  · rw [h1, h2] at hk; exact absurd hk (hm.2 _ (Map.find?_mem h1))
  · rw [h1, h2] at hk; simp_all

end Sys2Proof.Machine
end

