-- ==== Sys2Proof/Laws/State.lean ====
section
/-! SUPPORT. What each update of State leaves alone, field by field, so that no proof unfolds a record update. -/

namespace Sys2Proof.Machine

variable (s : State)


/-! ### modCore -/

@[simp] theorem State.modCore_mem (c : Nat) (f : CoreState → CoreState) : (s.modCore c f).mem = s.mem := rfl
@[simp] theorem State.modCore_tags (c : Nat) (f : CoreState → CoreState) : (s.modCore c f).tags = s.tags := rfl
@[simp] theorem State.modCore_owners (c : Nat) (f : CoreState → CoreState) : (s.modCore c f).owners = s.owners := rfl
@[simp] theorem State.modCore_retiredFrames (c : Nat) (f : CoreState → CoreState) : (s.modCore c f).retiredFrames = s.retiredFrames := rfl
@[simp] theorem State.modCore_poison (c : Nat) (f : CoreState → CoreState) : (s.modCore c f).poison = s.poison := rfl
@[simp] theorem State.modCore_failing (c : Nat) (f : CoreState → CoreState) : (s.modCore c f).failing = s.failing := rfl
@[simp] theorem State.modCore_carved (c : Nat) (f : CoreState → CoreState) : (s.modCore c f).carved = s.carved := rfl
@[simp] theorem State.modCore_pool (c : Nat) (f : CoreState → CoreState) : (s.modCore c f).pool = s.pool := rfl
@[simp] theorem State.modCore_frozen (c : Nat) (f : CoreState → CoreState) : (s.modCore c f).frozen = s.frozen := rfl
@[simp] theorem State.modCore_tlbis (c : Nat) (f : CoreState → CoreState) : (s.modCore c f).tlbis = s.tlbis := rfl
@[simp] theorem State.modCore_l2tlb (c : Nat) (f : CoreState → CoreState) : (s.modCore c f).l2tlb = s.l2tlb := rfl
@[simp] theorem State.modCore_regs (c : Nat) (f : CoreState → CoreState) : (s.modCore c f).regs = s.regs := rfl
@[simp] theorem State.modCore_blocks (c : Nat) (f : CoreState → CoreState) : (s.modCore c f).blocks = s.blocks := rfl
@[simp] theorem State.modCore_launches (c : Nat) (f : CoreState → CoreState) : (s.modCore c f).launches = s.launches := rfl
@[simp] theorem State.modCore_queues (c : Nat) (f : CoreState → CoreState) : (s.modCore c f).queues = s.queues := rfl
@[simp] theorem State.modCore_pageReqs (c : Nat) (f : CoreState → CoreState) : (s.modCore c f).pageReqs = s.pageReqs := rfl
@[simp] theorem State.modCore_nextReq (c : Nat) (f : CoreState → CoreState) : (s.modCore c f).nextReq = s.nextReq := rfl
@[simp] theorem State.modCore_saved (c : Nat) (f : CoreState → CoreState) : (s.modCore c f).saved = s.saved := rfl
@[simp] theorem State.modCore_preempts (c : Nat) (f : CoreState → CoreState) : (s.modCore c f).preempts = s.preempts := rfl
@[simp] theorem State.modCore_recs (c : Nat) (f : CoreState → CoreState) : (s.modCore c f).recs = s.recs := rfl
@[simp] theorem State.modCore_loads (c : Nat) (f : CoreState → CoreState) : (s.modCore c f).loads = s.loads := rfl
@[simp] theorem State.modCore_headers (c : Nat) (f : CoreState → CoreState) : (s.modCore c f).headers = s.headers := rfl
@[simp] theorem State.modCore_splices (c : Nat) (f : CoreState → CoreState) : (s.modCore c f).splices = s.splices := rfl
@[simp] theorem State.modCore_switchedIn (c : Nat) (f : CoreState → CoreState) : (s.modCore c f).switchedIn = s.switchedIn := rfl
@[simp] theorem State.modCore_switchedFrom (c : Nat) (f : CoreState → CoreState) : (s.modCore c f).switchedFrom = s.switchedFrom := rfl
@[simp] theorem State.modCore_heldWrites (c : Nat) (f : CoreState → CoreState) : (s.modCore c f).heldWrites = s.heldWrites := rfl
@[simp] theorem State.modCore_wheelAt (c : Nat) (f : CoreState → CoreState) : (s.modCore c f).wheelAt = s.wheelAt := rfl
@[simp] theorem State.modCore_sctrLatch (c : Nat) (f : CoreState → CoreState) : (s.modCore c f).sctrLatch = s.sctrLatch := rfl
@[simp] theorem State.modCore_irqs (c : Nat) (f : CoreState → CoreState) : (s.modCore c f).irqs = s.irqs := rfl
@[simp] theorem State.modCore_gts (c : Nat) (f : CoreState → CoreState) : (s.modCore c f).gts = s.gts := rfl
@[simp] theorem State.modCore_clk (c : Nat) (f : CoreState → CoreState) : (s.modCore c f).clk = s.clk := rfl
@[simp] theorem State.modCore_phase (c : Nat) (f : CoreState → CoreState) : (s.modCore c f).phase = s.phase := rfl
@[simp] theorem State.modCore_dies (c : Nat) (f : CoreState → CoreState) : (s.modCore c f).dies = s.dies := rfl
@[simp] theorem State.modCore_lowGear (c : Nat) (f : CoreState → CoreState) : (s.modCore c f).lowGear = s.lowGear := rfl
@[simp] theorem State.modCore_mhz (c : Nat) (f : CoreState → CoreState) : (s.modCore c f).mhz = s.mhz := rfl
@[simp] theorem State.modCore_maint (c : Nat) (f : CoreState → CoreState) : (s.modCore c f).maint = s.maint := rfl
@[simp] theorem State.modCore_changedAt (c : Nat) (f : CoreState → CoreState) : (s.modCore c f).changedAt = s.changedAt := rfl
@[simp] theorem State.modCore_atticUp (c : Nat) (f : CoreState → CoreState) : (s.modCore c f).atticUp = s.atticUp := rfl
@[simp] theorem State.modCore_ladderUp (c : Nat) (f : CoreState → CoreState) : (s.modCore c f).ladderUp = s.ladderUp := rfl
@[simp] theorem State.modCore_unreachable (c : Nat) (f : CoreState → CoreState) : (s.modCore c f).unreachable = s.unreachable := rfl
@[simp] theorem State.modCore_nonce (c : Nat) (f : CoreState → CoreState) : (s.modCore c f).nonce = s.nonce := rfl
@[simp] theorem State.modCore_reportDue (c : Nat) (f : CoreState → CoreState) : (s.modCore c f).reportDue = s.reportDue := rfl
@[simp] theorem State.modCore_report (c : Nat) (f : CoreState → CoreState) : (s.modCore c f).report = s.report := rfl
@[simp] theorem State.modCore_power (c : Nat) (f : CoreState → CoreState) : (s.modCore c f).power = s.power := rfl
@[simp] theorem State.modCore_verified (c : Nat) (f : CoreState → CoreState) : (s.modCore c f).verified = s.verified := rfl
@[simp] theorem State.modCore_readOut (c : Nat) (f : CoreState → CoreState) : (s.modCore c f).readOut = s.readOut := rfl
@[simp] theorem State.modCore_agenda (c : Nat) (f : CoreState → CoreState) : (s.modCore c f).agenda = s.agenda := rfl
@[simp] theorem State.modCore_picks (c : Nat) (f : CoreState → CoreState) : (s.modCore c f).picks = s.picks := rfl
@[simp] theorem State.modCore_fresh (c : Nat) (f : CoreState → CoreState) : (s.modCore c f).fresh = s.fresh := rfl
@[simp] theorem State.modCore_nextId (c : Nat) (f : CoreState → CoreState) : (s.modCore c f).nextId = s.nextId := rfl
@[simp] theorem State.modCore_cur (c : Nat) (f : CoreState → CoreState) : (s.modCore c f).cur = s.cur := rfl
@[simp] theorem State.modCore_pre (c : Nat) (f : CoreState → CoreState) : (s.modCore c f).pre = s.pre := rfl
@[simp] theorem State.modCore_preL (c : Nat) (f : CoreState → CoreState) : (s.modCore c f).preL = s.preL := rfl

/-! ### modBlock -/

@[simp] theorem State.modBlock_mem (b : Nat) (f : Block → Block) : (s.modBlock b f).mem = s.mem := rfl
@[simp] theorem State.modBlock_tags (b : Nat) (f : Block → Block) : (s.modBlock b f).tags = s.tags := rfl
@[simp] theorem State.modBlock_owners (b : Nat) (f : Block → Block) : (s.modBlock b f).owners = s.owners := rfl
@[simp] theorem State.modBlock_retiredFrames (b : Nat) (f : Block → Block) : (s.modBlock b f).retiredFrames = s.retiredFrames := rfl
@[simp] theorem State.modBlock_poison (b : Nat) (f : Block → Block) : (s.modBlock b f).poison = s.poison := rfl
@[simp] theorem State.modBlock_failing (b : Nat) (f : Block → Block) : (s.modBlock b f).failing = s.failing := rfl
@[simp] theorem State.modBlock_carved (b : Nat) (f : Block → Block) : (s.modBlock b f).carved = s.carved := rfl
@[simp] theorem State.modBlock_pool (b : Nat) (f : Block → Block) : (s.modBlock b f).pool = s.pool := rfl
@[simp] theorem State.modBlock_frozen (b : Nat) (f : Block → Block) : (s.modBlock b f).frozen = s.frozen := rfl
@[simp] theorem State.modBlock_tlbis (b : Nat) (f : Block → Block) : (s.modBlock b f).tlbis = s.tlbis := rfl
@[simp] theorem State.modBlock_l2tlb (b : Nat) (f : Block → Block) : (s.modBlock b f).l2tlb = s.l2tlb := rfl
@[simp] theorem State.modBlock_regs (b : Nat) (f : Block → Block) : (s.modBlock b f).regs = s.regs := rfl
@[simp] theorem State.modBlock_cores (b : Nat) (f : Block → Block) : (s.modBlock b f).cores = s.cores := rfl
@[simp] theorem State.modBlock_launches (b : Nat) (f : Block → Block) : (s.modBlock b f).launches = s.launches := rfl
@[simp] theorem State.modBlock_queues (b : Nat) (f : Block → Block) : (s.modBlock b f).queues = s.queues := rfl
@[simp] theorem State.modBlock_pageReqs (b : Nat) (f : Block → Block) : (s.modBlock b f).pageReqs = s.pageReqs := rfl
@[simp] theorem State.modBlock_nextReq (b : Nat) (f : Block → Block) : (s.modBlock b f).nextReq = s.nextReq := rfl
@[simp] theorem State.modBlock_saved (b : Nat) (f : Block → Block) : (s.modBlock b f).saved = s.saved := rfl
@[simp] theorem State.modBlock_preempts (b : Nat) (f : Block → Block) : (s.modBlock b f).preempts = s.preempts := rfl
@[simp] theorem State.modBlock_recs (b : Nat) (f : Block → Block) : (s.modBlock b f).recs = s.recs := rfl
@[simp] theorem State.modBlock_loads (b : Nat) (f : Block → Block) : (s.modBlock b f).loads = s.loads := rfl
@[simp] theorem State.modBlock_headers (b : Nat) (f : Block → Block) : (s.modBlock b f).headers = s.headers := rfl
@[simp] theorem State.modBlock_splices (b : Nat) (f : Block → Block) : (s.modBlock b f).splices = s.splices := rfl
@[simp] theorem State.modBlock_switchedIn (b : Nat) (f : Block → Block) : (s.modBlock b f).switchedIn = s.switchedIn := rfl
@[simp] theorem State.modBlock_switchedFrom (b : Nat) (f : Block → Block) : (s.modBlock b f).switchedFrom = s.switchedFrom := rfl
@[simp] theorem State.modBlock_heldWrites (b : Nat) (f : Block → Block) : (s.modBlock b f).heldWrites = s.heldWrites := rfl
@[simp] theorem State.modBlock_wheelAt (b : Nat) (f : Block → Block) : (s.modBlock b f).wheelAt = s.wheelAt := rfl
@[simp] theorem State.modBlock_sctrLatch (b : Nat) (f : Block → Block) : (s.modBlock b f).sctrLatch = s.sctrLatch := rfl
@[simp] theorem State.modBlock_irqs (b : Nat) (f : Block → Block) : (s.modBlock b f).irqs = s.irqs := rfl
@[simp] theorem State.modBlock_gts (b : Nat) (f : Block → Block) : (s.modBlock b f).gts = s.gts := rfl
@[simp] theorem State.modBlock_clk (b : Nat) (f : Block → Block) : (s.modBlock b f).clk = s.clk := rfl
@[simp] theorem State.modBlock_phase (b : Nat) (f : Block → Block) : (s.modBlock b f).phase = s.phase := rfl
@[simp] theorem State.modBlock_dies (b : Nat) (f : Block → Block) : (s.modBlock b f).dies = s.dies := rfl
@[simp] theorem State.modBlock_lowGear (b : Nat) (f : Block → Block) : (s.modBlock b f).lowGear = s.lowGear := rfl
@[simp] theorem State.modBlock_mhz (b : Nat) (f : Block → Block) : (s.modBlock b f).mhz = s.mhz := rfl
@[simp] theorem State.modBlock_maint (b : Nat) (f : Block → Block) : (s.modBlock b f).maint = s.maint := rfl
@[simp] theorem State.modBlock_changedAt (b : Nat) (f : Block → Block) : (s.modBlock b f).changedAt = s.changedAt := rfl
@[simp] theorem State.modBlock_atticUp (b : Nat) (f : Block → Block) : (s.modBlock b f).atticUp = s.atticUp := rfl
@[simp] theorem State.modBlock_ladderUp (b : Nat) (f : Block → Block) : (s.modBlock b f).ladderUp = s.ladderUp := rfl
@[simp] theorem State.modBlock_unreachable (b : Nat) (f : Block → Block) : (s.modBlock b f).unreachable = s.unreachable := rfl
@[simp] theorem State.modBlock_nonce (b : Nat) (f : Block → Block) : (s.modBlock b f).nonce = s.nonce := rfl
@[simp] theorem State.modBlock_reportDue (b : Nat) (f : Block → Block) : (s.modBlock b f).reportDue = s.reportDue := rfl
@[simp] theorem State.modBlock_report (b : Nat) (f : Block → Block) : (s.modBlock b f).report = s.report := rfl
@[simp] theorem State.modBlock_power (b : Nat) (f : Block → Block) : (s.modBlock b f).power = s.power := rfl
@[simp] theorem State.modBlock_verified (b : Nat) (f : Block → Block) : (s.modBlock b f).verified = s.verified := rfl
@[simp] theorem State.modBlock_readOut (b : Nat) (f : Block → Block) : (s.modBlock b f).readOut = s.readOut := rfl
@[simp] theorem State.modBlock_agenda (b : Nat) (f : Block → Block) : (s.modBlock b f).agenda = s.agenda := rfl
@[simp] theorem State.modBlock_picks (b : Nat) (f : Block → Block) : (s.modBlock b f).picks = s.picks := rfl
@[simp] theorem State.modBlock_fresh (b : Nat) (f : Block → Block) : (s.modBlock b f).fresh = s.fresh := rfl
@[simp] theorem State.modBlock_nextId (b : Nat) (f : Block → Block) : (s.modBlock b f).nextId = s.nextId := rfl
@[simp] theorem State.modBlock_cur (b : Nat) (f : Block → Block) : (s.modBlock b f).cur = s.cur := rfl
@[simp] theorem State.modBlock_pre (b : Nat) (f : Block → Block) : (s.modBlock b f).pre = s.pre := rfl
@[simp] theorem State.modBlock_preL (b : Nat) (f : Block → Block) : (s.modBlock b f).preL = s.preL := rfl

/-! ### modCrew -/

@[simp] theorem State.modCrew_mem (b c : Nat) (f : Crew → Crew) : (s.modCrew b c f).mem = s.mem := rfl
@[simp] theorem State.modCrew_tags (b c : Nat) (f : Crew → Crew) : (s.modCrew b c f).tags = s.tags := rfl
@[simp] theorem State.modCrew_owners (b c : Nat) (f : Crew → Crew) : (s.modCrew b c f).owners = s.owners := rfl
@[simp] theorem State.modCrew_retiredFrames (b c : Nat) (f : Crew → Crew) : (s.modCrew b c f).retiredFrames = s.retiredFrames := rfl
@[simp] theorem State.modCrew_poison (b c : Nat) (f : Crew → Crew) : (s.modCrew b c f).poison = s.poison := rfl
@[simp] theorem State.modCrew_failing (b c : Nat) (f : Crew → Crew) : (s.modCrew b c f).failing = s.failing := rfl
@[simp] theorem State.modCrew_carved (b c : Nat) (f : Crew → Crew) : (s.modCrew b c f).carved = s.carved := rfl
@[simp] theorem State.modCrew_pool (b c : Nat) (f : Crew → Crew) : (s.modCrew b c f).pool = s.pool := rfl
@[simp] theorem State.modCrew_frozen (b c : Nat) (f : Crew → Crew) : (s.modCrew b c f).frozen = s.frozen := rfl
@[simp] theorem State.modCrew_tlbis (b c : Nat) (f : Crew → Crew) : (s.modCrew b c f).tlbis = s.tlbis := rfl
@[simp] theorem State.modCrew_l2tlb (b c : Nat) (f : Crew → Crew) : (s.modCrew b c f).l2tlb = s.l2tlb := rfl
@[simp] theorem State.modCrew_regs (b c : Nat) (f : Crew → Crew) : (s.modCrew b c f).regs = s.regs := rfl
@[simp] theorem State.modCrew_cores (b c : Nat) (f : Crew → Crew) : (s.modCrew b c f).cores = s.cores := rfl
@[simp] theorem State.modCrew_launches (b c : Nat) (f : Crew → Crew) : (s.modCrew b c f).launches = s.launches := rfl
@[simp] theorem State.modCrew_queues (b c : Nat) (f : Crew → Crew) : (s.modCrew b c f).queues = s.queues := rfl
@[simp] theorem State.modCrew_pageReqs (b c : Nat) (f : Crew → Crew) : (s.modCrew b c f).pageReqs = s.pageReqs := rfl
@[simp] theorem State.modCrew_nextReq (b c : Nat) (f : Crew → Crew) : (s.modCrew b c f).nextReq = s.nextReq := rfl
@[simp] theorem State.modCrew_saved (b c : Nat) (f : Crew → Crew) : (s.modCrew b c f).saved = s.saved := rfl
@[simp] theorem State.modCrew_preempts (b c : Nat) (f : Crew → Crew) : (s.modCrew b c f).preempts = s.preempts := rfl
@[simp] theorem State.modCrew_recs (b c : Nat) (f : Crew → Crew) : (s.modCrew b c f).recs = s.recs := rfl
@[simp] theorem State.modCrew_loads (b c : Nat) (f : Crew → Crew) : (s.modCrew b c f).loads = s.loads := rfl
@[simp] theorem State.modCrew_headers (b c : Nat) (f : Crew → Crew) : (s.modCrew b c f).headers = s.headers := rfl
@[simp] theorem State.modCrew_splices (b c : Nat) (f : Crew → Crew) : (s.modCrew b c f).splices = s.splices := rfl
@[simp] theorem State.modCrew_switchedIn (b c : Nat) (f : Crew → Crew) : (s.modCrew b c f).switchedIn = s.switchedIn := rfl
@[simp] theorem State.modCrew_switchedFrom (b c : Nat) (f : Crew → Crew) : (s.modCrew b c f).switchedFrom = s.switchedFrom := rfl
@[simp] theorem State.modCrew_heldWrites (b c : Nat) (f : Crew → Crew) : (s.modCrew b c f).heldWrites = s.heldWrites := rfl
@[simp] theorem State.modCrew_wheelAt (b c : Nat) (f : Crew → Crew) : (s.modCrew b c f).wheelAt = s.wheelAt := rfl
@[simp] theorem State.modCrew_sctrLatch (b c : Nat) (f : Crew → Crew) : (s.modCrew b c f).sctrLatch = s.sctrLatch := rfl
@[simp] theorem State.modCrew_irqs (b c : Nat) (f : Crew → Crew) : (s.modCrew b c f).irqs = s.irqs := rfl
@[simp] theorem State.modCrew_gts (b c : Nat) (f : Crew → Crew) : (s.modCrew b c f).gts = s.gts := rfl
@[simp] theorem State.modCrew_clk (b c : Nat) (f : Crew → Crew) : (s.modCrew b c f).clk = s.clk := rfl
@[simp] theorem State.modCrew_phase (b c : Nat) (f : Crew → Crew) : (s.modCrew b c f).phase = s.phase := rfl
@[simp] theorem State.modCrew_dies (b c : Nat) (f : Crew → Crew) : (s.modCrew b c f).dies = s.dies := rfl
@[simp] theorem State.modCrew_lowGear (b c : Nat) (f : Crew → Crew) : (s.modCrew b c f).lowGear = s.lowGear := rfl
@[simp] theorem State.modCrew_mhz (b c : Nat) (f : Crew → Crew) : (s.modCrew b c f).mhz = s.mhz := rfl
@[simp] theorem State.modCrew_maint (b c : Nat) (f : Crew → Crew) : (s.modCrew b c f).maint = s.maint := rfl
@[simp] theorem State.modCrew_changedAt (b c : Nat) (f : Crew → Crew) : (s.modCrew b c f).changedAt = s.changedAt := rfl
@[simp] theorem State.modCrew_atticUp (b c : Nat) (f : Crew → Crew) : (s.modCrew b c f).atticUp = s.atticUp := rfl
@[simp] theorem State.modCrew_ladderUp (b c : Nat) (f : Crew → Crew) : (s.modCrew b c f).ladderUp = s.ladderUp := rfl
@[simp] theorem State.modCrew_unreachable (b c : Nat) (f : Crew → Crew) : (s.modCrew b c f).unreachable = s.unreachable := rfl
@[simp] theorem State.modCrew_nonce (b c : Nat) (f : Crew → Crew) : (s.modCrew b c f).nonce = s.nonce := rfl
@[simp] theorem State.modCrew_reportDue (b c : Nat) (f : Crew → Crew) : (s.modCrew b c f).reportDue = s.reportDue := rfl
@[simp] theorem State.modCrew_report (b c : Nat) (f : Crew → Crew) : (s.modCrew b c f).report = s.report := rfl
@[simp] theorem State.modCrew_power (b c : Nat) (f : Crew → Crew) : (s.modCrew b c f).power = s.power := rfl
@[simp] theorem State.modCrew_verified (b c : Nat) (f : Crew → Crew) : (s.modCrew b c f).verified = s.verified := rfl
@[simp] theorem State.modCrew_readOut (b c : Nat) (f : Crew → Crew) : (s.modCrew b c f).readOut = s.readOut := rfl
@[simp] theorem State.modCrew_agenda (b c : Nat) (f : Crew → Crew) : (s.modCrew b c f).agenda = s.agenda := rfl
@[simp] theorem State.modCrew_picks (b c : Nat) (f : Crew → Crew) : (s.modCrew b c f).picks = s.picks := rfl
@[simp] theorem State.modCrew_fresh (b c : Nat) (f : Crew → Crew) : (s.modCrew b c f).fresh = s.fresh := rfl
@[simp] theorem State.modCrew_nextId (b c : Nat) (f : Crew → Crew) : (s.modCrew b c f).nextId = s.nextId := rfl
@[simp] theorem State.modCrew_cur (b c : Nat) (f : Crew → Crew) : (s.modCrew b c f).cur = s.cur := rfl
@[simp] theorem State.modCrew_pre (b c : Nat) (f : Crew → Crew) : (s.modCrew b c f).pre = s.pre := rfl
@[simp] theorem State.modCrew_preL (b c : Nat) (f : Crew → Crew) : (s.modCrew b c f).preL = s.preL := rfl

/-! ### modThread -/

@[simp] theorem State.modThread_mem (b c l : Nat) (f : Thread → Thread) : (s.modThread b c l f).mem = s.mem := rfl
@[simp] theorem State.modThread_tags (b c l : Nat) (f : Thread → Thread) : (s.modThread b c l f).tags = s.tags := rfl
@[simp] theorem State.modThread_owners (b c l : Nat) (f : Thread → Thread) : (s.modThread b c l f).owners = s.owners := rfl
@[simp] theorem State.modThread_retiredFrames (b c l : Nat) (f : Thread → Thread) : (s.modThread b c l f).retiredFrames = s.retiredFrames := rfl
@[simp] theorem State.modThread_poison (b c l : Nat) (f : Thread → Thread) : (s.modThread b c l f).poison = s.poison := rfl
@[simp] theorem State.modThread_failing (b c l : Nat) (f : Thread → Thread) : (s.modThread b c l f).failing = s.failing := rfl
@[simp] theorem State.modThread_carved (b c l : Nat) (f : Thread → Thread) : (s.modThread b c l f).carved = s.carved := rfl
@[simp] theorem State.modThread_pool (b c l : Nat) (f : Thread → Thread) : (s.modThread b c l f).pool = s.pool := rfl
@[simp] theorem State.modThread_frozen (b c l : Nat) (f : Thread → Thread) : (s.modThread b c l f).frozen = s.frozen := rfl
@[simp] theorem State.modThread_tlbis (b c l : Nat) (f : Thread → Thread) : (s.modThread b c l f).tlbis = s.tlbis := rfl
@[simp] theorem State.modThread_l2tlb (b c l : Nat) (f : Thread → Thread) : (s.modThread b c l f).l2tlb = s.l2tlb := rfl
@[simp] theorem State.modThread_regs (b c l : Nat) (f : Thread → Thread) : (s.modThread b c l f).regs = s.regs := rfl
@[simp] theorem State.modThread_cores (b c l : Nat) (f : Thread → Thread) : (s.modThread b c l f).cores = s.cores := rfl
@[simp] theorem State.modThread_launches (b c l : Nat) (f : Thread → Thread) : (s.modThread b c l f).launches = s.launches := rfl
@[simp] theorem State.modThread_queues (b c l : Nat) (f : Thread → Thread) : (s.modThread b c l f).queues = s.queues := rfl
@[simp] theorem State.modThread_pageReqs (b c l : Nat) (f : Thread → Thread) : (s.modThread b c l f).pageReqs = s.pageReqs := rfl
@[simp] theorem State.modThread_nextReq (b c l : Nat) (f : Thread → Thread) : (s.modThread b c l f).nextReq = s.nextReq := rfl
@[simp] theorem State.modThread_saved (b c l : Nat) (f : Thread → Thread) : (s.modThread b c l f).saved = s.saved := rfl
@[simp] theorem State.modThread_preempts (b c l : Nat) (f : Thread → Thread) : (s.modThread b c l f).preempts = s.preempts := rfl
@[simp] theorem State.modThread_recs (b c l : Nat) (f : Thread → Thread) : (s.modThread b c l f).recs = s.recs := rfl
@[simp] theorem State.modThread_loads (b c l : Nat) (f : Thread → Thread) : (s.modThread b c l f).loads = s.loads := rfl
@[simp] theorem State.modThread_headers (b c l : Nat) (f : Thread → Thread) : (s.modThread b c l f).headers = s.headers := rfl
@[simp] theorem State.modThread_splices (b c l : Nat) (f : Thread → Thread) : (s.modThread b c l f).splices = s.splices := rfl
@[simp] theorem State.modThread_switchedIn (b c l : Nat) (f : Thread → Thread) : (s.modThread b c l f).switchedIn = s.switchedIn := rfl
@[simp] theorem State.modThread_switchedFrom (b c l : Nat) (f : Thread → Thread) : (s.modThread b c l f).switchedFrom = s.switchedFrom := rfl
@[simp] theorem State.modThread_heldWrites (b c l : Nat) (f : Thread → Thread) : (s.modThread b c l f).heldWrites = s.heldWrites := rfl
@[simp] theorem State.modThread_wheelAt (b c l : Nat) (f : Thread → Thread) : (s.modThread b c l f).wheelAt = s.wheelAt := rfl
@[simp] theorem State.modThread_sctrLatch (b c l : Nat) (f : Thread → Thread) : (s.modThread b c l f).sctrLatch = s.sctrLatch := rfl
@[simp] theorem State.modThread_irqs (b c l : Nat) (f : Thread → Thread) : (s.modThread b c l f).irqs = s.irqs := rfl
@[simp] theorem State.modThread_gts (b c l : Nat) (f : Thread → Thread) : (s.modThread b c l f).gts = s.gts := rfl
@[simp] theorem State.modThread_clk (b c l : Nat) (f : Thread → Thread) : (s.modThread b c l f).clk = s.clk := rfl
@[simp] theorem State.modThread_phase (b c l : Nat) (f : Thread → Thread) : (s.modThread b c l f).phase = s.phase := rfl
@[simp] theorem State.modThread_dies (b c l : Nat) (f : Thread → Thread) : (s.modThread b c l f).dies = s.dies := rfl
@[simp] theorem State.modThread_lowGear (b c l : Nat) (f : Thread → Thread) : (s.modThread b c l f).lowGear = s.lowGear := rfl
@[simp] theorem State.modThread_mhz (b c l : Nat) (f : Thread → Thread) : (s.modThread b c l f).mhz = s.mhz := rfl
@[simp] theorem State.modThread_maint (b c l : Nat) (f : Thread → Thread) : (s.modThread b c l f).maint = s.maint := rfl
@[simp] theorem State.modThread_changedAt (b c l : Nat) (f : Thread → Thread) : (s.modThread b c l f).changedAt = s.changedAt := rfl
@[simp] theorem State.modThread_atticUp (b c l : Nat) (f : Thread → Thread) : (s.modThread b c l f).atticUp = s.atticUp := rfl
@[simp] theorem State.modThread_ladderUp (b c l : Nat) (f : Thread → Thread) : (s.modThread b c l f).ladderUp = s.ladderUp := rfl
@[simp] theorem State.modThread_unreachable (b c l : Nat) (f : Thread → Thread) : (s.modThread b c l f).unreachable = s.unreachable := rfl
@[simp] theorem State.modThread_nonce (b c l : Nat) (f : Thread → Thread) : (s.modThread b c l f).nonce = s.nonce := rfl
@[simp] theorem State.modThread_reportDue (b c l : Nat) (f : Thread → Thread) : (s.modThread b c l f).reportDue = s.reportDue := rfl
@[simp] theorem State.modThread_report (b c l : Nat) (f : Thread → Thread) : (s.modThread b c l f).report = s.report := rfl
@[simp] theorem State.modThread_power (b c l : Nat) (f : Thread → Thread) : (s.modThread b c l f).power = s.power := rfl
@[simp] theorem State.modThread_verified (b c l : Nat) (f : Thread → Thread) : (s.modThread b c l f).verified = s.verified := rfl
@[simp] theorem State.modThread_readOut (b c l : Nat) (f : Thread → Thread) : (s.modThread b c l f).readOut = s.readOut := rfl
@[simp] theorem State.modThread_agenda (b c l : Nat) (f : Thread → Thread) : (s.modThread b c l f).agenda = s.agenda := rfl
@[simp] theorem State.modThread_picks (b c l : Nat) (f : Thread → Thread) : (s.modThread b c l f).picks = s.picks := rfl
@[simp] theorem State.modThread_fresh (b c l : Nat) (f : Thread → Thread) : (s.modThread b c l f).fresh = s.fresh := rfl
@[simp] theorem State.modThread_nextId (b c l : Nat) (f : Thread → Thread) : (s.modThread b c l f).nextId = s.nextId := rfl
@[simp] theorem State.modThread_cur (b c l : Nat) (f : Thread → Thread) : (s.modThread b c l f).cur = s.cur := rfl
@[simp] theorem State.modThread_pre (b c l : Nat) (f : Thread → Thread) : (s.modThread b c l f).pre = s.pre := rfl
@[simp] theorem State.modThread_preL (b c l : Nat) (f : Thread → Thread) : (s.modThread b c l f).preL = s.preL := rfl

/-! ### onCrew -/

@[simp] theorem State.onCrew_mem (f : CrewCore → CrewCore) : (s.onCrew f).mem = s.mem := rfl
@[simp] theorem State.onCrew_tags (f : CrewCore → CrewCore) : (s.onCrew f).tags = s.tags := rfl
@[simp] theorem State.onCrew_owners (f : CrewCore → CrewCore) : (s.onCrew f).owners = s.owners := rfl
@[simp] theorem State.onCrew_retiredFrames (f : CrewCore → CrewCore) : (s.onCrew f).retiredFrames = s.retiredFrames := rfl
@[simp] theorem State.onCrew_poison (f : CrewCore → CrewCore) : (s.onCrew f).poison = s.poison := rfl
@[simp] theorem State.onCrew_failing (f : CrewCore → CrewCore) : (s.onCrew f).failing = s.failing := rfl
@[simp] theorem State.onCrew_carved (f : CrewCore → CrewCore) : (s.onCrew f).carved = s.carved := rfl
@[simp] theorem State.onCrew_pool (f : CrewCore → CrewCore) : (s.onCrew f).pool = s.pool := rfl
@[simp] theorem State.onCrew_frozen (f : CrewCore → CrewCore) : (s.onCrew f).frozen = s.frozen := rfl
@[simp] theorem State.onCrew_tlbis (f : CrewCore → CrewCore) : (s.onCrew f).tlbis = s.tlbis := rfl
@[simp] theorem State.onCrew_l2tlb (f : CrewCore → CrewCore) : (s.onCrew f).l2tlb = s.l2tlb := rfl
@[simp] theorem State.onCrew_regs (f : CrewCore → CrewCore) : (s.onCrew f).regs = s.regs := rfl
@[simp] theorem State.onCrew_cores (f : CrewCore → CrewCore) : (s.onCrew f).cores = s.cores := rfl
@[simp] theorem State.onCrew_launches (f : CrewCore → CrewCore) : (s.onCrew f).launches = s.launches := rfl
@[simp] theorem State.onCrew_queues (f : CrewCore → CrewCore) : (s.onCrew f).queues = s.queues := rfl
@[simp] theorem State.onCrew_pageReqs (f : CrewCore → CrewCore) : (s.onCrew f).pageReqs = s.pageReqs := rfl
@[simp] theorem State.onCrew_nextReq (f : CrewCore → CrewCore) : (s.onCrew f).nextReq = s.nextReq := rfl
@[simp] theorem State.onCrew_saved (f : CrewCore → CrewCore) : (s.onCrew f).saved = s.saved := rfl
@[simp] theorem State.onCrew_preempts (f : CrewCore → CrewCore) : (s.onCrew f).preempts = s.preempts := rfl
@[simp] theorem State.onCrew_recs (f : CrewCore → CrewCore) : (s.onCrew f).recs = s.recs := rfl
@[simp] theorem State.onCrew_loads (f : CrewCore → CrewCore) : (s.onCrew f).loads = s.loads := rfl
@[simp] theorem State.onCrew_headers (f : CrewCore → CrewCore) : (s.onCrew f).headers = s.headers := rfl
@[simp] theorem State.onCrew_splices (f : CrewCore → CrewCore) : (s.onCrew f).splices = s.splices := rfl
@[simp] theorem State.onCrew_switchedIn (f : CrewCore → CrewCore) : (s.onCrew f).switchedIn = s.switchedIn := rfl
@[simp] theorem State.onCrew_switchedFrom (f : CrewCore → CrewCore) : (s.onCrew f).switchedFrom = s.switchedFrom := rfl
@[simp] theorem State.onCrew_heldWrites (f : CrewCore → CrewCore) : (s.onCrew f).heldWrites = s.heldWrites := rfl
@[simp] theorem State.onCrew_wheelAt (f : CrewCore → CrewCore) : (s.onCrew f).wheelAt = s.wheelAt := rfl
@[simp] theorem State.onCrew_sctrLatch (f : CrewCore → CrewCore) : (s.onCrew f).sctrLatch = s.sctrLatch := rfl
@[simp] theorem State.onCrew_irqs (f : CrewCore → CrewCore) : (s.onCrew f).irqs = s.irqs := rfl
@[simp] theorem State.onCrew_gts (f : CrewCore → CrewCore) : (s.onCrew f).gts = s.gts := rfl
@[simp] theorem State.onCrew_clk (f : CrewCore → CrewCore) : (s.onCrew f).clk = s.clk := rfl
@[simp] theorem State.onCrew_phase (f : CrewCore → CrewCore) : (s.onCrew f).phase = s.phase := rfl
@[simp] theorem State.onCrew_dies (f : CrewCore → CrewCore) : (s.onCrew f).dies = s.dies := rfl
@[simp] theorem State.onCrew_lowGear (f : CrewCore → CrewCore) : (s.onCrew f).lowGear = s.lowGear := rfl
@[simp] theorem State.onCrew_mhz (f : CrewCore → CrewCore) : (s.onCrew f).mhz = s.mhz := rfl
@[simp] theorem State.onCrew_maint (f : CrewCore → CrewCore) : (s.onCrew f).maint = s.maint := rfl
@[simp] theorem State.onCrew_changedAt (f : CrewCore → CrewCore) : (s.onCrew f).changedAt = s.changedAt := rfl
@[simp] theorem State.onCrew_atticUp (f : CrewCore → CrewCore) : (s.onCrew f).atticUp = s.atticUp := rfl
@[simp] theorem State.onCrew_ladderUp (f : CrewCore → CrewCore) : (s.onCrew f).ladderUp = s.ladderUp := rfl
@[simp] theorem State.onCrew_unreachable (f : CrewCore → CrewCore) : (s.onCrew f).unreachable = s.unreachable := rfl
@[simp] theorem State.onCrew_nonce (f : CrewCore → CrewCore) : (s.onCrew f).nonce = s.nonce := rfl
@[simp] theorem State.onCrew_reportDue (f : CrewCore → CrewCore) : (s.onCrew f).reportDue = s.reportDue := rfl
@[simp] theorem State.onCrew_report (f : CrewCore → CrewCore) : (s.onCrew f).report = s.report := rfl
@[simp] theorem State.onCrew_power (f : CrewCore → CrewCore) : (s.onCrew f).power = s.power := rfl
@[simp] theorem State.onCrew_verified (f : CrewCore → CrewCore) : (s.onCrew f).verified = s.verified := rfl
@[simp] theorem State.onCrew_readOut (f : CrewCore → CrewCore) : (s.onCrew f).readOut = s.readOut := rfl
@[simp] theorem State.onCrew_agenda (f : CrewCore → CrewCore) : (s.onCrew f).agenda = s.agenda := rfl
@[simp] theorem State.onCrew_picks (f : CrewCore → CrewCore) : (s.onCrew f).picks = s.picks := rfl
@[simp] theorem State.onCrew_fresh (f : CrewCore → CrewCore) : (s.onCrew f).fresh = s.fresh := rfl
@[simp] theorem State.onCrew_nextId (f : CrewCore → CrewCore) : (s.onCrew f).nextId = s.nextId := rfl
@[simp] theorem State.onCrew_cur (f : CrewCore → CrewCore) : (s.onCrew f).cur = s.cur := rfl
@[simp] theorem State.onCrew_pre (f : CrewCore → CrewCore) : (s.onCrew f).pre = s.pre := rfl
@[simp] theorem State.onCrew_preL (f : CrewCore → CrewCore) : (s.onCrew f).preL = s.preL := rfl

/-! ### modLoft -/

@[simp] theorem State.modLoft_mem (b : Nat) (f : LoftCtx → LoftCtx) : (s.modLoft b f).mem = s.mem := rfl
@[simp] theorem State.modLoft_tags (b : Nat) (f : LoftCtx → LoftCtx) : (s.modLoft b f).tags = s.tags := rfl
@[simp] theorem State.modLoft_owners (b : Nat) (f : LoftCtx → LoftCtx) : (s.modLoft b f).owners = s.owners := rfl
@[simp] theorem State.modLoft_retiredFrames (b : Nat) (f : LoftCtx → LoftCtx) : (s.modLoft b f).retiredFrames = s.retiredFrames := rfl
@[simp] theorem State.modLoft_poison (b : Nat) (f : LoftCtx → LoftCtx) : (s.modLoft b f).poison = s.poison := rfl
@[simp] theorem State.modLoft_failing (b : Nat) (f : LoftCtx → LoftCtx) : (s.modLoft b f).failing = s.failing := rfl
@[simp] theorem State.modLoft_carved (b : Nat) (f : LoftCtx → LoftCtx) : (s.modLoft b f).carved = s.carved := rfl
@[simp] theorem State.modLoft_pool (b : Nat) (f : LoftCtx → LoftCtx) : (s.modLoft b f).pool = s.pool := rfl
@[simp] theorem State.modLoft_frozen (b : Nat) (f : LoftCtx → LoftCtx) : (s.modLoft b f).frozen = s.frozen := rfl
@[simp] theorem State.modLoft_tlbis (b : Nat) (f : LoftCtx → LoftCtx) : (s.modLoft b f).tlbis = s.tlbis := rfl
@[simp] theorem State.modLoft_l2tlb (b : Nat) (f : LoftCtx → LoftCtx) : (s.modLoft b f).l2tlb = s.l2tlb := rfl
@[simp] theorem State.modLoft_regs (b : Nat) (f : LoftCtx → LoftCtx) : (s.modLoft b f).regs = s.regs := rfl
@[simp] theorem State.modLoft_cores (b : Nat) (f : LoftCtx → LoftCtx) : (s.modLoft b f).cores = s.cores := rfl
@[simp] theorem State.modLoft_launches (b : Nat) (f : LoftCtx → LoftCtx) : (s.modLoft b f).launches = s.launches := rfl
@[simp] theorem State.modLoft_queues (b : Nat) (f : LoftCtx → LoftCtx) : (s.modLoft b f).queues = s.queues := rfl
@[simp] theorem State.modLoft_pageReqs (b : Nat) (f : LoftCtx → LoftCtx) : (s.modLoft b f).pageReqs = s.pageReqs := rfl
@[simp] theorem State.modLoft_nextReq (b : Nat) (f : LoftCtx → LoftCtx) : (s.modLoft b f).nextReq = s.nextReq := rfl
@[simp] theorem State.modLoft_saved (b : Nat) (f : LoftCtx → LoftCtx) : (s.modLoft b f).saved = s.saved := rfl
@[simp] theorem State.modLoft_preempts (b : Nat) (f : LoftCtx → LoftCtx) : (s.modLoft b f).preempts = s.preempts := rfl
@[simp] theorem State.modLoft_recs (b : Nat) (f : LoftCtx → LoftCtx) : (s.modLoft b f).recs = s.recs := rfl
@[simp] theorem State.modLoft_loads (b : Nat) (f : LoftCtx → LoftCtx) : (s.modLoft b f).loads = s.loads := rfl
@[simp] theorem State.modLoft_headers (b : Nat) (f : LoftCtx → LoftCtx) : (s.modLoft b f).headers = s.headers := rfl
@[simp] theorem State.modLoft_splices (b : Nat) (f : LoftCtx → LoftCtx) : (s.modLoft b f).splices = s.splices := rfl
@[simp] theorem State.modLoft_switchedIn (b : Nat) (f : LoftCtx → LoftCtx) : (s.modLoft b f).switchedIn = s.switchedIn := rfl
@[simp] theorem State.modLoft_switchedFrom (b : Nat) (f : LoftCtx → LoftCtx) : (s.modLoft b f).switchedFrom = s.switchedFrom := rfl
@[simp] theorem State.modLoft_heldWrites (b : Nat) (f : LoftCtx → LoftCtx) : (s.modLoft b f).heldWrites = s.heldWrites := rfl
@[simp] theorem State.modLoft_wheelAt (b : Nat) (f : LoftCtx → LoftCtx) : (s.modLoft b f).wheelAt = s.wheelAt := rfl
@[simp] theorem State.modLoft_sctrLatch (b : Nat) (f : LoftCtx → LoftCtx) : (s.modLoft b f).sctrLatch = s.sctrLatch := rfl
@[simp] theorem State.modLoft_irqs (b : Nat) (f : LoftCtx → LoftCtx) : (s.modLoft b f).irqs = s.irqs := rfl
@[simp] theorem State.modLoft_gts (b : Nat) (f : LoftCtx → LoftCtx) : (s.modLoft b f).gts = s.gts := rfl
@[simp] theorem State.modLoft_clk (b : Nat) (f : LoftCtx → LoftCtx) : (s.modLoft b f).clk = s.clk := rfl
@[simp] theorem State.modLoft_phase (b : Nat) (f : LoftCtx → LoftCtx) : (s.modLoft b f).phase = s.phase := rfl
@[simp] theorem State.modLoft_dies (b : Nat) (f : LoftCtx → LoftCtx) : (s.modLoft b f).dies = s.dies := rfl
@[simp] theorem State.modLoft_lowGear (b : Nat) (f : LoftCtx → LoftCtx) : (s.modLoft b f).lowGear = s.lowGear := rfl
@[simp] theorem State.modLoft_mhz (b : Nat) (f : LoftCtx → LoftCtx) : (s.modLoft b f).mhz = s.mhz := rfl
@[simp] theorem State.modLoft_maint (b : Nat) (f : LoftCtx → LoftCtx) : (s.modLoft b f).maint = s.maint := rfl
@[simp] theorem State.modLoft_changedAt (b : Nat) (f : LoftCtx → LoftCtx) : (s.modLoft b f).changedAt = s.changedAt := rfl
@[simp] theorem State.modLoft_atticUp (b : Nat) (f : LoftCtx → LoftCtx) : (s.modLoft b f).atticUp = s.atticUp := rfl
@[simp] theorem State.modLoft_ladderUp (b : Nat) (f : LoftCtx → LoftCtx) : (s.modLoft b f).ladderUp = s.ladderUp := rfl
@[simp] theorem State.modLoft_unreachable (b : Nat) (f : LoftCtx → LoftCtx) : (s.modLoft b f).unreachable = s.unreachable := rfl
@[simp] theorem State.modLoft_nonce (b : Nat) (f : LoftCtx → LoftCtx) : (s.modLoft b f).nonce = s.nonce := rfl
@[simp] theorem State.modLoft_reportDue (b : Nat) (f : LoftCtx → LoftCtx) : (s.modLoft b f).reportDue = s.reportDue := rfl
@[simp] theorem State.modLoft_report (b : Nat) (f : LoftCtx → LoftCtx) : (s.modLoft b f).report = s.report := rfl
@[simp] theorem State.modLoft_power (b : Nat) (f : LoftCtx → LoftCtx) : (s.modLoft b f).power = s.power := rfl
@[simp] theorem State.modLoft_verified (b : Nat) (f : LoftCtx → LoftCtx) : (s.modLoft b f).verified = s.verified := rfl
@[simp] theorem State.modLoft_readOut (b : Nat) (f : LoftCtx → LoftCtx) : (s.modLoft b f).readOut = s.readOut := rfl
@[simp] theorem State.modLoft_agenda (b : Nat) (f : LoftCtx → LoftCtx) : (s.modLoft b f).agenda = s.agenda := rfl
@[simp] theorem State.modLoft_picks (b : Nat) (f : LoftCtx → LoftCtx) : (s.modLoft b f).picks = s.picks := rfl
@[simp] theorem State.modLoft_fresh (b : Nat) (f : LoftCtx → LoftCtx) : (s.modLoft b f).fresh = s.fresh := rfl
@[simp] theorem State.modLoft_nextId (b : Nat) (f : LoftCtx → LoftCtx) : (s.modLoft b f).nextId = s.nextId := rfl
@[simp] theorem State.modLoft_cur (b : Nat) (f : LoftCtx → LoftCtx) : (s.modLoft b f).cur = s.cur := rfl
@[simp] theorem State.modLoft_pre (b : Nat) (f : LoftCtx → LoftCtx) : (s.modLoft b f).pre = s.pre := rfl
@[simp] theorem State.modLoft_preL (b : Nat) (f : LoftCtx → LoftCtx) : (s.modLoft b f).preL = s.preL := rfl

/-! ### onLoft -/

@[simp] theorem State.onLoft_mem (f : LoftRegs → LoftRegs) : (s.onLoft f).mem = s.mem := rfl
@[simp] theorem State.onLoft_tags (f : LoftRegs → LoftRegs) : (s.onLoft f).tags = s.tags := rfl
@[simp] theorem State.onLoft_owners (f : LoftRegs → LoftRegs) : (s.onLoft f).owners = s.owners := rfl
@[simp] theorem State.onLoft_retiredFrames (f : LoftRegs → LoftRegs) : (s.onLoft f).retiredFrames = s.retiredFrames := rfl
@[simp] theorem State.onLoft_poison (f : LoftRegs → LoftRegs) : (s.onLoft f).poison = s.poison := rfl
@[simp] theorem State.onLoft_failing (f : LoftRegs → LoftRegs) : (s.onLoft f).failing = s.failing := rfl
@[simp] theorem State.onLoft_carved (f : LoftRegs → LoftRegs) : (s.onLoft f).carved = s.carved := rfl
@[simp] theorem State.onLoft_pool (f : LoftRegs → LoftRegs) : (s.onLoft f).pool = s.pool := rfl
@[simp] theorem State.onLoft_frozen (f : LoftRegs → LoftRegs) : (s.onLoft f).frozen = s.frozen := rfl
@[simp] theorem State.onLoft_tlbis (f : LoftRegs → LoftRegs) : (s.onLoft f).tlbis = s.tlbis := rfl
@[simp] theorem State.onLoft_l2tlb (f : LoftRegs → LoftRegs) : (s.onLoft f).l2tlb = s.l2tlb := rfl
@[simp] theorem State.onLoft_regs (f : LoftRegs → LoftRegs) : (s.onLoft f).regs = s.regs := rfl
@[simp] theorem State.onLoft_cores (f : LoftRegs → LoftRegs) : (s.onLoft f).cores = s.cores := rfl
@[simp] theorem State.onLoft_launches (f : LoftRegs → LoftRegs) : (s.onLoft f).launches = s.launches := rfl
@[simp] theorem State.onLoft_queues (f : LoftRegs → LoftRegs) : (s.onLoft f).queues = s.queues := rfl
@[simp] theorem State.onLoft_pageReqs (f : LoftRegs → LoftRegs) : (s.onLoft f).pageReqs = s.pageReqs := rfl
@[simp] theorem State.onLoft_nextReq (f : LoftRegs → LoftRegs) : (s.onLoft f).nextReq = s.nextReq := rfl
@[simp] theorem State.onLoft_saved (f : LoftRegs → LoftRegs) : (s.onLoft f).saved = s.saved := rfl
@[simp] theorem State.onLoft_preempts (f : LoftRegs → LoftRegs) : (s.onLoft f).preempts = s.preempts := rfl
@[simp] theorem State.onLoft_recs (f : LoftRegs → LoftRegs) : (s.onLoft f).recs = s.recs := rfl
@[simp] theorem State.onLoft_loads (f : LoftRegs → LoftRegs) : (s.onLoft f).loads = s.loads := rfl
@[simp] theorem State.onLoft_headers (f : LoftRegs → LoftRegs) : (s.onLoft f).headers = s.headers := rfl
@[simp] theorem State.onLoft_splices (f : LoftRegs → LoftRegs) : (s.onLoft f).splices = s.splices := rfl
@[simp] theorem State.onLoft_switchedIn (f : LoftRegs → LoftRegs) : (s.onLoft f).switchedIn = s.switchedIn := rfl
@[simp] theorem State.onLoft_switchedFrom (f : LoftRegs → LoftRegs) : (s.onLoft f).switchedFrom = s.switchedFrom := rfl
@[simp] theorem State.onLoft_heldWrites (f : LoftRegs → LoftRegs) : (s.onLoft f).heldWrites = s.heldWrites := rfl
@[simp] theorem State.onLoft_wheelAt (f : LoftRegs → LoftRegs) : (s.onLoft f).wheelAt = s.wheelAt := rfl
@[simp] theorem State.onLoft_sctrLatch (f : LoftRegs → LoftRegs) : (s.onLoft f).sctrLatch = s.sctrLatch := rfl
@[simp] theorem State.onLoft_irqs (f : LoftRegs → LoftRegs) : (s.onLoft f).irqs = s.irqs := rfl
@[simp] theorem State.onLoft_gts (f : LoftRegs → LoftRegs) : (s.onLoft f).gts = s.gts := rfl
@[simp] theorem State.onLoft_clk (f : LoftRegs → LoftRegs) : (s.onLoft f).clk = s.clk := rfl
@[simp] theorem State.onLoft_phase (f : LoftRegs → LoftRegs) : (s.onLoft f).phase = s.phase := rfl
@[simp] theorem State.onLoft_dies (f : LoftRegs → LoftRegs) : (s.onLoft f).dies = s.dies := rfl
@[simp] theorem State.onLoft_lowGear (f : LoftRegs → LoftRegs) : (s.onLoft f).lowGear = s.lowGear := rfl
@[simp] theorem State.onLoft_mhz (f : LoftRegs → LoftRegs) : (s.onLoft f).mhz = s.mhz := rfl
@[simp] theorem State.onLoft_maint (f : LoftRegs → LoftRegs) : (s.onLoft f).maint = s.maint := rfl
@[simp] theorem State.onLoft_changedAt (f : LoftRegs → LoftRegs) : (s.onLoft f).changedAt = s.changedAt := rfl
@[simp] theorem State.onLoft_atticUp (f : LoftRegs → LoftRegs) : (s.onLoft f).atticUp = s.atticUp := rfl
@[simp] theorem State.onLoft_ladderUp (f : LoftRegs → LoftRegs) : (s.onLoft f).ladderUp = s.ladderUp := rfl
@[simp] theorem State.onLoft_unreachable (f : LoftRegs → LoftRegs) : (s.onLoft f).unreachable = s.unreachable := rfl
@[simp] theorem State.onLoft_nonce (f : LoftRegs → LoftRegs) : (s.onLoft f).nonce = s.nonce := rfl
@[simp] theorem State.onLoft_reportDue (f : LoftRegs → LoftRegs) : (s.onLoft f).reportDue = s.reportDue := rfl
@[simp] theorem State.onLoft_report (f : LoftRegs → LoftRegs) : (s.onLoft f).report = s.report := rfl
@[simp] theorem State.onLoft_power (f : LoftRegs → LoftRegs) : (s.onLoft f).power = s.power := rfl
@[simp] theorem State.onLoft_verified (f : LoftRegs → LoftRegs) : (s.onLoft f).verified = s.verified := rfl
@[simp] theorem State.onLoft_readOut (f : LoftRegs → LoftRegs) : (s.onLoft f).readOut = s.readOut := rfl
@[simp] theorem State.onLoft_agenda (f : LoftRegs → LoftRegs) : (s.onLoft f).agenda = s.agenda := rfl
@[simp] theorem State.onLoft_picks (f : LoftRegs → LoftRegs) : (s.onLoft f).picks = s.picks := rfl
@[simp] theorem State.onLoft_fresh (f : LoftRegs → LoftRegs) : (s.onLoft f).fresh = s.fresh := rfl
@[simp] theorem State.onLoft_nextId (f : LoftRegs → LoftRegs) : (s.onLoft f).nextId = s.nextId := rfl
@[simp] theorem State.onLoft_cur (f : LoftRegs → LoftRegs) : (s.onLoft f).cur = s.cur := rfl
@[simp] theorem State.onLoft_pre (f : LoftRegs → LoftRegs) : (s.onLoft f).pre = s.pre := rfl
@[simp] theorem State.onLoft_preL (f : LoftRegs → LoftRegs) : (s.onLoft f).preL = s.preL := rfl

/-! ### modLaunch -/

@[simp] theorem State.modLaunch_mem (l : Nat) (f : Launch → Launch) : (s.modLaunch l f).mem = s.mem := rfl
@[simp] theorem State.modLaunch_tags (l : Nat) (f : Launch → Launch) : (s.modLaunch l f).tags = s.tags := rfl
@[simp] theorem State.modLaunch_owners (l : Nat) (f : Launch → Launch) : (s.modLaunch l f).owners = s.owners := rfl
@[simp] theorem State.modLaunch_retiredFrames (l : Nat) (f : Launch → Launch) : (s.modLaunch l f).retiredFrames = s.retiredFrames := rfl
@[simp] theorem State.modLaunch_poison (l : Nat) (f : Launch → Launch) : (s.modLaunch l f).poison = s.poison := rfl
@[simp] theorem State.modLaunch_failing (l : Nat) (f : Launch → Launch) : (s.modLaunch l f).failing = s.failing := rfl
@[simp] theorem State.modLaunch_carved (l : Nat) (f : Launch → Launch) : (s.modLaunch l f).carved = s.carved := rfl
@[simp] theorem State.modLaunch_pool (l : Nat) (f : Launch → Launch) : (s.modLaunch l f).pool = s.pool := rfl
@[simp] theorem State.modLaunch_frozen (l : Nat) (f : Launch → Launch) : (s.modLaunch l f).frozen = s.frozen := rfl
@[simp] theorem State.modLaunch_tlbis (l : Nat) (f : Launch → Launch) : (s.modLaunch l f).tlbis = s.tlbis := rfl
@[simp] theorem State.modLaunch_l2tlb (l : Nat) (f : Launch → Launch) : (s.modLaunch l f).l2tlb = s.l2tlb := rfl
@[simp] theorem State.modLaunch_regs (l : Nat) (f : Launch → Launch) : (s.modLaunch l f).regs = s.regs := rfl
@[simp] theorem State.modLaunch_cores (l : Nat) (f : Launch → Launch) : (s.modLaunch l f).cores = s.cores := rfl
@[simp] theorem State.modLaunch_blocks (l : Nat) (f : Launch → Launch) : (s.modLaunch l f).blocks = s.blocks := rfl
@[simp] theorem State.modLaunch_queues (l : Nat) (f : Launch → Launch) : (s.modLaunch l f).queues = s.queues := rfl
@[simp] theorem State.modLaunch_pageReqs (l : Nat) (f : Launch → Launch) : (s.modLaunch l f).pageReqs = s.pageReqs := rfl
@[simp] theorem State.modLaunch_nextReq (l : Nat) (f : Launch → Launch) : (s.modLaunch l f).nextReq = s.nextReq := rfl
@[simp] theorem State.modLaunch_saved (l : Nat) (f : Launch → Launch) : (s.modLaunch l f).saved = s.saved := rfl
@[simp] theorem State.modLaunch_preempts (l : Nat) (f : Launch → Launch) : (s.modLaunch l f).preempts = s.preempts := rfl
@[simp] theorem State.modLaunch_recs (l : Nat) (f : Launch → Launch) : (s.modLaunch l f).recs = s.recs := rfl
@[simp] theorem State.modLaunch_loads (l : Nat) (f : Launch → Launch) : (s.modLaunch l f).loads = s.loads := rfl
@[simp] theorem State.modLaunch_headers (l : Nat) (f : Launch → Launch) : (s.modLaunch l f).headers = s.headers := rfl
@[simp] theorem State.modLaunch_splices (l : Nat) (f : Launch → Launch) : (s.modLaunch l f).splices = s.splices := rfl
@[simp] theorem State.modLaunch_switchedIn (l : Nat) (f : Launch → Launch) : (s.modLaunch l f).switchedIn = s.switchedIn := rfl
@[simp] theorem State.modLaunch_switchedFrom (l : Nat) (f : Launch → Launch) : (s.modLaunch l f).switchedFrom = s.switchedFrom := rfl
@[simp] theorem State.modLaunch_heldWrites (l : Nat) (f : Launch → Launch) : (s.modLaunch l f).heldWrites = s.heldWrites := rfl
@[simp] theorem State.modLaunch_wheelAt (l : Nat) (f : Launch → Launch) : (s.modLaunch l f).wheelAt = s.wheelAt := rfl
@[simp] theorem State.modLaunch_sctrLatch (l : Nat) (f : Launch → Launch) : (s.modLaunch l f).sctrLatch = s.sctrLatch := rfl
@[simp] theorem State.modLaunch_irqs (l : Nat) (f : Launch → Launch) : (s.modLaunch l f).irqs = s.irqs := rfl
@[simp] theorem State.modLaunch_gts (l : Nat) (f : Launch → Launch) : (s.modLaunch l f).gts = s.gts := rfl
@[simp] theorem State.modLaunch_clk (l : Nat) (f : Launch → Launch) : (s.modLaunch l f).clk = s.clk := rfl
@[simp] theorem State.modLaunch_phase (l : Nat) (f : Launch → Launch) : (s.modLaunch l f).phase = s.phase := rfl
@[simp] theorem State.modLaunch_dies (l : Nat) (f : Launch → Launch) : (s.modLaunch l f).dies = s.dies := rfl
@[simp] theorem State.modLaunch_lowGear (l : Nat) (f : Launch → Launch) : (s.modLaunch l f).lowGear = s.lowGear := rfl
@[simp] theorem State.modLaunch_mhz (l : Nat) (f : Launch → Launch) : (s.modLaunch l f).mhz = s.mhz := rfl
@[simp] theorem State.modLaunch_maint (l : Nat) (f : Launch → Launch) : (s.modLaunch l f).maint = s.maint := rfl
@[simp] theorem State.modLaunch_changedAt (l : Nat) (f : Launch → Launch) : (s.modLaunch l f).changedAt = s.changedAt := rfl
@[simp] theorem State.modLaunch_atticUp (l : Nat) (f : Launch → Launch) : (s.modLaunch l f).atticUp = s.atticUp := rfl
@[simp] theorem State.modLaunch_ladderUp (l : Nat) (f : Launch → Launch) : (s.modLaunch l f).ladderUp = s.ladderUp := rfl
@[simp] theorem State.modLaunch_unreachable (l : Nat) (f : Launch → Launch) : (s.modLaunch l f).unreachable = s.unreachable := rfl
@[simp] theorem State.modLaunch_nonce (l : Nat) (f : Launch → Launch) : (s.modLaunch l f).nonce = s.nonce := rfl
@[simp] theorem State.modLaunch_reportDue (l : Nat) (f : Launch → Launch) : (s.modLaunch l f).reportDue = s.reportDue := rfl
@[simp] theorem State.modLaunch_report (l : Nat) (f : Launch → Launch) : (s.modLaunch l f).report = s.report := rfl
@[simp] theorem State.modLaunch_power (l : Nat) (f : Launch → Launch) : (s.modLaunch l f).power = s.power := rfl
@[simp] theorem State.modLaunch_verified (l : Nat) (f : Launch → Launch) : (s.modLaunch l f).verified = s.verified := rfl
@[simp] theorem State.modLaunch_readOut (l : Nat) (f : Launch → Launch) : (s.modLaunch l f).readOut = s.readOut := rfl
@[simp] theorem State.modLaunch_agenda (l : Nat) (f : Launch → Launch) : (s.modLaunch l f).agenda = s.agenda := rfl
@[simp] theorem State.modLaunch_picks (l : Nat) (f : Launch → Launch) : (s.modLaunch l f).picks = s.picks := rfl
@[simp] theorem State.modLaunch_fresh (l : Nat) (f : Launch → Launch) : (s.modLaunch l f).fresh = s.fresh := rfl
@[simp] theorem State.modLaunch_nextId (l : Nat) (f : Launch → Launch) : (s.modLaunch l f).nextId = s.nextId := rfl
@[simp] theorem State.modLaunch_cur (l : Nat) (f : Launch → Launch) : (s.modLaunch l f).cur = s.cur := rfl
@[simp] theorem State.modLaunch_pre (l : Nat) (f : Launch → Launch) : (s.modLaunch l f).pre = s.pre := rfl
@[simp] theorem State.modLaunch_preL (l : Nat) (f : Launch → Launch) : (s.modLaunch l f).preL = s.preL := rfl

/-! ### modQueue -/

@[simp] theorem State.modQueue_mem (q : Nat) (f : Queue → Queue) : (s.modQueue q f).mem = s.mem := rfl
@[simp] theorem State.modQueue_tags (q : Nat) (f : Queue → Queue) : (s.modQueue q f).tags = s.tags := rfl
@[simp] theorem State.modQueue_owners (q : Nat) (f : Queue → Queue) : (s.modQueue q f).owners = s.owners := rfl
@[simp] theorem State.modQueue_retiredFrames (q : Nat) (f : Queue → Queue) : (s.modQueue q f).retiredFrames = s.retiredFrames := rfl
@[simp] theorem State.modQueue_poison (q : Nat) (f : Queue → Queue) : (s.modQueue q f).poison = s.poison := rfl
@[simp] theorem State.modQueue_failing (q : Nat) (f : Queue → Queue) : (s.modQueue q f).failing = s.failing := rfl
@[simp] theorem State.modQueue_carved (q : Nat) (f : Queue → Queue) : (s.modQueue q f).carved = s.carved := rfl
@[simp] theorem State.modQueue_pool (q : Nat) (f : Queue → Queue) : (s.modQueue q f).pool = s.pool := rfl
@[simp] theorem State.modQueue_frozen (q : Nat) (f : Queue → Queue) : (s.modQueue q f).frozen = s.frozen := rfl
@[simp] theorem State.modQueue_tlbis (q : Nat) (f : Queue → Queue) : (s.modQueue q f).tlbis = s.tlbis := rfl
@[simp] theorem State.modQueue_l2tlb (q : Nat) (f : Queue → Queue) : (s.modQueue q f).l2tlb = s.l2tlb := rfl
@[simp] theorem State.modQueue_regs (q : Nat) (f : Queue → Queue) : (s.modQueue q f).regs = s.regs := rfl
@[simp] theorem State.modQueue_cores (q : Nat) (f : Queue → Queue) : (s.modQueue q f).cores = s.cores := rfl
@[simp] theorem State.modQueue_blocks (q : Nat) (f : Queue → Queue) : (s.modQueue q f).blocks = s.blocks := rfl
@[simp] theorem State.modQueue_launches (q : Nat) (f : Queue → Queue) : (s.modQueue q f).launches = s.launches := rfl
@[simp] theorem State.modQueue_pageReqs (q : Nat) (f : Queue → Queue) : (s.modQueue q f).pageReqs = s.pageReqs := rfl
@[simp] theorem State.modQueue_nextReq (q : Nat) (f : Queue → Queue) : (s.modQueue q f).nextReq = s.nextReq := rfl
@[simp] theorem State.modQueue_saved (q : Nat) (f : Queue → Queue) : (s.modQueue q f).saved = s.saved := rfl
@[simp] theorem State.modQueue_preempts (q : Nat) (f : Queue → Queue) : (s.modQueue q f).preempts = s.preempts := rfl
@[simp] theorem State.modQueue_recs (q : Nat) (f : Queue → Queue) : (s.modQueue q f).recs = s.recs := rfl
@[simp] theorem State.modQueue_loads (q : Nat) (f : Queue → Queue) : (s.modQueue q f).loads = s.loads := rfl
@[simp] theorem State.modQueue_headers (q : Nat) (f : Queue → Queue) : (s.modQueue q f).headers = s.headers := rfl
@[simp] theorem State.modQueue_splices (q : Nat) (f : Queue → Queue) : (s.modQueue q f).splices = s.splices := rfl
@[simp] theorem State.modQueue_switchedIn (q : Nat) (f : Queue → Queue) : (s.modQueue q f).switchedIn = s.switchedIn := rfl
@[simp] theorem State.modQueue_switchedFrom (q : Nat) (f : Queue → Queue) : (s.modQueue q f).switchedFrom = s.switchedFrom := rfl
@[simp] theorem State.modQueue_heldWrites (q : Nat) (f : Queue → Queue) : (s.modQueue q f).heldWrites = s.heldWrites := rfl
@[simp] theorem State.modQueue_wheelAt (q : Nat) (f : Queue → Queue) : (s.modQueue q f).wheelAt = s.wheelAt := rfl
@[simp] theorem State.modQueue_sctrLatch (q : Nat) (f : Queue → Queue) : (s.modQueue q f).sctrLatch = s.sctrLatch := rfl
@[simp] theorem State.modQueue_irqs (q : Nat) (f : Queue → Queue) : (s.modQueue q f).irqs = s.irqs := rfl
@[simp] theorem State.modQueue_gts (q : Nat) (f : Queue → Queue) : (s.modQueue q f).gts = s.gts := rfl
@[simp] theorem State.modQueue_clk (q : Nat) (f : Queue → Queue) : (s.modQueue q f).clk = s.clk := rfl
@[simp] theorem State.modQueue_phase (q : Nat) (f : Queue → Queue) : (s.modQueue q f).phase = s.phase := rfl
@[simp] theorem State.modQueue_dies (q : Nat) (f : Queue → Queue) : (s.modQueue q f).dies = s.dies := rfl
@[simp] theorem State.modQueue_lowGear (q : Nat) (f : Queue → Queue) : (s.modQueue q f).lowGear = s.lowGear := rfl
@[simp] theorem State.modQueue_mhz (q : Nat) (f : Queue → Queue) : (s.modQueue q f).mhz = s.mhz := rfl
@[simp] theorem State.modQueue_maint (q : Nat) (f : Queue → Queue) : (s.modQueue q f).maint = s.maint := rfl
@[simp] theorem State.modQueue_changedAt (q : Nat) (f : Queue → Queue) : (s.modQueue q f).changedAt = s.changedAt := rfl
@[simp] theorem State.modQueue_atticUp (q : Nat) (f : Queue → Queue) : (s.modQueue q f).atticUp = s.atticUp := rfl
@[simp] theorem State.modQueue_ladderUp (q : Nat) (f : Queue → Queue) : (s.modQueue q f).ladderUp = s.ladderUp := rfl
@[simp] theorem State.modQueue_unreachable (q : Nat) (f : Queue → Queue) : (s.modQueue q f).unreachable = s.unreachable := rfl
@[simp] theorem State.modQueue_nonce (q : Nat) (f : Queue → Queue) : (s.modQueue q f).nonce = s.nonce := rfl
@[simp] theorem State.modQueue_reportDue (q : Nat) (f : Queue → Queue) : (s.modQueue q f).reportDue = s.reportDue := rfl
@[simp] theorem State.modQueue_report (q : Nat) (f : Queue → Queue) : (s.modQueue q f).report = s.report := rfl
@[simp] theorem State.modQueue_power (q : Nat) (f : Queue → Queue) : (s.modQueue q f).power = s.power := rfl
@[simp] theorem State.modQueue_verified (q : Nat) (f : Queue → Queue) : (s.modQueue q f).verified = s.verified := rfl
@[simp] theorem State.modQueue_readOut (q : Nat) (f : Queue → Queue) : (s.modQueue q f).readOut = s.readOut := rfl
@[simp] theorem State.modQueue_agenda (q : Nat) (f : Queue → Queue) : (s.modQueue q f).agenda = s.agenda := rfl
@[simp] theorem State.modQueue_picks (q : Nat) (f : Queue → Queue) : (s.modQueue q f).picks = s.picks := rfl
@[simp] theorem State.modQueue_fresh (q : Nat) (f : Queue → Queue) : (s.modQueue q f).fresh = s.fresh := rfl
@[simp] theorem State.modQueue_nextId (q : Nat) (f : Queue → Queue) : (s.modQueue q f).nextId = s.nextId := rfl
@[simp] theorem State.modQueue_cur (q : Nat) (f : Queue → Queue) : (s.modQueue q f).cur = s.cur := rfl
@[simp] theorem State.modQueue_pre (q : Nat) (f : Queue → Queue) : (s.modQueue q f).pre = s.pre := rfl
@[simp] theorem State.modQueue_preL (q : Nat) (f : Queue → Queue) : (s.modQueue q f).preL = s.preL := rfl

/-! ### setReg -/

@[simp] theorem State.setReg_mem (r : RegName) (fn : Nat) (x : DWord) : (s.setReg r fn x).mem = s.mem := rfl
@[simp] theorem State.setReg_tags (r : RegName) (fn : Nat) (x : DWord) : (s.setReg r fn x).tags = s.tags := rfl
@[simp] theorem State.setReg_owners (r : RegName) (fn : Nat) (x : DWord) : (s.setReg r fn x).owners = s.owners := rfl
@[simp] theorem State.setReg_retiredFrames (r : RegName) (fn : Nat) (x : DWord) : (s.setReg r fn x).retiredFrames = s.retiredFrames := rfl
@[simp] theorem State.setReg_poison (r : RegName) (fn : Nat) (x : DWord) : (s.setReg r fn x).poison = s.poison := rfl
@[simp] theorem State.setReg_failing (r : RegName) (fn : Nat) (x : DWord) : (s.setReg r fn x).failing = s.failing := rfl
@[simp] theorem State.setReg_carved (r : RegName) (fn : Nat) (x : DWord) : (s.setReg r fn x).carved = s.carved := rfl
@[simp] theorem State.setReg_pool (r : RegName) (fn : Nat) (x : DWord) : (s.setReg r fn x).pool = s.pool := rfl
@[simp] theorem State.setReg_frozen (r : RegName) (fn : Nat) (x : DWord) : (s.setReg r fn x).frozen = s.frozen := rfl
@[simp] theorem State.setReg_tlbis (r : RegName) (fn : Nat) (x : DWord) : (s.setReg r fn x).tlbis = s.tlbis := rfl
@[simp] theorem State.setReg_l2tlb (r : RegName) (fn : Nat) (x : DWord) : (s.setReg r fn x).l2tlb = s.l2tlb := rfl
@[simp] theorem State.setReg_cores (r : RegName) (fn : Nat) (x : DWord) : (s.setReg r fn x).cores = s.cores := rfl
@[simp] theorem State.setReg_blocks (r : RegName) (fn : Nat) (x : DWord) : (s.setReg r fn x).blocks = s.blocks := rfl
@[simp] theorem State.setReg_launches (r : RegName) (fn : Nat) (x : DWord) : (s.setReg r fn x).launches = s.launches := rfl
@[simp] theorem State.setReg_queues (r : RegName) (fn : Nat) (x : DWord) : (s.setReg r fn x).queues = s.queues := rfl
@[simp] theorem State.setReg_pageReqs (r : RegName) (fn : Nat) (x : DWord) : (s.setReg r fn x).pageReqs = s.pageReqs := rfl
@[simp] theorem State.setReg_nextReq (r : RegName) (fn : Nat) (x : DWord) : (s.setReg r fn x).nextReq = s.nextReq := rfl
@[simp] theorem State.setReg_saved (r : RegName) (fn : Nat) (x : DWord) : (s.setReg r fn x).saved = s.saved := rfl
@[simp] theorem State.setReg_preempts (r : RegName) (fn : Nat) (x : DWord) : (s.setReg r fn x).preempts = s.preempts := rfl
@[simp] theorem State.setReg_recs (r : RegName) (fn : Nat) (x : DWord) : (s.setReg r fn x).recs = s.recs := rfl
@[simp] theorem State.setReg_loads (r : RegName) (fn : Nat) (x : DWord) : (s.setReg r fn x).loads = s.loads := rfl
@[simp] theorem State.setReg_headers (r : RegName) (fn : Nat) (x : DWord) : (s.setReg r fn x).headers = s.headers := rfl
@[simp] theorem State.setReg_splices (r : RegName) (fn : Nat) (x : DWord) : (s.setReg r fn x).splices = s.splices := rfl
@[simp] theorem State.setReg_switchedIn (r : RegName) (fn : Nat) (x : DWord) : (s.setReg r fn x).switchedIn = s.switchedIn := rfl
@[simp] theorem State.setReg_switchedFrom (r : RegName) (fn : Nat) (x : DWord) : (s.setReg r fn x).switchedFrom = s.switchedFrom := rfl
@[simp] theorem State.setReg_heldWrites (r : RegName) (fn : Nat) (x : DWord) : (s.setReg r fn x).heldWrites = s.heldWrites := rfl
@[simp] theorem State.setReg_wheelAt (r : RegName) (fn : Nat) (x : DWord) : (s.setReg r fn x).wheelAt = s.wheelAt := rfl
@[simp] theorem State.setReg_sctrLatch (r : RegName) (fn : Nat) (x : DWord) : (s.setReg r fn x).sctrLatch = s.sctrLatch := rfl
@[simp] theorem State.setReg_irqs (r : RegName) (fn : Nat) (x : DWord) : (s.setReg r fn x).irqs = s.irqs := rfl
@[simp] theorem State.setReg_gts (r : RegName) (fn : Nat) (x : DWord) : (s.setReg r fn x).gts = s.gts := rfl
@[simp] theorem State.setReg_clk (r : RegName) (fn : Nat) (x : DWord) : (s.setReg r fn x).clk = s.clk := rfl
@[simp] theorem State.setReg_phase (r : RegName) (fn : Nat) (x : DWord) : (s.setReg r fn x).phase = s.phase := rfl
@[simp] theorem State.setReg_dies (r : RegName) (fn : Nat) (x : DWord) : (s.setReg r fn x).dies = s.dies := rfl
@[simp] theorem State.setReg_lowGear (r : RegName) (fn : Nat) (x : DWord) : (s.setReg r fn x).lowGear = s.lowGear := rfl
@[simp] theorem State.setReg_mhz (r : RegName) (fn : Nat) (x : DWord) : (s.setReg r fn x).mhz = s.mhz := rfl
@[simp] theorem State.setReg_maint (r : RegName) (fn : Nat) (x : DWord) : (s.setReg r fn x).maint = s.maint := rfl
@[simp] theorem State.setReg_changedAt (r : RegName) (fn : Nat) (x : DWord) : (s.setReg r fn x).changedAt = s.changedAt := rfl
@[simp] theorem State.setReg_atticUp (r : RegName) (fn : Nat) (x : DWord) : (s.setReg r fn x).atticUp = s.atticUp := rfl
@[simp] theorem State.setReg_ladderUp (r : RegName) (fn : Nat) (x : DWord) : (s.setReg r fn x).ladderUp = s.ladderUp := rfl
@[simp] theorem State.setReg_unreachable (r : RegName) (fn : Nat) (x : DWord) : (s.setReg r fn x).unreachable = s.unreachable := rfl
@[simp] theorem State.setReg_nonce (r : RegName) (fn : Nat) (x : DWord) : (s.setReg r fn x).nonce = s.nonce := rfl
@[simp] theorem State.setReg_reportDue (r : RegName) (fn : Nat) (x : DWord) : (s.setReg r fn x).reportDue = s.reportDue := rfl
@[simp] theorem State.setReg_report (r : RegName) (fn : Nat) (x : DWord) : (s.setReg r fn x).report = s.report := rfl
@[simp] theorem State.setReg_power (r : RegName) (fn : Nat) (x : DWord) : (s.setReg r fn x).power = s.power := rfl
@[simp] theorem State.setReg_verified (r : RegName) (fn : Nat) (x : DWord) : (s.setReg r fn x).verified = s.verified := rfl
@[simp] theorem State.setReg_readOut (r : RegName) (fn : Nat) (x : DWord) : (s.setReg r fn x).readOut = s.readOut := rfl
@[simp] theorem State.setReg_agenda (r : RegName) (fn : Nat) (x : DWord) : (s.setReg r fn x).agenda = s.agenda := rfl
@[simp] theorem State.setReg_picks (r : RegName) (fn : Nat) (x : DWord) : (s.setReg r fn x).picks = s.picks := rfl
@[simp] theorem State.setReg_fresh (r : RegName) (fn : Nat) (x : DWord) : (s.setReg r fn x).fresh = s.fresh := rfl
@[simp] theorem State.setReg_nextId (r : RegName) (fn : Nat) (x : DWord) : (s.setReg r fn x).nextId = s.nextId := rfl
@[simp] theorem State.setReg_cur (r : RegName) (fn : Nat) (x : DWord) : (s.setReg r fn x).cur = s.cur := rfl
@[simp] theorem State.setReg_pre (r : RegName) (fn : Nat) (x : DWord) : (s.setReg r fn x).pre = s.pre := rfl
@[simp] theorem State.setReg_preL (r : RegName) (fn : Nat) (x : DWord) : (s.setReg r fn x).preL = s.preL := rfl

/-! ### setBytes -/

@[simp] theorem State.setBytes_tags (pa : Nat) (bs : List Byte) : (s.setBytes pa bs).tags = s.tags := rfl
@[simp] theorem State.setBytes_owners (pa : Nat) (bs : List Byte) : (s.setBytes pa bs).owners = s.owners := rfl
@[simp] theorem State.setBytes_retiredFrames (pa : Nat) (bs : List Byte) : (s.setBytes pa bs).retiredFrames = s.retiredFrames := rfl
@[simp] theorem State.setBytes_failing (pa : Nat) (bs : List Byte) : (s.setBytes pa bs).failing = s.failing := rfl
@[simp] theorem State.setBytes_carved (pa : Nat) (bs : List Byte) : (s.setBytes pa bs).carved = s.carved := rfl
@[simp] theorem State.setBytes_pool (pa : Nat) (bs : List Byte) : (s.setBytes pa bs).pool = s.pool := rfl
@[simp] theorem State.setBytes_frozen (pa : Nat) (bs : List Byte) : (s.setBytes pa bs).frozen = s.frozen := rfl
@[simp] theorem State.setBytes_tlbis (pa : Nat) (bs : List Byte) : (s.setBytes pa bs).tlbis = s.tlbis := rfl
@[simp] theorem State.setBytes_l2tlb (pa : Nat) (bs : List Byte) : (s.setBytes pa bs).l2tlb = s.l2tlb := rfl
@[simp] theorem State.setBytes_regs (pa : Nat) (bs : List Byte) : (s.setBytes pa bs).regs = s.regs := rfl
@[simp] theorem State.setBytes_cores (pa : Nat) (bs : List Byte) : (s.setBytes pa bs).cores = s.cores := rfl
@[simp] theorem State.setBytes_blocks (pa : Nat) (bs : List Byte) : (s.setBytes pa bs).blocks = s.blocks := rfl
@[simp] theorem State.setBytes_launches (pa : Nat) (bs : List Byte) : (s.setBytes pa bs).launches = s.launches := rfl
@[simp] theorem State.setBytes_queues (pa : Nat) (bs : List Byte) : (s.setBytes pa bs).queues = s.queues := rfl
@[simp] theorem State.setBytes_pageReqs (pa : Nat) (bs : List Byte) : (s.setBytes pa bs).pageReqs = s.pageReqs := rfl
@[simp] theorem State.setBytes_nextReq (pa : Nat) (bs : List Byte) : (s.setBytes pa bs).nextReq = s.nextReq := rfl
@[simp] theorem State.setBytes_saved (pa : Nat) (bs : List Byte) : (s.setBytes pa bs).saved = s.saved := rfl
@[simp] theorem State.setBytes_preempts (pa : Nat) (bs : List Byte) : (s.setBytes pa bs).preempts = s.preempts := rfl
@[simp] theorem State.setBytes_recs (pa : Nat) (bs : List Byte) : (s.setBytes pa bs).recs = s.recs := rfl
@[simp] theorem State.setBytes_loads (pa : Nat) (bs : List Byte) : (s.setBytes pa bs).loads = s.loads := rfl
@[simp] theorem State.setBytes_headers (pa : Nat) (bs : List Byte) : (s.setBytes pa bs).headers = s.headers := rfl
@[simp] theorem State.setBytes_splices (pa : Nat) (bs : List Byte) : (s.setBytes pa bs).splices = s.splices := rfl
@[simp] theorem State.setBytes_switchedIn (pa : Nat) (bs : List Byte) : (s.setBytes pa bs).switchedIn = s.switchedIn := rfl
@[simp] theorem State.setBytes_switchedFrom (pa : Nat) (bs : List Byte) : (s.setBytes pa bs).switchedFrom = s.switchedFrom := rfl
@[simp] theorem State.setBytes_heldWrites (pa : Nat) (bs : List Byte) : (s.setBytes pa bs).heldWrites = s.heldWrites := rfl
@[simp] theorem State.setBytes_wheelAt (pa : Nat) (bs : List Byte) : (s.setBytes pa bs).wheelAt = s.wheelAt := rfl
@[simp] theorem State.setBytes_sctrLatch (pa : Nat) (bs : List Byte) : (s.setBytes pa bs).sctrLatch = s.sctrLatch := rfl
@[simp] theorem State.setBytes_irqs (pa : Nat) (bs : List Byte) : (s.setBytes pa bs).irqs = s.irqs := rfl
@[simp] theorem State.setBytes_gts (pa : Nat) (bs : List Byte) : (s.setBytes pa bs).gts = s.gts := rfl
@[simp] theorem State.setBytes_clk (pa : Nat) (bs : List Byte) : (s.setBytes pa bs).clk = s.clk := rfl
@[simp] theorem State.setBytes_phase (pa : Nat) (bs : List Byte) : (s.setBytes pa bs).phase = s.phase := rfl
@[simp] theorem State.setBytes_dies (pa : Nat) (bs : List Byte) : (s.setBytes pa bs).dies = s.dies := rfl
@[simp] theorem State.setBytes_lowGear (pa : Nat) (bs : List Byte) : (s.setBytes pa bs).lowGear = s.lowGear := rfl
@[simp] theorem State.setBytes_mhz (pa : Nat) (bs : List Byte) : (s.setBytes pa bs).mhz = s.mhz := rfl
@[simp] theorem State.setBytes_maint (pa : Nat) (bs : List Byte) : (s.setBytes pa bs).maint = s.maint := rfl
@[simp] theorem State.setBytes_changedAt (pa : Nat) (bs : List Byte) : (s.setBytes pa bs).changedAt = s.changedAt := rfl
@[simp] theorem State.setBytes_atticUp (pa : Nat) (bs : List Byte) : (s.setBytes pa bs).atticUp = s.atticUp := rfl
@[simp] theorem State.setBytes_ladderUp (pa : Nat) (bs : List Byte) : (s.setBytes pa bs).ladderUp = s.ladderUp := rfl
@[simp] theorem State.setBytes_unreachable (pa : Nat) (bs : List Byte) : (s.setBytes pa bs).unreachable = s.unreachable := rfl
@[simp] theorem State.setBytes_nonce (pa : Nat) (bs : List Byte) : (s.setBytes pa bs).nonce = s.nonce := rfl
@[simp] theorem State.setBytes_reportDue (pa : Nat) (bs : List Byte) : (s.setBytes pa bs).reportDue = s.reportDue := rfl
@[simp] theorem State.setBytes_report (pa : Nat) (bs : List Byte) : (s.setBytes pa bs).report = s.report := rfl
@[simp] theorem State.setBytes_power (pa : Nat) (bs : List Byte) : (s.setBytes pa bs).power = s.power := rfl
@[simp] theorem State.setBytes_verified (pa : Nat) (bs : List Byte) : (s.setBytes pa bs).verified = s.verified := rfl
@[simp] theorem State.setBytes_readOut (pa : Nat) (bs : List Byte) : (s.setBytes pa bs).readOut = s.readOut := rfl
@[simp] theorem State.setBytes_agenda (pa : Nat) (bs : List Byte) : (s.setBytes pa bs).agenda = s.agenda := rfl
@[simp] theorem State.setBytes_picks (pa : Nat) (bs : List Byte) : (s.setBytes pa bs).picks = s.picks := rfl
@[simp] theorem State.setBytes_fresh (pa : Nat) (bs : List Byte) : (s.setBytes pa bs).fresh = s.fresh := rfl
@[simp] theorem State.setBytes_nextId (pa : Nat) (bs : List Byte) : (s.setBytes pa bs).nextId = s.nextId := rfl
@[simp] theorem State.setBytes_cur (pa : Nat) (bs : List Byte) : (s.setBytes pa bs).cur = s.cur := rfl
@[simp] theorem State.setBytes_pre (pa : Nat) (bs : List Byte) : (s.setBytes pa bs).pre = s.pre := rfl
@[simp] theorem State.setBytes_preL (pa : Nat) (bs : List Byte) : (s.setBytes pa bs).preL = s.preL := rfl

/-! ### setTag -/

@[simp] theorem State.setTag_mem (pa : Nat) (t : BitVec 4) : (s.setTag pa t).mem = s.mem := rfl
@[simp] theorem State.setTag_owners (pa : Nat) (t : BitVec 4) : (s.setTag pa t).owners = s.owners := rfl
@[simp] theorem State.setTag_retiredFrames (pa : Nat) (t : BitVec 4) : (s.setTag pa t).retiredFrames = s.retiredFrames := rfl
@[simp] theorem State.setTag_poison (pa : Nat) (t : BitVec 4) : (s.setTag pa t).poison = s.poison := rfl
@[simp] theorem State.setTag_failing (pa : Nat) (t : BitVec 4) : (s.setTag pa t).failing = s.failing := rfl
@[simp] theorem State.setTag_carved (pa : Nat) (t : BitVec 4) : (s.setTag pa t).carved = s.carved := rfl
@[simp] theorem State.setTag_pool (pa : Nat) (t : BitVec 4) : (s.setTag pa t).pool = s.pool := rfl
@[simp] theorem State.setTag_frozen (pa : Nat) (t : BitVec 4) : (s.setTag pa t).frozen = s.frozen := rfl
@[simp] theorem State.setTag_tlbis (pa : Nat) (t : BitVec 4) : (s.setTag pa t).tlbis = s.tlbis := rfl
@[simp] theorem State.setTag_l2tlb (pa : Nat) (t : BitVec 4) : (s.setTag pa t).l2tlb = s.l2tlb := rfl
@[simp] theorem State.setTag_regs (pa : Nat) (t : BitVec 4) : (s.setTag pa t).regs = s.regs := rfl
@[simp] theorem State.setTag_cores (pa : Nat) (t : BitVec 4) : (s.setTag pa t).cores = s.cores := rfl
@[simp] theorem State.setTag_blocks (pa : Nat) (t : BitVec 4) : (s.setTag pa t).blocks = s.blocks := rfl
@[simp] theorem State.setTag_launches (pa : Nat) (t : BitVec 4) : (s.setTag pa t).launches = s.launches := rfl
@[simp] theorem State.setTag_queues (pa : Nat) (t : BitVec 4) : (s.setTag pa t).queues = s.queues := rfl
@[simp] theorem State.setTag_pageReqs (pa : Nat) (t : BitVec 4) : (s.setTag pa t).pageReqs = s.pageReqs := rfl
@[simp] theorem State.setTag_nextReq (pa : Nat) (t : BitVec 4) : (s.setTag pa t).nextReq = s.nextReq := rfl
@[simp] theorem State.setTag_saved (pa : Nat) (t : BitVec 4) : (s.setTag pa t).saved = s.saved := rfl
@[simp] theorem State.setTag_preempts (pa : Nat) (t : BitVec 4) : (s.setTag pa t).preempts = s.preempts := rfl
@[simp] theorem State.setTag_recs (pa : Nat) (t : BitVec 4) : (s.setTag pa t).recs = s.recs := rfl
@[simp] theorem State.setTag_loads (pa : Nat) (t : BitVec 4) : (s.setTag pa t).loads = s.loads := rfl
@[simp] theorem State.setTag_headers (pa : Nat) (t : BitVec 4) : (s.setTag pa t).headers = s.headers := rfl
@[simp] theorem State.setTag_splices (pa : Nat) (t : BitVec 4) : (s.setTag pa t).splices = s.splices := rfl
@[simp] theorem State.setTag_switchedIn (pa : Nat) (t : BitVec 4) : (s.setTag pa t).switchedIn = s.switchedIn := rfl
@[simp] theorem State.setTag_switchedFrom (pa : Nat) (t : BitVec 4) : (s.setTag pa t).switchedFrom = s.switchedFrom := rfl
@[simp] theorem State.setTag_heldWrites (pa : Nat) (t : BitVec 4) : (s.setTag pa t).heldWrites = s.heldWrites := rfl
@[simp] theorem State.setTag_wheelAt (pa : Nat) (t : BitVec 4) : (s.setTag pa t).wheelAt = s.wheelAt := rfl
@[simp] theorem State.setTag_sctrLatch (pa : Nat) (t : BitVec 4) : (s.setTag pa t).sctrLatch = s.sctrLatch := rfl
@[simp] theorem State.setTag_irqs (pa : Nat) (t : BitVec 4) : (s.setTag pa t).irqs = s.irqs := rfl
@[simp] theorem State.setTag_gts (pa : Nat) (t : BitVec 4) : (s.setTag pa t).gts = s.gts := rfl
@[simp] theorem State.setTag_clk (pa : Nat) (t : BitVec 4) : (s.setTag pa t).clk = s.clk := rfl
@[simp] theorem State.setTag_phase (pa : Nat) (t : BitVec 4) : (s.setTag pa t).phase = s.phase := rfl
@[simp] theorem State.setTag_dies (pa : Nat) (t : BitVec 4) : (s.setTag pa t).dies = s.dies := rfl
@[simp] theorem State.setTag_lowGear (pa : Nat) (t : BitVec 4) : (s.setTag pa t).lowGear = s.lowGear := rfl
@[simp] theorem State.setTag_mhz (pa : Nat) (t : BitVec 4) : (s.setTag pa t).mhz = s.mhz := rfl
@[simp] theorem State.setTag_maint (pa : Nat) (t : BitVec 4) : (s.setTag pa t).maint = s.maint := rfl
@[simp] theorem State.setTag_changedAt (pa : Nat) (t : BitVec 4) : (s.setTag pa t).changedAt = s.changedAt := rfl
@[simp] theorem State.setTag_atticUp (pa : Nat) (t : BitVec 4) : (s.setTag pa t).atticUp = s.atticUp := rfl
@[simp] theorem State.setTag_ladderUp (pa : Nat) (t : BitVec 4) : (s.setTag pa t).ladderUp = s.ladderUp := rfl
@[simp] theorem State.setTag_unreachable (pa : Nat) (t : BitVec 4) : (s.setTag pa t).unreachable = s.unreachable := rfl
@[simp] theorem State.setTag_nonce (pa : Nat) (t : BitVec 4) : (s.setTag pa t).nonce = s.nonce := rfl
@[simp] theorem State.setTag_reportDue (pa : Nat) (t : BitVec 4) : (s.setTag pa t).reportDue = s.reportDue := rfl
@[simp] theorem State.setTag_report (pa : Nat) (t : BitVec 4) : (s.setTag pa t).report = s.report := rfl
@[simp] theorem State.setTag_power (pa : Nat) (t : BitVec 4) : (s.setTag pa t).power = s.power := rfl
@[simp] theorem State.setTag_verified (pa : Nat) (t : BitVec 4) : (s.setTag pa t).verified = s.verified := rfl
@[simp] theorem State.setTag_readOut (pa : Nat) (t : BitVec 4) : (s.setTag pa t).readOut = s.readOut := rfl
@[simp] theorem State.setTag_agenda (pa : Nat) (t : BitVec 4) : (s.setTag pa t).agenda = s.agenda := rfl
@[simp] theorem State.setTag_picks (pa : Nat) (t : BitVec 4) : (s.setTag pa t).picks = s.picks := rfl
@[simp] theorem State.setTag_fresh (pa : Nat) (t : BitVec 4) : (s.setTag pa t).fresh = s.fresh := rfl
@[simp] theorem State.setTag_nextId (pa : Nat) (t : BitVec 4) : (s.setTag pa t).nextId = s.nextId := rfl
@[simp] theorem State.setTag_cur (pa : Nat) (t : BitVec 4) : (s.setTag pa t).cur = s.cur := rfl
@[simp] theorem State.setTag_pre (pa : Nat) (t : BitVec 4) : (s.setTag pa t).pre = s.pre := rfl
@[simp] theorem State.setTag_preL (pa : Nat) (t : BitVec 4) : (s.setTag pa t).preL = s.preL := rfl

/-! ### setOwner -/

@[simp] theorem State.setOwner_mem (n : Nat) (x : Byte) : (s.setOwner n x).mem = s.mem := rfl
@[simp] theorem State.setOwner_tags (n : Nat) (x : Byte) : (s.setOwner n x).tags = s.tags := rfl
@[simp] theorem State.setOwner_retiredFrames (n : Nat) (x : Byte) : (s.setOwner n x).retiredFrames = s.retiredFrames := rfl
@[simp] theorem State.setOwner_poison (n : Nat) (x : Byte) : (s.setOwner n x).poison = s.poison := rfl
@[simp] theorem State.setOwner_failing (n : Nat) (x : Byte) : (s.setOwner n x).failing = s.failing := rfl
@[simp] theorem State.setOwner_carved (n : Nat) (x : Byte) : (s.setOwner n x).carved = s.carved := rfl
@[simp] theorem State.setOwner_pool (n : Nat) (x : Byte) : (s.setOwner n x).pool = s.pool := rfl
@[simp] theorem State.setOwner_frozen (n : Nat) (x : Byte) : (s.setOwner n x).frozen = s.frozen := rfl
@[simp] theorem State.setOwner_tlbis (n : Nat) (x : Byte) : (s.setOwner n x).tlbis = s.tlbis := rfl
@[simp] theorem State.setOwner_l2tlb (n : Nat) (x : Byte) : (s.setOwner n x).l2tlb = s.l2tlb := rfl
@[simp] theorem State.setOwner_regs (n : Nat) (x : Byte) : (s.setOwner n x).regs = s.regs := rfl
@[simp] theorem State.setOwner_cores (n : Nat) (x : Byte) : (s.setOwner n x).cores = s.cores := rfl
@[simp] theorem State.setOwner_blocks (n : Nat) (x : Byte) : (s.setOwner n x).blocks = s.blocks := rfl
@[simp] theorem State.setOwner_launches (n : Nat) (x : Byte) : (s.setOwner n x).launches = s.launches := rfl
@[simp] theorem State.setOwner_queues (n : Nat) (x : Byte) : (s.setOwner n x).queues = s.queues := rfl
@[simp] theorem State.setOwner_pageReqs (n : Nat) (x : Byte) : (s.setOwner n x).pageReqs = s.pageReqs := rfl
@[simp] theorem State.setOwner_nextReq (n : Nat) (x : Byte) : (s.setOwner n x).nextReq = s.nextReq := rfl
@[simp] theorem State.setOwner_saved (n : Nat) (x : Byte) : (s.setOwner n x).saved = s.saved := rfl
@[simp] theorem State.setOwner_preempts (n : Nat) (x : Byte) : (s.setOwner n x).preempts = s.preempts := rfl
@[simp] theorem State.setOwner_recs (n : Nat) (x : Byte) : (s.setOwner n x).recs = s.recs := rfl
@[simp] theorem State.setOwner_loads (n : Nat) (x : Byte) : (s.setOwner n x).loads = s.loads := rfl
@[simp] theorem State.setOwner_headers (n : Nat) (x : Byte) : (s.setOwner n x).headers = s.headers := rfl
@[simp] theorem State.setOwner_splices (n : Nat) (x : Byte) : (s.setOwner n x).splices = s.splices := rfl
@[simp] theorem State.setOwner_switchedIn (n : Nat) (x : Byte) : (s.setOwner n x).switchedIn = s.switchedIn := rfl
@[simp] theorem State.setOwner_switchedFrom (n : Nat) (x : Byte) : (s.setOwner n x).switchedFrom = s.switchedFrom := rfl
@[simp] theorem State.setOwner_heldWrites (n : Nat) (x : Byte) : (s.setOwner n x).heldWrites = s.heldWrites := rfl
@[simp] theorem State.setOwner_wheelAt (n : Nat) (x : Byte) : (s.setOwner n x).wheelAt = s.wheelAt := rfl
@[simp] theorem State.setOwner_sctrLatch (n : Nat) (x : Byte) : (s.setOwner n x).sctrLatch = s.sctrLatch := rfl
@[simp] theorem State.setOwner_irqs (n : Nat) (x : Byte) : (s.setOwner n x).irqs = s.irqs := rfl
@[simp] theorem State.setOwner_gts (n : Nat) (x : Byte) : (s.setOwner n x).gts = s.gts := rfl
@[simp] theorem State.setOwner_clk (n : Nat) (x : Byte) : (s.setOwner n x).clk = s.clk := rfl
@[simp] theorem State.setOwner_phase (n : Nat) (x : Byte) : (s.setOwner n x).phase = s.phase := rfl
@[simp] theorem State.setOwner_dies (n : Nat) (x : Byte) : (s.setOwner n x).dies = s.dies := rfl
@[simp] theorem State.setOwner_lowGear (n : Nat) (x : Byte) : (s.setOwner n x).lowGear = s.lowGear := rfl
@[simp] theorem State.setOwner_mhz (n : Nat) (x : Byte) : (s.setOwner n x).mhz = s.mhz := rfl
@[simp] theorem State.setOwner_maint (n : Nat) (x : Byte) : (s.setOwner n x).maint = s.maint := rfl
@[simp] theorem State.setOwner_changedAt (n : Nat) (x : Byte) : (s.setOwner n x).changedAt = s.changedAt := rfl
@[simp] theorem State.setOwner_atticUp (n : Nat) (x : Byte) : (s.setOwner n x).atticUp = s.atticUp := rfl
@[simp] theorem State.setOwner_ladderUp (n : Nat) (x : Byte) : (s.setOwner n x).ladderUp = s.ladderUp := rfl
@[simp] theorem State.setOwner_unreachable (n : Nat) (x : Byte) : (s.setOwner n x).unreachable = s.unreachable := rfl
@[simp] theorem State.setOwner_nonce (n : Nat) (x : Byte) : (s.setOwner n x).nonce = s.nonce := rfl
@[simp] theorem State.setOwner_reportDue (n : Nat) (x : Byte) : (s.setOwner n x).reportDue = s.reportDue := rfl
@[simp] theorem State.setOwner_report (n : Nat) (x : Byte) : (s.setOwner n x).report = s.report := rfl
@[simp] theorem State.setOwner_power (n : Nat) (x : Byte) : (s.setOwner n x).power = s.power := rfl
@[simp] theorem State.setOwner_verified (n : Nat) (x : Byte) : (s.setOwner n x).verified = s.verified := rfl
@[simp] theorem State.setOwner_readOut (n : Nat) (x : Byte) : (s.setOwner n x).readOut = s.readOut := rfl
@[simp] theorem State.setOwner_agenda (n : Nat) (x : Byte) : (s.setOwner n x).agenda = s.agenda := rfl
@[simp] theorem State.setOwner_picks (n : Nat) (x : Byte) : (s.setOwner n x).picks = s.picks := rfl
@[simp] theorem State.setOwner_fresh (n : Nat) (x : Byte) : (s.setOwner n x).fresh = s.fresh := rfl
@[simp] theorem State.setOwner_nextId (n : Nat) (x : Byte) : (s.setOwner n x).nextId = s.nextId := rfl
@[simp] theorem State.setOwner_cur (n : Nat) (x : Byte) : (s.setOwner n x).cur = s.cur := rfl
@[simp] theorem State.setOwner_pre (n : Nat) (x : Byte) : (s.setOwner n x).pre = s.pre := rfl
@[simp] theorem State.setOwner_preL (n : Nat) (x : Byte) : (s.setOwner n x).preL = s.preL := rfl

/-! ### zeroRange -/

@[simp] theorem State.zeroRange_owners (pa n : Nat) : (s.zeroRange pa n).owners = s.owners := rfl
@[simp] theorem State.zeroRange_retiredFrames (pa n : Nat) : (s.zeroRange pa n).retiredFrames = s.retiredFrames := rfl
@[simp] theorem State.zeroRange_failing (pa n : Nat) : (s.zeroRange pa n).failing = s.failing := rfl
@[simp] theorem State.zeroRange_carved (pa n : Nat) : (s.zeroRange pa n).carved = s.carved := rfl
@[simp] theorem State.zeroRange_pool (pa n : Nat) : (s.zeroRange pa n).pool = s.pool := rfl
@[simp] theorem State.zeroRange_frozen (pa n : Nat) : (s.zeroRange pa n).frozen = s.frozen := rfl
@[simp] theorem State.zeroRange_tlbis (pa n : Nat) : (s.zeroRange pa n).tlbis = s.tlbis := rfl
@[simp] theorem State.zeroRange_l2tlb (pa n : Nat) : (s.zeroRange pa n).l2tlb = s.l2tlb := rfl
@[simp] theorem State.zeroRange_regs (pa n : Nat) : (s.zeroRange pa n).regs = s.regs := rfl
@[simp] theorem State.zeroRange_cores (pa n : Nat) : (s.zeroRange pa n).cores = s.cores := rfl
@[simp] theorem State.zeroRange_blocks (pa n : Nat) : (s.zeroRange pa n).blocks = s.blocks := rfl
@[simp] theorem State.zeroRange_launches (pa n : Nat) : (s.zeroRange pa n).launches = s.launches := rfl
@[simp] theorem State.zeroRange_queues (pa n : Nat) : (s.zeroRange pa n).queues = s.queues := rfl
@[simp] theorem State.zeroRange_pageReqs (pa n : Nat) : (s.zeroRange pa n).pageReqs = s.pageReqs := rfl
@[simp] theorem State.zeroRange_nextReq (pa n : Nat) : (s.zeroRange pa n).nextReq = s.nextReq := rfl
@[simp] theorem State.zeroRange_saved (pa n : Nat) : (s.zeroRange pa n).saved = s.saved := rfl
@[simp] theorem State.zeroRange_preempts (pa n : Nat) : (s.zeroRange pa n).preempts = s.preempts := rfl
@[simp] theorem State.zeroRange_recs (pa n : Nat) : (s.zeroRange pa n).recs = s.recs := rfl
@[simp] theorem State.zeroRange_loads (pa n : Nat) : (s.zeroRange pa n).loads = s.loads := rfl
@[simp] theorem State.zeroRange_headers (pa n : Nat) : (s.zeroRange pa n).headers = s.headers := rfl
@[simp] theorem State.zeroRange_splices (pa n : Nat) : (s.zeroRange pa n).splices = s.splices := rfl
@[simp] theorem State.zeroRange_switchedIn (pa n : Nat) : (s.zeroRange pa n).switchedIn = s.switchedIn := rfl
@[simp] theorem State.zeroRange_switchedFrom (pa n : Nat) : (s.zeroRange pa n).switchedFrom = s.switchedFrom := rfl
@[simp] theorem State.zeroRange_heldWrites (pa n : Nat) : (s.zeroRange pa n).heldWrites = s.heldWrites := rfl
@[simp] theorem State.zeroRange_wheelAt (pa n : Nat) : (s.zeroRange pa n).wheelAt = s.wheelAt := rfl
@[simp] theorem State.zeroRange_sctrLatch (pa n : Nat) : (s.zeroRange pa n).sctrLatch = s.sctrLatch := rfl
@[simp] theorem State.zeroRange_irqs (pa n : Nat) : (s.zeroRange pa n).irqs = s.irqs := rfl
@[simp] theorem State.zeroRange_gts (pa n : Nat) : (s.zeroRange pa n).gts = s.gts := rfl
@[simp] theorem State.zeroRange_clk (pa n : Nat) : (s.zeroRange pa n).clk = s.clk := rfl
@[simp] theorem State.zeroRange_phase (pa n : Nat) : (s.zeroRange pa n).phase = s.phase := rfl
@[simp] theorem State.zeroRange_dies (pa n : Nat) : (s.zeroRange pa n).dies = s.dies := rfl
@[simp] theorem State.zeroRange_lowGear (pa n : Nat) : (s.zeroRange pa n).lowGear = s.lowGear := rfl
@[simp] theorem State.zeroRange_mhz (pa n : Nat) : (s.zeroRange pa n).mhz = s.mhz := rfl
@[simp] theorem State.zeroRange_maint (pa n : Nat) : (s.zeroRange pa n).maint = s.maint := rfl
@[simp] theorem State.zeroRange_changedAt (pa n : Nat) : (s.zeroRange pa n).changedAt = s.changedAt := rfl
@[simp] theorem State.zeroRange_atticUp (pa n : Nat) : (s.zeroRange pa n).atticUp = s.atticUp := rfl
@[simp] theorem State.zeroRange_ladderUp (pa n : Nat) : (s.zeroRange pa n).ladderUp = s.ladderUp := rfl
@[simp] theorem State.zeroRange_unreachable (pa n : Nat) : (s.zeroRange pa n).unreachable = s.unreachable := rfl
@[simp] theorem State.zeroRange_nonce (pa n : Nat) : (s.zeroRange pa n).nonce = s.nonce := rfl
@[simp] theorem State.zeroRange_reportDue (pa n : Nat) : (s.zeroRange pa n).reportDue = s.reportDue := rfl
@[simp] theorem State.zeroRange_report (pa n : Nat) : (s.zeroRange pa n).report = s.report := rfl
@[simp] theorem State.zeroRange_power (pa n : Nat) : (s.zeroRange pa n).power = s.power := rfl
@[simp] theorem State.zeroRange_verified (pa n : Nat) : (s.zeroRange pa n).verified = s.verified := rfl
@[simp] theorem State.zeroRange_readOut (pa n : Nat) : (s.zeroRange pa n).readOut = s.readOut := rfl
@[simp] theorem State.zeroRange_agenda (pa n : Nat) : (s.zeroRange pa n).agenda = s.agenda := rfl
@[simp] theorem State.zeroRange_picks (pa n : Nat) : (s.zeroRange pa n).picks = s.picks := rfl
@[simp] theorem State.zeroRange_fresh (pa n : Nat) : (s.zeroRange pa n).fresh = s.fresh := rfl
@[simp] theorem State.zeroRange_nextId (pa n : Nat) : (s.zeroRange pa n).nextId = s.nextId := rfl
@[simp] theorem State.zeroRange_cur (pa n : Nat) : (s.zeroRange pa n).cur = s.cur := rfl
@[simp] theorem State.zeroRange_pre (pa n : Nat) : (s.zeroRange pa n).pre = s.pre := rfl
@[simp] theorem State.zeroRange_preL (pa n : Nat) : (s.zeroRange pa n).preL = s.preL := rfl

/-! ### pushRec -/

@[simp] theorem State.pushRec_mem (r : Rec) : (s.pushRec r).mem = s.mem := rfl
@[simp] theorem State.pushRec_tags (r : Rec) : (s.pushRec r).tags = s.tags := rfl
@[simp] theorem State.pushRec_owners (r : Rec) : (s.pushRec r).owners = s.owners := rfl
@[simp] theorem State.pushRec_retiredFrames (r : Rec) : (s.pushRec r).retiredFrames = s.retiredFrames := rfl
@[simp] theorem State.pushRec_poison (r : Rec) : (s.pushRec r).poison = s.poison := rfl
@[simp] theorem State.pushRec_failing (r : Rec) : (s.pushRec r).failing = s.failing := rfl
@[simp] theorem State.pushRec_carved (r : Rec) : (s.pushRec r).carved = s.carved := rfl
@[simp] theorem State.pushRec_pool (r : Rec) : (s.pushRec r).pool = s.pool := rfl
@[simp] theorem State.pushRec_frozen (r : Rec) : (s.pushRec r).frozen = s.frozen := rfl
@[simp] theorem State.pushRec_tlbis (r : Rec) : (s.pushRec r).tlbis = s.tlbis := rfl
@[simp] theorem State.pushRec_l2tlb (r : Rec) : (s.pushRec r).l2tlb = s.l2tlb := rfl
@[simp] theorem State.pushRec_regs (r : Rec) : (s.pushRec r).regs = s.regs := rfl
@[simp] theorem State.pushRec_cores (r : Rec) : (s.pushRec r).cores = s.cores := rfl
@[simp] theorem State.pushRec_blocks (r : Rec) : (s.pushRec r).blocks = s.blocks := rfl
@[simp] theorem State.pushRec_launches (r : Rec) : (s.pushRec r).launches = s.launches := rfl
@[simp] theorem State.pushRec_queues (r : Rec) : (s.pushRec r).queues = s.queues := rfl
@[simp] theorem State.pushRec_pageReqs (r : Rec) : (s.pushRec r).pageReqs = s.pageReqs := rfl
@[simp] theorem State.pushRec_nextReq (r : Rec) : (s.pushRec r).nextReq = s.nextReq := rfl
@[simp] theorem State.pushRec_saved (r : Rec) : (s.pushRec r).saved = s.saved := rfl
@[simp] theorem State.pushRec_preempts (r : Rec) : (s.pushRec r).preempts = s.preempts := rfl
@[simp] theorem State.pushRec_loads (r : Rec) : (s.pushRec r).loads = s.loads := rfl
@[simp] theorem State.pushRec_headers (r : Rec) : (s.pushRec r).headers = s.headers := rfl
@[simp] theorem State.pushRec_splices (r : Rec) : (s.pushRec r).splices = s.splices := rfl
@[simp] theorem State.pushRec_switchedIn (r : Rec) : (s.pushRec r).switchedIn = s.switchedIn := rfl
@[simp] theorem State.pushRec_switchedFrom (r : Rec) : (s.pushRec r).switchedFrom = s.switchedFrom := rfl
@[simp] theorem State.pushRec_heldWrites (r : Rec) : (s.pushRec r).heldWrites = s.heldWrites := rfl
@[simp] theorem State.pushRec_wheelAt (r : Rec) : (s.pushRec r).wheelAt = s.wheelAt := rfl
@[simp] theorem State.pushRec_sctrLatch (r : Rec) : (s.pushRec r).sctrLatch = s.sctrLatch := rfl
@[simp] theorem State.pushRec_irqs (r : Rec) : (s.pushRec r).irqs = s.irqs := rfl
@[simp] theorem State.pushRec_gts (r : Rec) : (s.pushRec r).gts = s.gts := rfl
@[simp] theorem State.pushRec_clk (r : Rec) : (s.pushRec r).clk = s.clk := rfl
@[simp] theorem State.pushRec_phase (r : Rec) : (s.pushRec r).phase = s.phase := rfl
@[simp] theorem State.pushRec_dies (r : Rec) : (s.pushRec r).dies = s.dies := rfl
@[simp] theorem State.pushRec_lowGear (r : Rec) : (s.pushRec r).lowGear = s.lowGear := rfl
@[simp] theorem State.pushRec_mhz (r : Rec) : (s.pushRec r).mhz = s.mhz := rfl
@[simp] theorem State.pushRec_maint (r : Rec) : (s.pushRec r).maint = s.maint := rfl
@[simp] theorem State.pushRec_changedAt (r : Rec) : (s.pushRec r).changedAt = s.changedAt := rfl
@[simp] theorem State.pushRec_atticUp (r : Rec) : (s.pushRec r).atticUp = s.atticUp := rfl
@[simp] theorem State.pushRec_ladderUp (r : Rec) : (s.pushRec r).ladderUp = s.ladderUp := rfl
@[simp] theorem State.pushRec_unreachable (r : Rec) : (s.pushRec r).unreachable = s.unreachable := rfl
@[simp] theorem State.pushRec_nonce (r : Rec) : (s.pushRec r).nonce = s.nonce := rfl
@[simp] theorem State.pushRec_reportDue (r : Rec) : (s.pushRec r).reportDue = s.reportDue := rfl
@[simp] theorem State.pushRec_report (r : Rec) : (s.pushRec r).report = s.report := rfl
@[simp] theorem State.pushRec_power (r : Rec) : (s.pushRec r).power = s.power := rfl
@[simp] theorem State.pushRec_verified (r : Rec) : (s.pushRec r).verified = s.verified := rfl
@[simp] theorem State.pushRec_readOut (r : Rec) : (s.pushRec r).readOut = s.readOut := rfl
@[simp] theorem State.pushRec_agenda (r : Rec) : (s.pushRec r).agenda = s.agenda := rfl
@[simp] theorem State.pushRec_picks (r : Rec) : (s.pushRec r).picks = s.picks := rfl
@[simp] theorem State.pushRec_fresh (r : Rec) : (s.pushRec r).fresh = s.fresh := rfl
@[simp] theorem State.pushRec_nextId (r : Rec) : (s.pushRec r).nextId = s.nextId := rfl
@[simp] theorem State.pushRec_cur (r : Rec) : (s.pushRec r).cur = s.cur := rfl
@[simp] theorem State.pushRec_pre (r : Rec) : (s.pushRec r).pre = s.pre := rfl
@[simp] theorem State.pushRec_preL (r : Rec) : (s.pushRec r).preL = s.preL := rfl

/-! ### signal -/

@[simp] theorem State.signal_mem (fn v : Nat) : (s.signal fn v).mem = s.mem := rfl
@[simp] theorem State.signal_tags (fn v : Nat) : (s.signal fn v).tags = s.tags := rfl
@[simp] theorem State.signal_owners (fn v : Nat) : (s.signal fn v).owners = s.owners := rfl
@[simp] theorem State.signal_retiredFrames (fn v : Nat) : (s.signal fn v).retiredFrames = s.retiredFrames := rfl
@[simp] theorem State.signal_poison (fn v : Nat) : (s.signal fn v).poison = s.poison := rfl
@[simp] theorem State.signal_failing (fn v : Nat) : (s.signal fn v).failing = s.failing := rfl
@[simp] theorem State.signal_carved (fn v : Nat) : (s.signal fn v).carved = s.carved := rfl
@[simp] theorem State.signal_pool (fn v : Nat) : (s.signal fn v).pool = s.pool := rfl
@[simp] theorem State.signal_frozen (fn v : Nat) : (s.signal fn v).frozen = s.frozen := rfl
@[simp] theorem State.signal_tlbis (fn v : Nat) : (s.signal fn v).tlbis = s.tlbis := rfl
@[simp] theorem State.signal_l2tlb (fn v : Nat) : (s.signal fn v).l2tlb = s.l2tlb := rfl
@[simp] theorem State.signal_regs (fn v : Nat) : (s.signal fn v).regs = s.regs := rfl
@[simp] theorem State.signal_cores (fn v : Nat) : (s.signal fn v).cores = s.cores := rfl
@[simp] theorem State.signal_blocks (fn v : Nat) : (s.signal fn v).blocks = s.blocks := rfl
@[simp] theorem State.signal_launches (fn v : Nat) : (s.signal fn v).launches = s.launches := rfl
@[simp] theorem State.signal_queues (fn v : Nat) : (s.signal fn v).queues = s.queues := rfl
@[simp] theorem State.signal_pageReqs (fn v : Nat) : (s.signal fn v).pageReqs = s.pageReqs := rfl
@[simp] theorem State.signal_nextReq (fn v : Nat) : (s.signal fn v).nextReq = s.nextReq := rfl
@[simp] theorem State.signal_saved (fn v : Nat) : (s.signal fn v).saved = s.saved := rfl
@[simp] theorem State.signal_preempts (fn v : Nat) : (s.signal fn v).preempts = s.preempts := rfl
@[simp] theorem State.signal_recs (fn v : Nat) : (s.signal fn v).recs = s.recs := rfl
@[simp] theorem State.signal_loads (fn v : Nat) : (s.signal fn v).loads = s.loads := rfl
@[simp] theorem State.signal_headers (fn v : Nat) : (s.signal fn v).headers = s.headers := rfl
@[simp] theorem State.signal_splices (fn v : Nat) : (s.signal fn v).splices = s.splices := rfl
@[simp] theorem State.signal_switchedIn (fn v : Nat) : (s.signal fn v).switchedIn = s.switchedIn := rfl
@[simp] theorem State.signal_switchedFrom (fn v : Nat) : (s.signal fn v).switchedFrom = s.switchedFrom := rfl
@[simp] theorem State.signal_heldWrites (fn v : Nat) : (s.signal fn v).heldWrites = s.heldWrites := rfl
@[simp] theorem State.signal_wheelAt (fn v : Nat) : (s.signal fn v).wheelAt = s.wheelAt := rfl
@[simp] theorem State.signal_sctrLatch (fn v : Nat) : (s.signal fn v).sctrLatch = s.sctrLatch := rfl
@[simp] theorem State.signal_gts (fn v : Nat) : (s.signal fn v).gts = s.gts := rfl
@[simp] theorem State.signal_clk (fn v : Nat) : (s.signal fn v).clk = s.clk := rfl
@[simp] theorem State.signal_phase (fn v : Nat) : (s.signal fn v).phase = s.phase := rfl
@[simp] theorem State.signal_dies (fn v : Nat) : (s.signal fn v).dies = s.dies := rfl
@[simp] theorem State.signal_lowGear (fn v : Nat) : (s.signal fn v).lowGear = s.lowGear := rfl
@[simp] theorem State.signal_mhz (fn v : Nat) : (s.signal fn v).mhz = s.mhz := rfl
@[simp] theorem State.signal_maint (fn v : Nat) : (s.signal fn v).maint = s.maint := rfl
@[simp] theorem State.signal_changedAt (fn v : Nat) : (s.signal fn v).changedAt = s.changedAt := rfl
@[simp] theorem State.signal_atticUp (fn v : Nat) : (s.signal fn v).atticUp = s.atticUp := rfl
@[simp] theorem State.signal_ladderUp (fn v : Nat) : (s.signal fn v).ladderUp = s.ladderUp := rfl
@[simp] theorem State.signal_unreachable (fn v : Nat) : (s.signal fn v).unreachable = s.unreachable := rfl
@[simp] theorem State.signal_nonce (fn v : Nat) : (s.signal fn v).nonce = s.nonce := rfl
@[simp] theorem State.signal_reportDue (fn v : Nat) : (s.signal fn v).reportDue = s.reportDue := rfl
@[simp] theorem State.signal_report (fn v : Nat) : (s.signal fn v).report = s.report := rfl
@[simp] theorem State.signal_power (fn v : Nat) : (s.signal fn v).power = s.power := rfl
@[simp] theorem State.signal_verified (fn v : Nat) : (s.signal fn v).verified = s.verified := rfl
@[simp] theorem State.signal_readOut (fn v : Nat) : (s.signal fn v).readOut = s.readOut := rfl
@[simp] theorem State.signal_agenda (fn v : Nat) : (s.signal fn v).agenda = s.agenda := rfl
@[simp] theorem State.signal_picks (fn v : Nat) : (s.signal fn v).picks = s.picks := rfl
@[simp] theorem State.signal_fresh (fn v : Nat) : (s.signal fn v).fresh = s.fresh := rfl
@[simp] theorem State.signal_nextId (fn v : Nat) : (s.signal fn v).nextId = s.nextId := rfl
@[simp] theorem State.signal_cur (fn v : Nat) : (s.signal fn v).cur = s.cur := rfl
@[simp] theorem State.signal_pre (fn v : Nat) : (s.signal fn v).pre = s.pre := rfl
@[simp] theorem State.signal_preL (fn v : Nat) : (s.signal fn v).preL = s.preL := rfl

/-! ### raiseLane -/

@[simp] theorem State.raiseLane_mem (l c a k : Nat) : (s.raiseLane l c a k).mem = s.mem := rfl
@[simp] theorem State.raiseLane_tags (l c a k : Nat) : (s.raiseLane l c a k).tags = s.tags := rfl
@[simp] theorem State.raiseLane_owners (l c a k : Nat) : (s.raiseLane l c a k).owners = s.owners := rfl
@[simp] theorem State.raiseLane_retiredFrames (l c a k : Nat) : (s.raiseLane l c a k).retiredFrames = s.retiredFrames := rfl
@[simp] theorem State.raiseLane_poison (l c a k : Nat) : (s.raiseLane l c a k).poison = s.poison := rfl
@[simp] theorem State.raiseLane_failing (l c a k : Nat) : (s.raiseLane l c a k).failing = s.failing := rfl
@[simp] theorem State.raiseLane_carved (l c a k : Nat) : (s.raiseLane l c a k).carved = s.carved := rfl
@[simp] theorem State.raiseLane_pool (l c a k : Nat) : (s.raiseLane l c a k).pool = s.pool := rfl
@[simp] theorem State.raiseLane_frozen (l c a k : Nat) : (s.raiseLane l c a k).frozen = s.frozen := rfl
@[simp] theorem State.raiseLane_tlbis (l c a k : Nat) : (s.raiseLane l c a k).tlbis = s.tlbis := rfl
@[simp] theorem State.raiseLane_l2tlb (l c a k : Nat) : (s.raiseLane l c a k).l2tlb = s.l2tlb := rfl
@[simp] theorem State.raiseLane_regs (l c a k : Nat) : (s.raiseLane l c a k).regs = s.regs := rfl
@[simp] theorem State.raiseLane_cores (l c a k : Nat) : (s.raiseLane l c a k).cores = s.cores := rfl
@[simp] theorem State.raiseLane_blocks (l c a k : Nat) : (s.raiseLane l c a k).blocks = s.blocks := rfl
@[simp] theorem State.raiseLane_launches (l c a k : Nat) : (s.raiseLane l c a k).launches = s.launches := rfl
@[simp] theorem State.raiseLane_queues (l c a k : Nat) : (s.raiseLane l c a k).queues = s.queues := rfl
@[simp] theorem State.raiseLane_pageReqs (l c a k : Nat) : (s.raiseLane l c a k).pageReqs = s.pageReqs := rfl
@[simp] theorem State.raiseLane_nextReq (l c a k : Nat) : (s.raiseLane l c a k).nextReq = s.nextReq := rfl
@[simp] theorem State.raiseLane_saved (l c a k : Nat) : (s.raiseLane l c a k).saved = s.saved := rfl
@[simp] theorem State.raiseLane_preempts (l c a k : Nat) : (s.raiseLane l c a k).preempts = s.preempts := rfl
@[simp] theorem State.raiseLane_recs (l c a k : Nat) : (s.raiseLane l c a k).recs = s.recs := rfl
@[simp] theorem State.raiseLane_loads (l c a k : Nat) : (s.raiseLane l c a k).loads = s.loads := rfl
@[simp] theorem State.raiseLane_headers (l c a k : Nat) : (s.raiseLane l c a k).headers = s.headers := rfl
@[simp] theorem State.raiseLane_splices (l c a k : Nat) : (s.raiseLane l c a k).splices = s.splices := rfl
@[simp] theorem State.raiseLane_switchedIn (l c a k : Nat) : (s.raiseLane l c a k).switchedIn = s.switchedIn := rfl
@[simp] theorem State.raiseLane_switchedFrom (l c a k : Nat) : (s.raiseLane l c a k).switchedFrom = s.switchedFrom := rfl
@[simp] theorem State.raiseLane_heldWrites (l c a k : Nat) : (s.raiseLane l c a k).heldWrites = s.heldWrites := rfl
@[simp] theorem State.raiseLane_wheelAt (l c a k : Nat) : (s.raiseLane l c a k).wheelAt = s.wheelAt := rfl
@[simp] theorem State.raiseLane_sctrLatch (l c a k : Nat) : (s.raiseLane l c a k).sctrLatch = s.sctrLatch := rfl
@[simp] theorem State.raiseLane_irqs (l c a k : Nat) : (s.raiseLane l c a k).irqs = s.irqs := rfl
@[simp] theorem State.raiseLane_gts (l c a k : Nat) : (s.raiseLane l c a k).gts = s.gts := rfl
@[simp] theorem State.raiseLane_clk (l c a k : Nat) : (s.raiseLane l c a k).clk = s.clk := rfl
@[simp] theorem State.raiseLane_phase (l c a k : Nat) : (s.raiseLane l c a k).phase = s.phase := rfl
@[simp] theorem State.raiseLane_dies (l c a k : Nat) : (s.raiseLane l c a k).dies = s.dies := rfl
@[simp] theorem State.raiseLane_lowGear (l c a k : Nat) : (s.raiseLane l c a k).lowGear = s.lowGear := rfl
@[simp] theorem State.raiseLane_mhz (l c a k : Nat) : (s.raiseLane l c a k).mhz = s.mhz := rfl
@[simp] theorem State.raiseLane_maint (l c a k : Nat) : (s.raiseLane l c a k).maint = s.maint := rfl
@[simp] theorem State.raiseLane_changedAt (l c a k : Nat) : (s.raiseLane l c a k).changedAt = s.changedAt := rfl
@[simp] theorem State.raiseLane_atticUp (l c a k : Nat) : (s.raiseLane l c a k).atticUp = s.atticUp := rfl
@[simp] theorem State.raiseLane_ladderUp (l c a k : Nat) : (s.raiseLane l c a k).ladderUp = s.ladderUp := rfl
@[simp] theorem State.raiseLane_unreachable (l c a k : Nat) : (s.raiseLane l c a k).unreachable = s.unreachable := rfl
@[simp] theorem State.raiseLane_nonce (l c a k : Nat) : (s.raiseLane l c a k).nonce = s.nonce := rfl
@[simp] theorem State.raiseLane_reportDue (l c a k : Nat) : (s.raiseLane l c a k).reportDue = s.reportDue := rfl
@[simp] theorem State.raiseLane_report (l c a k : Nat) : (s.raiseLane l c a k).report = s.report := rfl
@[simp] theorem State.raiseLane_power (l c a k : Nat) : (s.raiseLane l c a k).power = s.power := rfl
@[simp] theorem State.raiseLane_verified (l c a k : Nat) : (s.raiseLane l c a k).verified = s.verified := rfl
@[simp] theorem State.raiseLane_readOut (l c a k : Nat) : (s.raiseLane l c a k).readOut = s.readOut := rfl
@[simp] theorem State.raiseLane_agenda (l c a k : Nat) : (s.raiseLane l c a k).agenda = s.agenda := rfl
@[simp] theorem State.raiseLane_picks (l c a k : Nat) : (s.raiseLane l c a k).picks = s.picks := rfl
@[simp] theorem State.raiseLane_fresh (l c a k : Nat) : (s.raiseLane l c a k).fresh = s.fresh := rfl
@[simp] theorem State.raiseLane_nextId (l c a k : Nat) : (s.raiseLane l c a k).nextId = s.nextId := rfl
@[simp] theorem State.raiseLane_pre (l c a k : Nat) : (s.raiseLane l c a k).pre = s.pre := rfl
@[simp] theorem State.raiseLane_preL (l c a k : Nat) : (s.raiseLane l c a k).preL = s.preL := rfl

/-! ### dropLane -/

@[simp] theorem State.dropLane_mem (l : Nat) : (s.dropLane l).mem = s.mem := rfl
@[simp] theorem State.dropLane_tags (l : Nat) : (s.dropLane l).tags = s.tags := rfl
@[simp] theorem State.dropLane_owners (l : Nat) : (s.dropLane l).owners = s.owners := rfl
@[simp] theorem State.dropLane_retiredFrames (l : Nat) : (s.dropLane l).retiredFrames = s.retiredFrames := rfl
@[simp] theorem State.dropLane_poison (l : Nat) : (s.dropLane l).poison = s.poison := rfl
@[simp] theorem State.dropLane_failing (l : Nat) : (s.dropLane l).failing = s.failing := rfl
@[simp] theorem State.dropLane_carved (l : Nat) : (s.dropLane l).carved = s.carved := rfl
@[simp] theorem State.dropLane_pool (l : Nat) : (s.dropLane l).pool = s.pool := rfl
@[simp] theorem State.dropLane_frozen (l : Nat) : (s.dropLane l).frozen = s.frozen := rfl
@[simp] theorem State.dropLane_tlbis (l : Nat) : (s.dropLane l).tlbis = s.tlbis := rfl
@[simp] theorem State.dropLane_l2tlb (l : Nat) : (s.dropLane l).l2tlb = s.l2tlb := rfl
@[simp] theorem State.dropLane_regs (l : Nat) : (s.dropLane l).regs = s.regs := rfl
@[simp] theorem State.dropLane_cores (l : Nat) : (s.dropLane l).cores = s.cores := rfl
@[simp] theorem State.dropLane_blocks (l : Nat) : (s.dropLane l).blocks = s.blocks := rfl
@[simp] theorem State.dropLane_launches (l : Nat) : (s.dropLane l).launches = s.launches := rfl
@[simp] theorem State.dropLane_queues (l : Nat) : (s.dropLane l).queues = s.queues := rfl
@[simp] theorem State.dropLane_pageReqs (l : Nat) : (s.dropLane l).pageReqs = s.pageReqs := rfl
@[simp] theorem State.dropLane_nextReq (l : Nat) : (s.dropLane l).nextReq = s.nextReq := rfl
@[simp] theorem State.dropLane_saved (l : Nat) : (s.dropLane l).saved = s.saved := rfl
@[simp] theorem State.dropLane_preempts (l : Nat) : (s.dropLane l).preempts = s.preempts := rfl
@[simp] theorem State.dropLane_recs (l : Nat) : (s.dropLane l).recs = s.recs := rfl
@[simp] theorem State.dropLane_loads (l : Nat) : (s.dropLane l).loads = s.loads := rfl
@[simp] theorem State.dropLane_headers (l : Nat) : (s.dropLane l).headers = s.headers := rfl
@[simp] theorem State.dropLane_splices (l : Nat) : (s.dropLane l).splices = s.splices := rfl
@[simp] theorem State.dropLane_switchedIn (l : Nat) : (s.dropLane l).switchedIn = s.switchedIn := rfl
@[simp] theorem State.dropLane_switchedFrom (l : Nat) : (s.dropLane l).switchedFrom = s.switchedFrom := rfl
@[simp] theorem State.dropLane_heldWrites (l : Nat) : (s.dropLane l).heldWrites = s.heldWrites := rfl
@[simp] theorem State.dropLane_wheelAt (l : Nat) : (s.dropLane l).wheelAt = s.wheelAt := rfl
@[simp] theorem State.dropLane_sctrLatch (l : Nat) : (s.dropLane l).sctrLatch = s.sctrLatch := rfl
@[simp] theorem State.dropLane_irqs (l : Nat) : (s.dropLane l).irqs = s.irqs := rfl
@[simp] theorem State.dropLane_gts (l : Nat) : (s.dropLane l).gts = s.gts := rfl
@[simp] theorem State.dropLane_clk (l : Nat) : (s.dropLane l).clk = s.clk := rfl
@[simp] theorem State.dropLane_phase (l : Nat) : (s.dropLane l).phase = s.phase := rfl
@[simp] theorem State.dropLane_dies (l : Nat) : (s.dropLane l).dies = s.dies := rfl
@[simp] theorem State.dropLane_lowGear (l : Nat) : (s.dropLane l).lowGear = s.lowGear := rfl
@[simp] theorem State.dropLane_mhz (l : Nat) : (s.dropLane l).mhz = s.mhz := rfl
@[simp] theorem State.dropLane_maint (l : Nat) : (s.dropLane l).maint = s.maint := rfl
@[simp] theorem State.dropLane_changedAt (l : Nat) : (s.dropLane l).changedAt = s.changedAt := rfl
@[simp] theorem State.dropLane_atticUp (l : Nat) : (s.dropLane l).atticUp = s.atticUp := rfl
@[simp] theorem State.dropLane_ladderUp (l : Nat) : (s.dropLane l).ladderUp = s.ladderUp := rfl
@[simp] theorem State.dropLane_unreachable (l : Nat) : (s.dropLane l).unreachable = s.unreachable := rfl
@[simp] theorem State.dropLane_nonce (l : Nat) : (s.dropLane l).nonce = s.nonce := rfl
@[simp] theorem State.dropLane_reportDue (l : Nat) : (s.dropLane l).reportDue = s.reportDue := rfl
@[simp] theorem State.dropLane_report (l : Nat) : (s.dropLane l).report = s.report := rfl
@[simp] theorem State.dropLane_power (l : Nat) : (s.dropLane l).power = s.power := rfl
@[simp] theorem State.dropLane_verified (l : Nat) : (s.dropLane l).verified = s.verified := rfl
@[simp] theorem State.dropLane_readOut (l : Nat) : (s.dropLane l).readOut = s.readOut := rfl
@[simp] theorem State.dropLane_agenda (l : Nat) : (s.dropLane l).agenda = s.agenda := rfl
@[simp] theorem State.dropLane_picks (l : Nat) : (s.dropLane l).picks = s.picks := rfl
@[simp] theorem State.dropLane_fresh (l : Nat) : (s.dropLane l).fresh = s.fresh := rfl
@[simp] theorem State.dropLane_nextId (l : Nat) : (s.dropLane l).nextId = s.nextId := rfl
@[simp] theorem State.dropLane_pre (l : Nat) : (s.dropLane l).pre = s.pre := rfl
@[simp] theorem State.dropLane_preL (l : Nat) : (s.dropLane l).preL = s.preL := rfl

/-! ### dropLoft -/

@[simp] theorem State.dropLoft_mem : (s.dropLoft).mem = s.mem := rfl
@[simp] theorem State.dropLoft_tags : (s.dropLoft).tags = s.tags := rfl
@[simp] theorem State.dropLoft_owners : (s.dropLoft).owners = s.owners := rfl
@[simp] theorem State.dropLoft_retiredFrames : (s.dropLoft).retiredFrames = s.retiredFrames := rfl
@[simp] theorem State.dropLoft_poison : (s.dropLoft).poison = s.poison := rfl
@[simp] theorem State.dropLoft_failing : (s.dropLoft).failing = s.failing := rfl
@[simp] theorem State.dropLoft_carved : (s.dropLoft).carved = s.carved := rfl
@[simp] theorem State.dropLoft_pool : (s.dropLoft).pool = s.pool := rfl
@[simp] theorem State.dropLoft_frozen : (s.dropLoft).frozen = s.frozen := rfl
@[simp] theorem State.dropLoft_tlbis : (s.dropLoft).tlbis = s.tlbis := rfl
@[simp] theorem State.dropLoft_l2tlb : (s.dropLoft).l2tlb = s.l2tlb := rfl
@[simp] theorem State.dropLoft_regs : (s.dropLoft).regs = s.regs := rfl
@[simp] theorem State.dropLoft_cores : (s.dropLoft).cores = s.cores := rfl
@[simp] theorem State.dropLoft_blocks : (s.dropLoft).blocks = s.blocks := rfl
@[simp] theorem State.dropLoft_launches : (s.dropLoft).launches = s.launches := rfl
@[simp] theorem State.dropLoft_queues : (s.dropLoft).queues = s.queues := rfl
@[simp] theorem State.dropLoft_pageReqs : (s.dropLoft).pageReqs = s.pageReqs := rfl
@[simp] theorem State.dropLoft_nextReq : (s.dropLoft).nextReq = s.nextReq := rfl
@[simp] theorem State.dropLoft_saved : (s.dropLoft).saved = s.saved := rfl
@[simp] theorem State.dropLoft_preempts : (s.dropLoft).preempts = s.preempts := rfl
@[simp] theorem State.dropLoft_recs : (s.dropLoft).recs = s.recs := rfl
@[simp] theorem State.dropLoft_loads : (s.dropLoft).loads = s.loads := rfl
@[simp] theorem State.dropLoft_headers : (s.dropLoft).headers = s.headers := rfl
@[simp] theorem State.dropLoft_splices : (s.dropLoft).splices = s.splices := rfl
@[simp] theorem State.dropLoft_switchedIn : (s.dropLoft).switchedIn = s.switchedIn := rfl
@[simp] theorem State.dropLoft_switchedFrom : (s.dropLoft).switchedFrom = s.switchedFrom := rfl
@[simp] theorem State.dropLoft_heldWrites : (s.dropLoft).heldWrites = s.heldWrites := rfl
@[simp] theorem State.dropLoft_wheelAt : (s.dropLoft).wheelAt = s.wheelAt := rfl
@[simp] theorem State.dropLoft_sctrLatch : (s.dropLoft).sctrLatch = s.sctrLatch := rfl
@[simp] theorem State.dropLoft_irqs : (s.dropLoft).irqs = s.irqs := rfl
@[simp] theorem State.dropLoft_gts : (s.dropLoft).gts = s.gts := rfl
@[simp] theorem State.dropLoft_clk : (s.dropLoft).clk = s.clk := rfl
@[simp] theorem State.dropLoft_phase : (s.dropLoft).phase = s.phase := rfl
@[simp] theorem State.dropLoft_dies : (s.dropLoft).dies = s.dies := rfl
@[simp] theorem State.dropLoft_lowGear : (s.dropLoft).lowGear = s.lowGear := rfl
@[simp] theorem State.dropLoft_mhz : (s.dropLoft).mhz = s.mhz := rfl
@[simp] theorem State.dropLoft_maint : (s.dropLoft).maint = s.maint := rfl
@[simp] theorem State.dropLoft_changedAt : (s.dropLoft).changedAt = s.changedAt := rfl
@[simp] theorem State.dropLoft_atticUp : (s.dropLoft).atticUp = s.atticUp := rfl
@[simp] theorem State.dropLoft_ladderUp : (s.dropLoft).ladderUp = s.ladderUp := rfl
@[simp] theorem State.dropLoft_unreachable : (s.dropLoft).unreachable = s.unreachable := rfl
@[simp] theorem State.dropLoft_nonce : (s.dropLoft).nonce = s.nonce := rfl
@[simp] theorem State.dropLoft_reportDue : (s.dropLoft).reportDue = s.reportDue := rfl
@[simp] theorem State.dropLoft_report : (s.dropLoft).report = s.report := rfl
@[simp] theorem State.dropLoft_power : (s.dropLoft).power = s.power := rfl
@[simp] theorem State.dropLoft_verified : (s.dropLoft).verified = s.verified := rfl
@[simp] theorem State.dropLoft_readOut : (s.dropLoft).readOut = s.readOut := rfl
@[simp] theorem State.dropLoft_agenda : (s.dropLoft).agenda = s.agenda := rfl
@[simp] theorem State.dropLoft_picks : (s.dropLoft).picks = s.picks := rfl
@[simp] theorem State.dropLoft_fresh : (s.dropLoft).fresh = s.fresh := rfl
@[simp] theorem State.dropLoft_nextId : (s.dropLoft).nextId = s.nextId := rfl
@[simp] theorem State.dropLoft_pre : (s.dropLoft).pre = s.pre := rfl
@[simp] theorem State.dropLoft_preL : (s.dropLoft).preL = s.preL := rfl

end Sys2Proof.Machine
end

