-- ==== Sys2Proof/Laws/Crew.lean ====
section
/-! SUPPORT. What writing registers of a crew does: one spec lemma for each shared operation of the thread side. -/

namespace Sys2Proof.Machine

/-! ### Lane sets -/

theorem laneBit_get (l i : Nat) : (laneBit l).getLsbD i = (decide (i < 64) && decide (i = l)) := by
  rw [laneBit, BitVec.getLsbD_ofNat, Nat.testBit_two_pow]
  congr 1
  exact decide_eq_decide.mpr ⟨fun h => h.symm, fun h => h.symm⟩

theorem lanesOf_foldl (ls : List Nat) (m : Lanes) (i : Nat) :
    (ls.foldl (fun m l => m ||| laneBit l) m).getLsbD i = (m.getLsbD i || (decide (i < 64) && decide (i ∈ ls))) := by
  induction ls generalizing m with
  | nil => simp
  | cons a r ih =>
    rw [List.foldl_cons, ih, BitVec.getLsbD_or, laneBit_get]
    rw [Bool.eq_iff_iff]
    simp only [Bool.or_eq_true, Bool.and_eq_true, decide_eq_true_eq, List.mem_cons]
    constructor
    · rintro ((h | h) | h)
      · exact .inl h
      · exact .inr ⟨h.1, .inl h.2⟩
      · exact .inr ⟨h.1, .inr h.2⟩
    · rintro (h | ⟨h, h' | h'⟩)
      · exact .inl (.inl h)
      · exact .inl (.inr ⟨h, h'⟩)
      · exact .inr ⟨h, h'⟩

theorem lanesOf_get (ls : List Nat) (i : Nat) : (lanesOf ls).getLsbD i = (decide (i < 64) && decide (i ∈ ls)) := by
  rw [lanesOf, lanesOf_foldl]; simp

theorem mem_laneList (m : Lanes) (l : Nat) : l ∈ laneList m ↔ m.getLsbD l = true := by
  simp only [laneList, List.mem_filter, List.mem_range, and_iff_right_iff_imp]
  exact fun h => BitVec.lt_of_getLsbD h

theorem lanesWhere_get (m : Lanes) (p : Nat → Bool) (l : Nat) : (lanesWhere m p).getLsbD l = (m.getLsbD l && p l) := by
  rw [lanesWhere, lanesOf_get, Bool.eq_iff_iff]
  simp only [Bool.and_eq_true, decide_eq_true_eq, List.mem_filter, mem_laneList, and_iff_right_iff_imp]
  exact fun h => BitVec.lt_of_getLsbD h.1

/-- The lowest lane of a set is in it. -/
theorem lowLane_mem {m : Lanes} {l : Nat} (h : lowLane m = some l) : m.getLsbD l = true := by
  rw [← mem_laneList]
  exact List.mem_of_head? h

theorem lowLane_none {m : Lanes} : lowLane m = none ↔ m = 0 := by
  rw [lowLane, List.head?_eq_none_iff, List.eq_nil_iff_forall_not_mem]
  simp only [mem_laneList]
  constructor
  · intro h
    apply BitVec.eq_of_getLsbD_eq
    intro i _
    simpa using h i
  · rintro rfl l
    simp

/-! ### The lanes of a crew's registers -/

/-- A lane's thread after a change of the lanes of a set. -/
theorem CrewCore.find_mapLanes (p : CrewCore) (m : Lanes) (f : Nat → Thread → Thread) (l : Nat) :
    Map.find? (p.mapLanes m f).threads l = (Map.find? p.threads l).map (fun t => if m.getLsbD l then f l t else t) := by
  simp only [CrewCore.mapLanes, Map.find?_mapVals]

theorem CrewCore.mapLanes_rest (p : CrewCore) (m : Lanes) (f : Nat → Thread → Thread) :
    { p.mapLanes m f with threads := p.threads } = p := rfl

/-! ### Runs of registers -/

theorem Thread.setWords_v (ws : List Word) (t : Thread) (r j : Nat) :
    Map.get 0 (t.setWords r ws).v j = if r ≤ j ∧ j < r + ws.length then ws.getD (j - r) 0 else Map.get 0 t.v j := by
  induction ws generalizing t r with
  | nil => simp [Thread.setWords] <;> omega
  | cons w ws ih =>
    rw [Thread.setWords, ih]
    simp only [List.length_cons]
    by_cases h : r + 1 ≤ j ∧ j < r + 1 + ws.length
    · rw [if_pos h, if_pos (by omega), show j - r = (j - (r + 1)) + 1 by omega, List.getD_cons_succ]
    · rw [if_neg h, Map.get_set]
      by_cases hj : r = j
      · subst hj; simp
      · rw [if_neg hj, if_neg (by omega)]

theorem Thread.setWords_bare (ws : List Word) (t : Thread) (r : Nat) :
    (t.setWords r ws).bare = t.bare ∧ (t.setWords r ws).cc = t.cc := by
  induction ws generalizing t r with
  | nil => exact ⟨rfl, rfl⟩
  | cons w ws ih =>
    rw [Thread.setWords]
    exact ⟨(ih _ _).1.trans rfl, (ih _ _).2.trans rfl⟩

theorem setKWords_get (ws : List Word) (k : Map Word) (r j : Nat) :
    Map.get 0 (setKWords k r ws) j = if r ≤ j ∧ j < r + ws.length then ws.getD (j - r) 0 else Map.get 0 k j := by
  induction ws generalizing k r with
  | nil => simp [setKWords] <;> omega
  | cons w ws ih =>
    rw [setKWords, ih]
    simp only [List.length_cons]
    by_cases h : r + 1 ≤ j ∧ j < r + 1 + ws.length
    · rw [if_pos h, if_pos (by omega), show j - r = (j - (r + 1)) + 1 by omega, List.getD_cons_succ]
    · rw [if_neg h, Map.get_set]
      by_cases hj : r = j
      · subst hj; simp
      · rw [if_neg hj, if_neg (by omega)]

theorem wordsOf_length (n x : Nat) : (wordsOf n x).length = n := by simp [wordsOf]

theorem wordsOf_getD {n i : Nat} (x : Nat) (h : i < n) : (wordsOf n x).getD i 0 = BitVec.ofNat 32 (x >>> (32 * i)) := by
  simp [wordsOf, h]

/-! ### Writing a destination and a cc register -/

/-- A v register after the threads of a set have changed. -/
theorem CrewCore.vreg_mapLanes (p : CrewCore) (m : Lanes) (f : Nat → Thread → Thread) (l r : Nat) :
    (p.mapLanes m f).vreg l r =
      match Map.find? p.threads l with
      | none => 0
      | some t => if m.getLsbD l then Map.get 0 (f l t).v r else Map.get 0 t.v r := by
  rw [CrewCore.vreg, CrewCore.find_mapLanes]
  cases Map.find? p.threads l with
  | none => rfl
  | some t => by_cases h : m.getLsbD l = true <;> simp [h]

theorem CrewCore.ccOf_mapLanes (p : CrewCore) (m : Lanes) (f : Nat → Thread → Thread) (l r : Nat) :
    (p.mapLanes m f).ccOf l r =
      match Map.find? p.threads l with
      | none => 0
      | some t => if m.getLsbD l then Map.get 0 (f l t).cc r else Map.get 0 t.cc r := by
  rw [CrewCore.ccOf, CrewCore.find_mapLanes]
  cases Map.find? p.threads l with
  | none => rfl
  | some t => by_cases h : m.getLsbD l = true <;> simp [h]

/-- What a destination and a cc register written in lanes that hold threads are: all that WritesOnly claims. -/
theorem wrote_writeReg (p : CrewCore) (m : Lanes) (d : BitVec 8) (n : Nat) (f : Nat → Nat)
    (hm : ∀ l, m.getLsbD l → (Map.find? p.threads l).isSome) : Wrote p (p.writeReg m d n f) m d n f none := by
  by_cases hv : d.toNat < 192
  · simp only [CrewCore.writeReg, if_pos hv]
    refine ⟨?_, ?_, ?_, ?_, ?_, ?_, ?_, rfl⟩
    · intro _ l i hl hi
      rw [CrewCore.vreg_mapLanes]
      cases ht : Map.find? p.threads l with
      | none => have := hm l hl; rw [ht] at this; cases this
      | some t =>
        simp only [hl, if_true]
        rw [Thread.setWords_v, wordsOf_length, if_pos (by omega), Nat.add_sub_cancel_left, wordsOf_getD _ hi]
    · intro h; omega
    · intro i h hh; cases hh
    · intro l r hr
      rw [CrewCore.vreg_mapLanes, CrewCore.vreg]
      cases ht : Map.find? p.threads l with
      | none => rfl
      | some t =>
        by_cases hl : m.getLsbD l = true
        · simp only [hl, if_true]
          rw [Thread.setWords_v, wordsOf_length, if_neg (fun h => hr ⟨hv, hl, h.1, h.2⟩)]
          rfl
        · simp [hl]
    · intro r _; rfl
    · intro l i _
      rw [CrewCore.ccOf_mapLanes, CrewCore.ccOf]
      cases ht : Map.find? p.threads l with
      | none => rfl
      | some t =>
        by_cases hl : m.getLsbD l = true
        · simp [hl, (Thread.setWords_bare _ _ _).2]
        · simp [hl]
    · intro l
      rw [CrewCore.find_mapLanes]
      cases ht : Map.find? p.threads l with
      | none => rfl
      | some t =>
        by_cases hl : m.getLsbD l = true
        · simp [hl, (Thread.setWords_bare _ _ _).1]
        · simp [hl]
  · by_cases hk : d.toNat < 240
    · simp only [CrewCore.writeReg, if_neg hv, if_pos hk]
      cases hlo : lowLane m with
      | none =>
        exact ⟨fun h => absurd h hv, fun _ _ l i h => (by rw [hlo] at h; cases h), fun _ _ h => (by cases h), fun _ _ _ => rfl, fun _ _ => rfl,
          fun _ _ _ => rfl, fun _ => rfl, rfl⟩
      | some l0 =>
        refine ⟨fun h => absurd h hv, ?_, fun _ _ h => (by cases h), fun _ _ _ => rfl, ?_, fun _ _ _ => rfl, fun _ => rfl, rfl⟩
        · intro _ _ l i hl hi
          rw [hlo] at hl
          cases hl
          rw [CrewCore.kreg]
          simp only
          rw [setKWords_get, wordsOf_length, if_pos (by omega), Nat.add_sub_cancel_left, wordsOf_getD _ hi]
        · intro r hr
          rw [CrewCore.kreg]
          simp only
          rw [setKWords_get, wordsOf_length, if_neg (fun h => hr ⟨by omega, hk, by simp [hlo], h.1, h.2⟩)]
          rfl
    · simp only [CrewCore.writeReg, if_neg hv, if_neg hk]
      exact ⟨fun h => absurd h hv, fun _ h => absurd h hk, fun _ _ h => (by cases h), fun _ _ _ => rfl, fun _ _ => rfl,
        fun _ _ _ => rfl, fun _ => rfl, rfl⟩

/-- A cc register written beside a result. -/
theorem wrote_writeCc {p q : CrewCore} {m : Lanes} {d : BitVec 8} {n : Nat} {f : Nat → Nat} (i : Nat) (g : Nat → Flags)
    (hm : ∀ l, m.getLsbD l → (Map.find? p.threads l).isSome) (h : Wrote p q m d n f none) :
    Wrote p (q.mapLanes m (fun l t => { t with cc := Map.set 0 t.cc i (g l) })) m d n f (some (i, g)) := by
  have hv : ∀ l r, (q.mapLanes m (fun l t => { t with cc := Map.set 0 t.cc i (g l) })).vreg l r = q.vreg l r := by
    intro l r
    rw [CrewCore.vreg_mapLanes, CrewCore.vreg]
    cases Map.find? q.threads l with
    | none => rfl
    | some t => by_cases hl : m.getLsbD l = true <;> simp [hl]
  have hs : ∀ l, m.getLsbD l → ∃ t, Map.find? q.threads l = some t := by
    intro l hl
    have := hm l hl
    have hb := h.bare l
    cases hq : Map.find? q.threads l with
    | none => rw [hq] at hb; cases hp : Map.find? p.threads l <;> simp_all
    | some t => exact ⟨t, rfl⟩
  refine ⟨?_, h.k_new, ?_, ?_, h.k_old, ?_, ?_, h.rest⟩
  · intro hd l j hl hj
    rw [hv]
    exact h.v_new hd l j hl hj
  · rintro j k hjk l hl
    cases hjk
    obtain ⟨t, ht⟩ := hs l hl
    rw [CrewCore.ccOf_mapLanes, ht]
    simp [hl]
  · intro l r hr
    rw [hv]
    exact h.v_old l r hr
  · intro l j hj
    rw [CrewCore.ccOf_mapLanes]
    have ho := h.cc_old l j (by rintro ⟨_, k, hk⟩; cases hk)
    rw [← ho, CrewCore.ccOf]
    cases ht : Map.find? q.threads l with
    | none => rfl
    | some t =>
      by_cases hl : m.getLsbD l = true
      · have : i ≠ j := fun e => hj ⟨hl, g, by rw [e]⟩
        simp [hl, Map.get_set, this]
      · simp [hl]
  · intro l
    rw [CrewCore.find_mapLanes, ← h.bare l]
    cases ht : Map.find? q.threads l with
    | none => rfl
    | some t => by_cases hl : m.getLsbD l = true <;> simp [hl, Thread.bare]

/-! ### The state about a crew's registers -/

theorem State.gang?_eq {s : State} {b : Block} {c : Crew} (h : s.gang? = some (b, c)) :
    s.block? s.cur.blk = some b ∧ Map.find? b.crews s.cur.crew = some c := by
  unfold State.gang? at h
  split at h
  · cases h
  · unfold State.crew? at h
    split at h
    · cases h
    · next x hx =>
      cases hc : Map.find? x.crews s.cur.crew with
      | none => rw [hc] at h; cases h
      | some w => rw [hc] at h; cases h; exact ⟨hx, hc⟩

/-- A change of a crew's registers is the registers that it makes put in their place. -/
theorem State.onCrew_eq {s : State} {b : Block} {c : Crew} (h : s.gang? = some (b, c)) (f : CrewCore → CrewCore) :
    s.onCrew f = s.onCrew (fun _ => f c.core) := by
  obtain ⟨hb, hc⟩ := State.gang?_eq h
  unfold State.onCrew State.modCrew State.modBlock
  congr 1
  apply Map.modify_congr
  intro x hx
  rw [State.block?] at hb
  rw [hb] at hx
  cases hx
  unfold Block.modCrew
  congr 1
  apply Map.modify_congr
  intro y hy
  rw [hc] at hy
  cases hy
  rfl

/-- Two changes of a crew's registers in turn are one. -/
theorem State.onCrew_onCrew (s : State) (f g : CrewCore → CrewCore) : (s.onCrew f).onCrew g = s.onCrew (fun p => g (f p)) := by
  unfold State.onCrew State.modCrew State.modBlock
  simp only [Map.modify_modify]
  congr 1
  apply Map.modify_congr
  intro x _
  unfold Block.modCrew
  simp only [Map.modify_modify]

theorem State.onCrew_byte (s : State) (f : CrewCore → CrewCore) (a : Nat) : (s.onCrew f).byte a = s.byte a := rfl

/-- The lanes of a slot hold threads. -/
theorem State.active_holds {s : State} {b : Block} {c : Crew} (h : s.gang? = some (b, c)) (g : Guard) {l : Nat}
    (hl : (s.active g).getLsbD l = true) : (Map.find? c.core.threads l).isSome = true := by
  unfold State.active at hl
  rw [h] at hl
  simp only [lanesWhere_get, Bool.and_eq_true] at hl
  exact hl.2.1

/-- A destination and c[CI] written where the guard holds: the state that WritesOnly describes. -/
theorem State.writeReg_writeCw {s : State} {b : Block} {c : Crew} (h : s.gang? = some (b, c)) (g : Guard) (d : BitVec 8) (n : Nat)
    (f : Nat → Nat) (cw : Bool) (ci : BitVec 2) (k : Nat → Flags) :
    WritesOnly s (.next ((s.writeReg (s.active g) d n f).writeCw (s.active g) cw ci k)) c.core (s.active g) d n f (cwFlags cw ci k) := by
  have hm := fun l hl => State.active_holds h g (l := l) hl
  have hw := wrote_writeReg c.core (s.active g) d n f hm
  cases cw with
  | false =>
    refine ⟨_, ?_, hw, fun _ => rfl⟩
    simp only [State.writeCw, State.writeReg, Bool.false_eq_true, if_false]
    rw [State.onCrew_eq h]
  | true =>
    refine ⟨_, ?_, wrote_writeCc ci.toNat k hm hw, fun _ => rfl⟩
    simp only [State.writeCw, State.writeReg, State.writeCc, if_true]
    rw [State.onCrew_onCrew, State.onCrew_eq h]

/-- A result of unit A completes: the destination and c[CI] in the lanes where the guard holds, and nothing else. -/
theorem aluLanes_completes {s : State} {b : Block} {c : Crew} (h : s.gang? = some (b, c)) (g : Guard) (d : BitVec 8)
    (wide cw : Bool) (ci : BitVec 2) (f : State → Nat → AluOut) :
    AluCompletes s (.next (aluLanes g d wide cw ci f s)) c.core g d wide cw ci (f s) :=
  State.writeReg_writeCw h g d _ _ cw ci _

/-- A cc register alone written where the guard holds. -/
theorem State.writeCc_completes {s : State} {b : Block} {c : Crew} (h : s.gang? = some (b, c)) (g : Guard)
    (i : Nat) (k : Nat → Flags) (f : Nat → Nat) :
    WritesOnly s (.next (s.writeCc (s.active g) i k)) c.core (s.active g) 240 0 f (some (i, k)) := by
  have hm := fun l hl => State.active_holds h g (l := l) hl
  have hw := wrote_writeReg c.core (s.active g) 240 0 f hm
  refine ⟨_, ?_, wrote_writeCc i k hm hw, fun _ => rfl⟩
  simp only [State.writeCc]
  rw [State.onCrew_eq h]
  rfl

end Sys2Proof.Machine
end

