-- ==== Sys2Proof/Laws/Memory.lean ====
section
/-! SUPPORT. The laws of memory: every operation that changes it keeps the canonical form, and what a byte reads as after each. -/

namespace Sys2Proof.Machine

theorem State.reset_memory_wf : Memory.wf State.reset.mem := rfl

theorem State.setBytes_wf {s : State} (h : Memory.wf s.mem) (pa : Nat) (bs : List Byte) : Memory.wf (s.setBytes pa bs).mem :=
  Map.wf_setBytes _ bs h

theorem State.setNum_wf {s : State} (h : Memory.wf s.mem) (pa n x : Nat) : Memory.wf (s.setNum pa n x).mem :=
  State.setBytes_wf h pa _

theorem State.zeroRange_wf {s : State} (h : Memory.wf s.mem) (pa n : Nat) : Memory.wf (s.zeroRange pa n).mem :=
  Map.wf_clearRange _ n h

theorem Map.wf_foldl_set {α : Type} (d : Byte) (key : α → Nat) (v : α → Byte) (es : List α) {m : Map Byte} (h : Map.wf d m = true) :
    Map.wf d (es.foldl (fun m e => Map.set d m (key e) (v e)) m) = true := by
  induction es generalizing m with
  | nil => exact h
  | cons e es ih => exact ih (Map.wf_set (key e) (v e) h)

theorem State.copyRange_wf {s : State} (h : Memory.wf s.mem) (src dst n : Nat) : Memory.wf (s.copyRange src dst n).mem :=
  Map.wf_foldl_set 0 _ _ _ (State.zeroRange_wf h dst n)

theorem State.clearMem_wf {s : State} (h : Memory.wf s.mem) (pa n : Nat) (holes : List (Nat × Nat)) : Memory.wf (s.clearMem pa n holes).mem :=
  Map.wf_filter _ h

/-- A byte after bytes are written: the written one where its place lies within them, and what it was elsewhere; the status page
is never written. -/
theorem State.byte_setBytes (s : State) (pa : Nat) (bs : List Byte) (a : Nat) :
    (s.setBytes pa bs).byte a = if a / 4096 = statusPage / 4096 then s.byte a
      else if s.memKey pa ≤ s.memKey a ∧ s.memKey a < s.memKey pa + bs.length then bs.getD (s.memKey a - s.memKey pa) 0
      else s.byte a := by
  have hk : (s.setBytes pa bs).memKey = s.memKey := rfl
  have hs : (s.setBytes pa bs).statusWord = s.statusWord := rfl
  unfold State.byte
  split
  · rw [hs]; rfl
  · rw [hk]; exact Map.get_setBytes _ _ _ _ _

/-- A byte after a range is zeroed. -/
theorem State.byte_zeroRange (s : State) (pa n a : Nat) :
    (s.zeroRange pa n).byte a = if a / 4096 = statusPage / 4096 then s.byte a
      else if s.memKey pa ≤ s.memKey a ∧ s.memKey a < s.memKey pa + n then 0 else s.byte a := by
  have hk : (s.zeroRange pa n).memKey = s.memKey := rfl
  have hs : (s.zeroRange pa n).statusWord = s.statusWord := rfl
  unfold State.byte
  split
  · rw [hs]; rfl
  · rw [hk]; exact Map.get_clearRange _ _ _ _ _

end Sys2Proof.Machine
end

