-- ==== Sys2Proof/Laws/PerInstr.lean ====
section
/-! SUPPORT. One lemma per instruction: its encoded word decodes to it, and carries the E bit it was given. -/

namespace Sys2Proof.Laws

/-- An instruction's word, where it has one, decodes to it and keeps its E bit. -/
def Coding.Statement (i : Instr) : Prop :=
  ∀ (last : Bool) (w : BitVec 64), encodeSlot last i = some w → decodeSlot w = .ok i ∧ slotLast w = last

/-- The decoder of a unit's opcodes. -/
def unitDecode (u op : Nat) (w : BitVec 64) : Except Reject Instr :=
  match u with
  | 0 => decodeA op w
  | 1 => decodeB op w
  | 2 => decodeM op w
  | 3 => decodeC op w
  | 4 => decodeQ op w
  | 5 => decodeX op w
  | 6 => decodeT op w
  | _ => decodeV op w

/-- A word's E, U and OP are those of the head it was packed with. -/
theorem head_fields {w : BitVec 64} {last : Bool} {u : BitVec 3} {op : BitVec 10}
    (h : w.extractLsb' 50 14 = wordHead last u op) :
    slotLast w = last ∧ w.extractLsb' 60 3 = u ∧ w.extractLsb' 50 10 = op := by
  have key : ∀ i, i < 14 → w.getLsbD (50 + i) = (wordHead last u op).getLsbD i := by
    intro i hi
    rw [← h, BitVec.getLsbD_extractLsb']
    simp [hi]
  refine ⟨?_, ?_, ?_⟩
  · have k := key 13 (by decide)
    simp only [wordHead, BitVec.getLsbD_append] at k
    simpa [slotLast] using k
  · apply BitVec.eq_of_getLsbD_eq; intro i hi
    have k := key (10 + i) (by omega)
    simp only [wordHead, BitVec.getLsbD_append] at k
    rw [if_neg (by omega), if_pos (by omega)] at k
    rw [BitVec.getLsbD_extractLsb', show 60 + i = 50 + (10 + i) by omega, k]
    simp [hi]
  · apply BitVec.eq_of_getLsbD_eq; intro i hi
    have k := key i (by omega)
    simp only [wordHead, BitVec.getLsbD_append] at k
    rw [if_pos (by omega)] at k
    rw [BitVec.getLsbD_extractLsb', k]
    simp [hi]

/-- A word packed with the head of a unit's opcode decodes as that unit decodes it. -/
theorem coded {w : BitVec 64} {last : Bool} {u : BitVec 3} {op : BitVec 10} {i : Instr}
    (h : w.extractLsb' 50 14 = wordHead last u op) (h1 : op.toNat ≠ 1) (hd : unitDecode u.toNat op.toNat w = .ok i) :
    decodeSlot w = .ok i ∧ slotLast w = last := by
  obtain ⟨hl, hu, ho⟩ := head_fields h
  refine ⟨?_, hl⟩
  simp only [decodeSlot, hu, ho, h1, if_false]
  exact hd

/-- Every field of a form's word is where the decoder reads it. -/
theorem packA_fields (h : BitVec 14) (f : ArgsA) : argsA (packA h f) = f ∧ (packA h f).extractLsb' 50 14 = h := by
  obtain ⟨⟨gc, gk⟩, d, a, b, c, cw, ci, w, s, sat, sub⟩ := f
  unfold packA argsA guardOf guardBits
  refine ⟨?_, ?_⟩
  · simp only [ArgsA.mk.injEq, Guard.mk.injEq, fieldD, fieldA, fieldB, fieldC, bitAt]
    refine ⟨⟨?_, ?_⟩, ?_, ?_, ?_, ?_, ?_, ?_, ?_, ?_, ?_, ?_⟩ <;>
    first
    | (apply BitVec.eq_of_getLsbD_eq; intro i hi
       simp only [BitVec.getLsbD_extractLsb', BitVec.getLsbD_append, hi, decide_true, Bool.true_and]
       repeat (first | rw [if_neg (by omega)] | rw [if_pos (by omega)])
       congr 1; omega)
    | (simp only [BitVec.getLsbD_append]
       simp)
  · apply BitVec.eq_of_getLsbD_eq; intro i hi
    simp only [BitVec.getLsbD_extractLsb', BitVec.getLsbD_append, hi, decide_true, Bool.true_and]
    repeat (first | rw [if_neg (by omega)] | rw [if_pos (by omega)])
    congr 1; omega

/-- Every field of a form's word is where the decoder reads it. -/
theorem packB_fields (h : BitVec 14) (f : ArgsB) : argsB (packB h f) = f ∧ (packB h f).extractLsb' 50 14 = h := by
  obtain ⟨⟨gc, gk⟩, d, a, b, c, cw, ci, rm, na, nc, aa, cl, bf, fz⟩ := f
  unfold packB argsB guardOf guardBits
  refine ⟨?_, ?_⟩
  · simp only [ArgsB.mk.injEq, Guard.mk.injEq, fieldD, fieldA, fieldB, fieldC, bitAt]
    refine ⟨⟨?_, ?_⟩, ?_, ?_, ?_, ?_, ?_, ?_, ?_, ?_, ?_, ?_, ?_, ?_, ?_⟩ <;>
    first
    | (apply BitVec.eq_of_getLsbD_eq; intro i hi
       simp only [BitVec.getLsbD_extractLsb', BitVec.getLsbD_append, hi, decide_true, Bool.true_and]
       repeat (first | rw [if_neg (by omega)] | rw [if_pos (by omega)])
       congr 1; omega)
    | (simp only [BitVec.getLsbD_append]
       simp)
  · apply BitVec.eq_of_getLsbD_eq; intro i hi
    simp only [BitVec.getLsbD_extractLsb', BitVec.getLsbD_append, hi, decide_true, Bool.true_and]
    repeat (first | rw [if_neg (by omega)] | rw [if_pos (by omega)])
    congr 1; omega

/-- Every field of a form's word is where the decoder reads it. -/
theorem packR_fields (h : BitVec 14) (f : ArgsR) : argsR (packR h f) = f ∧ (packR h f).extractLsb' 50 14 = h := by
  obtain ⟨⟨gc, gk⟩, d, a, b, c, cw, ci, x⟩ := f
  unfold packR argsR guardOf guardBits
  refine ⟨?_, ?_⟩
  · simp only [ArgsR.mk.injEq, Guard.mk.injEq, fieldD, fieldA, fieldB, fieldC, bitAt]
    refine ⟨⟨?_, ?_⟩, ?_, ?_, ?_, ?_, ?_, ?_, ?_⟩ <;>
    first
    | (apply BitVec.eq_of_getLsbD_eq; intro i hi
       simp only [BitVec.getLsbD_extractLsb', BitVec.getLsbD_append, hi, decide_true, Bool.true_and]
       repeat (first | rw [if_neg (by omega)] | rw [if_pos (by omega)])
       congr 1; omega)
    | (simp only [BitVec.getLsbD_append]
       simp)
  · apply BitVec.eq_of_getLsbD_eq; intro i hi
    simp only [BitVec.getLsbD_extractLsb', BitVec.getLsbD_append, hi, decide_true, Bool.true_and]
    repeat (first | rw [if_neg (by omega)] | rw [if_pos (by omega)])
    congr 1; omega

/-- Every field of a form's word is where the decoder reads it. -/
theorem packI_fields (h : BitVec 14) (f : ArgsI) : argsI (packI h f) = f ∧ (packI h f).extractLsb' 50 14 = h := by
  obtain ⟨⟨gc, gk⟩, d, a, imm⟩ := f
  unfold packI argsI guardOf guardBits
  refine ⟨?_, ?_⟩
  · simp only [ArgsI.mk.injEq, Guard.mk.injEq, fieldD, fieldA, fieldB, fieldC, bitAt]
    refine ⟨⟨?_, ?_⟩, ?_, ?_, ?_⟩ <;>
    first
    | (apply BitVec.eq_of_getLsbD_eq; intro i hi
       simp only [BitVec.getLsbD_extractLsb', BitVec.getLsbD_append, hi, decide_true, Bool.true_and]
       repeat (first | rw [if_neg (by omega)] | rw [if_pos (by omega)])
       congr 1; omega)
    | (simp only [BitVec.getLsbD_append]
       simp)
  · apply BitVec.eq_of_getLsbD_eq; intro i hi
    simp only [BitVec.getLsbD_extractLsb', BitVec.getLsbD_append, hi, decide_true, Bool.true_and]
    repeat (first | rw [if_neg (by omega)] | rw [if_pos (by omega)])
    congr 1; omega

/-- Every field of a form's word is where the decoder reads it. -/
theorem packM_fields (h : BitVec 14) (f : ArgsM) : argsM (packM h f) = f ∧ (packM h f).extractLsb' 50 14 = h := by
  obtain ⟨⟨gc, gk⟩, d, a, b, sz, sc, ord, scope, off⟩ := f
  unfold packM argsM guardOf guardBits
  refine ⟨?_, ?_⟩
  · simp only [ArgsM.mk.injEq, Guard.mk.injEq, fieldD, fieldA, fieldB, fieldC, bitAt]
    refine ⟨⟨?_, ?_⟩, ?_, ?_, ?_, ?_, ?_, ?_, ?_, ?_⟩ <;>
    first
    | (apply BitVec.eq_of_getLsbD_eq; intro i hi
       simp only [BitVec.getLsbD_extractLsb', BitVec.getLsbD_append, hi, decide_true, Bool.true_and]
       repeat (first | rw [if_neg (by omega)] | rw [if_pos (by omega)])
       congr 1; omega)
    | (simp only [BitVec.getLsbD_append]
       simp)
  · apply BitVec.eq_of_getLsbD_eq; intro i hi
    simp only [BitVec.getLsbD_extractLsb', BitVec.getLsbD_append, hi, decide_true, Bool.true_and]
    repeat (first | rw [if_neg (by omega)] | rw [if_pos (by omega)])
    congr 1; omega

/-- Every field of a form's word is where the decoder reads it. -/
theorem packAt_fields (h : BitVec 14) (f : ArgsAt) : argsAt (packAt h f) = f ∧ (packAt h f).extractLsb' 50 14 = h := by
  obtain ⟨⟨gc, gk⟩, d, a, b, aop, sc, ord, scope, aw, off⟩ := f
  unfold packAt argsAt guardOf guardBits
  refine ⟨?_, ?_⟩
  · simp only [ArgsAt.mk.injEq, Guard.mk.injEq, fieldD, fieldA, fieldB, fieldC, bitAt]
    refine ⟨⟨?_, ?_⟩, ?_, ?_, ?_, ?_, ?_, ?_, ?_, ?_, ?_⟩ <;>
    first
    | (apply BitVec.eq_of_getLsbD_eq; intro i hi
       simp only [BitVec.getLsbD_extractLsb', BitVec.getLsbD_append, hi, decide_true, Bool.true_and]
       repeat (first | rw [if_neg (by omega)] | rw [if_pos (by omega)])
       congr 1; omega)
    | (simp only [BitVec.getLsbD_append]
       simp)
  · apply BitVec.eq_of_getLsbD_eq; intro i hi
    simp only [BitVec.getLsbD_extractLsb', BitVec.getLsbD_append, hi, decide_true, Bool.true_and]
    repeat (first | rw [if_neg (by omega)] | rw [if_pos (by omega)])
    congr 1; omega

/-- Every field of a form's word is where the decoder reads it. -/
theorem packJ_fields (h : BitVec 14) (f : ArgsJ) : argsJ (packJ h f) = f ∧ (packJ h f).extractLsb' 50 14 = h := by
  obtain ⟨⟨gc, gk⟩, d, off, rest, hint, u⟩ := f
  unfold packJ argsJ guardOf guardBits
  refine ⟨?_, ?_⟩
  · simp only [ArgsJ.mk.injEq, Guard.mk.injEq, fieldD, fieldA, fieldB, fieldC, bitAt]
    refine ⟨⟨?_, ?_⟩, ?_, ?_, ?_, ?_, ?_⟩ <;>
    first
    | (apply BitVec.eq_of_getLsbD_eq; intro i hi
       simp only [BitVec.getLsbD_extractLsb', BitVec.getLsbD_append, hi, decide_true, Bool.true_and]
       repeat (first | rw [if_neg (by omega)] | rw [if_pos (by omega)])
       congr 1; omega)
    | (simp only [BitVec.getLsbD_append]
       simp)
  · apply BitVec.eq_of_getLsbD_eq; intro i hi
    simp only [BitVec.getLsbD_extractLsb', BitVec.getLsbD_append, hi, decide_true, Bool.true_and]
    repeat (first | rw [if_neg (by omega)] | rw [if_pos (by omega)])
    congr 1; omega

/-- Every field of a form's word is where the decoder reads it. -/
theorem packT_fields (h : BitVec 14) (f : ArgsT) : argsT (packT h f) = f ∧ (packT h f).extractLsb' 50 14 = h := by
  obtain ⟨⟨gc, gk⟩, d, a, b, c, fs, x⟩ := f
  unfold packT argsT guardOf guardBits
  refine ⟨?_, ?_⟩
  · simp only [ArgsT.mk.injEq, Guard.mk.injEq, fieldD, fieldA, fieldB, fieldC, bitAt]
    refine ⟨⟨?_, ?_⟩, ?_, ?_, ?_, ?_, ?_, ?_⟩ <;>
    first
    | (apply BitVec.eq_of_getLsbD_eq; intro i hi
       simp only [BitVec.getLsbD_extractLsb', BitVec.getLsbD_append, hi, decide_true, Bool.true_and]
       repeat (first | rw [if_neg (by omega)] | rw [if_pos (by omega)])
       congr 1; omega)
    | (simp only [BitVec.getLsbD_append]
       simp)
  · apply BitVec.eq_of_getLsbD_eq; intro i hi
    simp only [BitVec.getLsbD_extractLsb', BitVec.getLsbD_append, hi, decide_true, Bool.true_and]
    repeat (first | rw [if_neg (by omega)] | rw [if_pos (by omega)])
    congr 1; omega

/-- Every field of a form's word is where the decoder reads it. -/
theorem packG_fields (h : BitVec 14) (f : ArgsG) : argsG (packG h f) = f ∧ (packG h f).extractLsb' 50 14 = h := by
  obtain ⟨⟨gc, gk⟩, d, a, b, fs, beats⟩ := f
  unfold packG argsG guardOf guardBits
  refine ⟨?_, ?_⟩
  · simp only [ArgsG.mk.injEq, Guard.mk.injEq, fieldD, fieldA, fieldB, fieldC, bitAt]
    refine ⟨⟨?_, ?_⟩, ?_, ?_, ?_, ?_, ?_⟩ <;>
    first
    | (apply BitVec.eq_of_getLsbD_eq; intro i hi
       simp only [BitVec.getLsbD_extractLsb', BitVec.getLsbD_append, hi, decide_true, Bool.true_and]
       repeat (first | rw [if_neg (by omega)] | rw [if_pos (by omega)])
       congr 1; omega)
    | (simp only [BitVec.getLsbD_append]
       simp)
  · apply BitVec.eq_of_getLsbD_eq; intro i hi
    simp only [BitVec.getLsbD_extractLsb', BitVec.getLsbD_append, hi, decide_true, Bool.true_and]
    repeat (first | rw [if_neg (by omega)] | rw [if_pos (by omega)])
    congr 1; omega

/-- NOP keeps its unit and its other bits. -/
theorem Coding.nop (u : BitVec 3) (low : BitVec 50) : Coding.Statement (.nop u low) := by
  intro last w h
  cases h
  have hh : (wordHead last u 1 ++ low).extractLsb' 50 14 = wordHead last u 1 := by
    apply BitVec.eq_of_getLsbD_eq; intro i hi
    simp only [BitVec.getLsbD_extractLsb', BitVec.getLsbD_append, hi, decide_true, Bool.true_and]
    rw [if_neg (by omega)]
    congr 1; omega
  have hb : (wordHead last u 1 ++ low).extractLsb' 0 50 = low := by
    apply BitVec.eq_of_getLsbD_eq; intro i hi
    simp only [BitVec.getLsbD_extractLsb', BitVec.getLsbD_append, hi, decide_true, Bool.true_and]
    rw [if_pos (by omega)]
    congr 1; omega
  obtain ⟨hl, hu, ho⟩ := head_fields hh
  refine ⟨?_, hl⟩
  show (if ((wordHead last u 1 ++ low).extractLsb' 50 10).toNat = 1 then _ else _) = _
  rw [ho, hu, hb]
  rfl
theorem Coding.iadd (f : ArgsA) : Coding.Statement (.iadd f) := by
  intro last w h; cases h
  exact coded (packA_fields _ f).2 (by decide) (congrArg (fun a => Except.ok (Instr.iadd a)) (packA_fields _ f).1)
theorem Coding.isub (f : ArgsA) : Coding.Statement (.isub f) := by
  intro last w h; cases h
  exact coded (packA_fields _ f).2 (by decide) (congrArg (fun a => Except.ok (Instr.isub a)) (packA_fields _ f).1)
theorem Coding.iadc (f : ArgsA) : Coding.Statement (.iadc f) := by
  intro last w h; cases h
  exact coded (packA_fields _ f).2 (by decide) (congrArg (fun a => Except.ok (Instr.iadc a)) (packA_fields _ f).1)
theorem Coding.isbc (f : ArgsA) : Coding.Statement (.isbc f) := by
  intro last w h; cases h
  exact coded (packA_fields _ f).2 (by decide) (congrArg (fun a => Except.ok (Instr.isbc a)) (packA_fields _ f).1)
theorem Coding.iaddi (f : ArgsI) : Coding.Statement (.iaddi f) := by
  intro last w h; cases h
  exact coded (packI_fields _ f).2 (by decide) (congrArg (fun a => Except.ok (Instr.iaddi a)) (packI_fields _ f).1)
theorem Coding.imul (f : ArgsA) : Coding.Statement (.imul f) := by
  intro last w h; cases h
  exact coded (packA_fields _ f).2 (by decide) (congrArg (fun a => Except.ok (Instr.imul a)) (packA_fields _ f).1)
theorem Coding.imulh (f : ArgsA) : Coding.Statement (.imulh f) := by
  intro last w h; cases h
  exact coded (packA_fields _ f).2 (by decide) (congrArg (fun a => Except.ok (Instr.imulh a)) (packA_fields _ f).1)
theorem Coding.imad (f : ArgsA) : Coding.Statement (.imad f) := by
  intro last w h; cases h
  exact coded (packA_fields _ f).2 (by decide) (congrArg (fun a => Except.ok (Instr.imad a)) (packA_fields _ f).1)
theorem Coding.imadw (f : ArgsA) : Coding.Statement (.imadw f) := by
  intro last w h; cases h
  exact coded (packA_fields _ f).2 (by decide) (congrArg (fun a => Except.ok (Instr.imadw a)) (packA_fields _ f).1)
theorem Coding.idiv (f : ArgsA) : Coding.Statement (.idiv f) := by
  intro last w h; cases h
  exact coded (packA_fields _ f).2 (by decide) (congrArg (fun a => Except.ok (Instr.idiv a)) (packA_fields _ f).1)
theorem Coding.imin (f : ArgsA) : Coding.Statement (.imin f) := by
  intro last w h; cases h
  exact coded (packA_fields _ f).2 (by decide) (congrArg (fun a => Except.ok (Instr.imin a)) (packA_fields _ f).1)
theorem Coding.imax (f : ArgsA) : Coding.Statement (.imax f) := by
  intro last w h; cases h
  exact coded (packA_fields _ f).2 (by decide) (congrArg (fun a => Except.ok (Instr.imax a)) (packA_fields _ f).1)
theorem Coding.iabs (f : ArgsA) : Coding.Statement (.iabs f) := by
  intro last w h; cases h
  exact coded (packA_fields _ f).2 (by decide) (congrArg (fun a => Except.ok (Instr.iabs a)) (packA_fields _ f).1)
theorem Coding.idp4 (f : ArgsA) : Coding.Statement (.idp4 f) := by
  intro last w h; cases h
  exact coded (packA_fields _ f).2 (by decide) (congrArg (fun a => Except.ok (Instr.idp4 a)) (packA_fields _ f).1)
theorem Coding.isad (f : ArgsA) : Coding.Statement (.isad f) := by
  intro last w h; cases h
  exact coded (packA_fields _ f).2 (by decide) (congrArg (fun a => Except.ok (Instr.isad a)) (packA_fields _ f).1)
theorem Coding.and (f : ArgsA) : Coding.Statement (.and f) := by
  intro last w h; cases h
  exact coded (packA_fields _ f).2 (by decide) (congrArg (fun a => Except.ok (Instr.and a)) (packA_fields _ f).1)
theorem Coding.or (f : ArgsA) : Coding.Statement (.or f) := by
  intro last w h; cases h
  exact coded (packA_fields _ f).2 (by decide) (congrArg (fun a => Except.ok (Instr.or a)) (packA_fields _ f).1)
theorem Coding.xor (f : ArgsA) : Coding.Statement (.xor f) := by
  intro last w h; cases h
  exact coded (packA_fields _ f).2 (by decide) (congrArg (fun a => Except.ok (Instr.xor a)) (packA_fields _ f).1)
theorem Coding.andn (f : ArgsA) : Coding.Statement (.andn f) := by
  intro last w h; cases h
  exact coded (packA_fields _ f).2 (by decide) (congrArg (fun a => Except.ok (Instr.andn a)) (packA_fields _ f).1)
theorem Coding.lop3 (f : ArgsR) : Coding.Statement (.lop3 f) := by
  intro last w h; cases h
  exact coded (packR_fields _ f).2 (by decide) (congrArg (fun a => Except.ok (Instr.lop3 a)) (packR_fields _ f).1)
theorem Coding.andi (f : ArgsI) : Coding.Statement (.andi f) := by
  intro last w h; cases h
  exact coded (packI_fields _ f).2 (by decide) (congrArg (fun a => Except.ok (Instr.andi a)) (packI_fields _ f).1)
theorem Coding.ori (f : ArgsI) : Coding.Statement (.ori f) := by
  intro last w h; cases h
  exact coded (packI_fields _ f).2 (by decide) (congrArg (fun a => Except.ok (Instr.ori a)) (packI_fields _ f).1)
theorem Coding.xori (f : ArgsI) : Coding.Statement (.xori f) := by
  intro last w h; cases h
  exact coded (packI_fields _ f).2 (by decide) (congrArg (fun a => Except.ok (Instr.xori a)) (packI_fields _ f).1)
theorem Coding.shl (f : ArgsA) : Coding.Statement (.shl f) := by
  intro last w h; cases h
  exact coded (packA_fields _ f).2 (by decide) (congrArg (fun a => Except.ok (Instr.shl a)) (packA_fields _ f).1)
theorem Coding.shr (f : ArgsA) : Coding.Statement (.shr f) := by
  intro last w h; cases h
  exact coded (packA_fields _ f).2 (by decide) (congrArg (fun a => Except.ok (Instr.shr a)) (packA_fields _ f).1)
theorem Coding.sar (f : ArgsA) : Coding.Statement (.sar f) := by
  intro last w h; cases h
  exact coded (packA_fields _ f).2 (by decide) (congrArg (fun a => Except.ok (Instr.sar a)) (packA_fields _ f).1)
theorem Coding.rot (f : ArgsA) : Coding.Statement (.rot f) := by
  intro last w h; cases h
  exact coded (packA_fields _ f).2 (by decide) (congrArg (fun a => Except.ok (Instr.rot a)) (packA_fields _ f).1)
theorem Coding.shf (f : ArgsR) : Coding.Statement (.shf f) := by
  intro last w h; cases h
  exact coded (packR_fields _ f).2 (by decide) (congrArg (fun a => Except.ok (Instr.shf a)) (packR_fields _ f).1)
theorem Coding.bfx (f : ArgsA) : Coding.Statement (.bfx f) := by
  intro last w h; cases h
  exact coded (packA_fields _ f).2 (by decide) (congrArg (fun a => Except.ok (Instr.bfx a)) (packA_fields _ f).1)
theorem Coding.bfi (f : ArgsA) : Coding.Statement (.bfi f) := by
  intro last w h; cases h
  exact coded (packA_fields _ f).2 (by decide) (congrArg (fun a => Except.ok (Instr.bfi a)) (packA_fields _ f).1)
theorem Coding.popc (f : ArgsA) : Coding.Statement (.popc f) := by
  intro last w h; cases h
  exact coded (packA_fields _ f).2 (by decide) (congrArg (fun a => Except.ok (Instr.popc a)) (packA_fields _ f).1)
theorem Coding.clz (f : ArgsA) : Coding.Statement (.clz f) := by
  intro last w h; cases h
  exact coded (packA_fields _ f).2 (by decide) (congrArg (fun a => Except.ok (Instr.clz a)) (packA_fields _ f).1)
theorem Coding.brev (f : ArgsA) : Coding.Statement (.brev f) := by
  intro last w h; cases h
  exact coded (packA_fields _ f).2 (by decide) (congrArg (fun a => Except.ok (Instr.brev a)) (packA_fields _ f).1)
theorem Coding.prmt (f : ArgsA) : Coding.Statement (.prmt f) := by
  intro last w h; cases h
  exact coded (packA_fields _ f).2 (by decide) (congrArg (fun a => Except.ok (Instr.prmt a)) (packA_fields _ f).1)
theorem Coding.icmp (f : ArgsA) : Coding.Statement (.icmp f) := by
  intro last w h; cases h
  exact coded (packA_fields _ f).2 (by decide) (congrArg (fun a => Except.ok (Instr.icmp a)) (packA_fields _ f).1)
theorem Coding.icmpi (f : ArgsI) : Coding.Statement (.icmpi f) := by
  intro last w h; cases h
  exact coded (packI_fields _ f).2 (by decide) (congrArg (fun a => Except.ok (Instr.icmpi a)) (packI_fields _ f).1)
theorem Coding.itst (f : ArgsA) : Coding.Statement (.itst f) := by
  intro last w h; cases h
  exact coded (packA_fields _ f).2 (by decide) (congrArg (fun a => Except.ok (Instr.itst a)) (packA_fields _ f).1)
theorem Coding.sel (f : ArgsR) : Coding.Statement (.sel f) := by
  intro last w h; cases h
  exact coded (packR_fields _ f).2 (by decide) (congrArg (fun a => Except.ok (Instr.sel a)) (packR_fields _ f).1)
theorem Coding.mov (f : ArgsA) : Coding.Statement (.mov f) := by
  intro last w h; cases h
  exact coded (packA_fields _ f).2 (by decide) (congrArg (fun a => Except.ok (Instr.mov a)) (packA_fields _ f).1)
theorem Coding.li (f : ArgsI) : Coding.Statement (.li f) := by
  intro last w h; cases h
  exact coded (packI_fields _ f).2 (by decide) (congrArg (fun a => Except.ok (Instr.li a)) (packI_fields _ f).1)
theorem Coding.lih (f : ArgsI) : Coding.Statement (.lih f) := by
  intro last w h; cases h
  exact coded (packI_fields _ f).2 (by decide) (congrArg (fun a => Except.ok (Instr.lih a)) (packI_fields _ f).1)
theorem Coding.lea (f : ArgsA) : Coding.Statement (.lea f) := by
  intro last w h; cases h
  exact coded (packA_fields _ f).2 (by decide) (congrArg (fun a => Except.ok (Instr.lea a)) (packA_fields _ f).1)
theorem Coding.ccrd (f : ArgsA) : Coding.Statement (.ccrd f) := by
  intro last w h; cases h
  exact coded (packA_fields _ f).2 (by decide) (congrArg (fun a => Except.ok (Instr.ccrd a)) (packA_fields _ f).1)
theorem Coding.ccwr (f : ArgsA) : Coding.Statement (.ccwr f) := by
  intro last w h; cases h
  exact coded (packA_fields _ f).2 (by decide) (congrArg (fun a => Except.ok (Instr.ccwr a)) (packA_fields _ f).1)
theorem Coding.shfl (f : ArgsA) : Coding.Statement (.shfl f) := by
  intro last w h; cases h
  exact coded (packA_fields _ f).2 (by decide) (congrArg (fun a => Except.ok (Instr.shfl a)) (packA_fields _ f).1)
theorem Coding.vote (f : ArgsA) : Coding.Statement (.vote f) := by
  intro last w h; cases h
  exact coded (packA_fields _ f).2 (by decide) (congrArg (fun a => Except.ok (Instr.vote a)) (packA_fields _ f).1)
theorem Coding.matchL (f : ArgsA) : Coding.Statement (.matchL f) := by
  intro last w h; cases h
  exact coded (packA_fields _ f).2 (by decide) (congrArg (fun a => Except.ok (Instr.matchL a)) (packA_fields _ f).1)
theorem Coding.fadd (f : ArgsB) : Coding.Statement (.fadd f) := by
  intro last w h; cases h
  exact coded (packB_fields _ f).2 (by decide) (congrArg (fun a => Except.ok (Instr.fadd a)) (packB_fields _ f).1)
theorem Coding.fsub (f : ArgsB) : Coding.Statement (.fsub f) := by
  intro last w h; cases h
  exact coded (packB_fields _ f).2 (by decide) (congrArg (fun a => Except.ok (Instr.fsub a)) (packB_fields _ f).1)
theorem Coding.fmul (f : ArgsB) : Coding.Statement (.fmul f) := by
  intro last w h; cases h
  exact coded (packB_fields _ f).2 (by decide) (congrArg (fun a => Except.ok (Instr.fmul a)) (packB_fields _ f).1)
theorem Coding.ffma (f : ArgsB) : Coding.Statement (.ffma f) := by
  intro last w h; cases h
  exact coded (packB_fields _ f).2 (by decide) (congrArg (fun a => Except.ok (Instr.ffma a)) (packB_fields _ f).1)
theorem Coding.fmin (f : ArgsB) : Coding.Statement (.fmin f) := by
  intro last w h; cases h
  exact coded (packB_fields _ f).2 (by decide) (congrArg (fun a => Except.ok (Instr.fmin a)) (packB_fields _ f).1)
theorem Coding.fmax (f : ArgsB) : Coding.Statement (.fmax f) := by
  intro last w h; cases h
  exact coded (packB_fields _ f).2 (by decide) (congrArg (fun a => Except.ok (Instr.fmax a)) (packB_fields _ f).1)
theorem Coding.fcmp (f : ArgsB) : Coding.Statement (.fcmp f) := by
  intro last w h; cases h
  exact coded (packB_fields _ f).2 (by decide) (congrArg (fun a => Except.ok (Instr.fcmp a)) (packB_fields _ f).1)
theorem Coding.frnd (f : ArgsB) : Coding.Statement (.frnd f) := by
  intro last w h; cases h
  exact coded (packB_fields _ f).2 (by decide) (congrArg (fun a => Except.ok (Instr.frnd a)) (packB_fields _ f).1)
theorem Coding.fdp2 (f : ArgsB) : Coding.Statement (.fdp2 f) := by
  intro last w h; cases h
  exact coded (packB_fields _ f).2 (by decide) (congrArg (fun a => Except.ok (Instr.fdp2 a)) (packB_fields _ f).1)
theorem Coding.dadd (f : ArgsB) : Coding.Statement (.dadd f) := by
  intro last w h; cases h
  exact coded (packB_fields _ f).2 (by decide) (congrArg (fun a => Except.ok (Instr.dadd a)) (packB_fields _ f).1)
theorem Coding.dmul (f : ArgsB) : Coding.Statement (.dmul f) := by
  intro last w h; cases h
  exact coded (packB_fields _ f).2 (by decide) (congrArg (fun a => Except.ok (Instr.dmul a)) (packB_fields _ f).1)
theorem Coding.dfma (f : ArgsB) : Coding.Statement (.dfma f) := by
  intro last w h; cases h
  exact coded (packB_fields _ f).2 (by decide) (congrArg (fun a => Except.ok (Instr.dfma a)) (packB_fields _ f).1)
theorem Coding.dcmp (f : ArgsB) : Coding.Statement (.dcmp f) := by
  intro last w h; cases h
  exact coded (packB_fields _ f).2 (by decide) (congrArg (fun a => Except.ok (Instr.dcmp a)) (packB_fields _ f).1)
theorem Coding.hadd2 (f : ArgsB) : Coding.Statement (.hadd2 f) := by
  intro last w h; cases h
  exact coded (packB_fields _ f).2 (by decide) (congrArg (fun a => Except.ok (Instr.hadd2 a)) (packB_fields _ f).1)
theorem Coding.hmul2 (f : ArgsB) : Coding.Statement (.hmul2 f) := by
  intro last w h; cases h
  exact coded (packB_fields _ f).2 (by decide) (congrArg (fun a => Except.ok (Instr.hmul2 a)) (packB_fields _ f).1)
theorem Coding.hfma2 (f : ArgsB) : Coding.Statement (.hfma2 f) := by
  intro last w h; cases h
  exact coded (packB_fields _ f).2 (by decide) (congrArg (fun a => Except.ok (Instr.hfma2 a)) (packB_fields _ f).1)
theorem Coding.hmin2 (f : ArgsB) : Coding.Statement (.hmin2 f) := by
  intro last w h; cases h
  exact coded (packB_fields _ f).2 (by decide) (congrArg (fun a => Except.ok (Instr.hmin2 a)) (packB_fields _ f).1)
theorem Coding.hmax2 (f : ArgsB) : Coding.Statement (.hmax2 f) := by
  intro last w h; cases h
  exact coded (packB_fields _ f).2 (by decide) (congrArg (fun a => Except.ok (Instr.hmax2 a)) (packB_fields _ f).1)
theorem Coding.f2i (f : ArgsR) : Coding.Statement (.f2i f) := by
  intro last w h; cases h
  exact coded (packR_fields _ f).2 (by decide) (congrArg (fun a => Except.ok (Instr.f2i a)) (packR_fields _ f).1)
theorem Coding.i2f (f : ArgsR) : Coding.Statement (.i2f f) := by
  intro last w h; cases h
  exact coded (packR_fields _ f).2 (by decide) (congrArg (fun a => Except.ok (Instr.i2f a)) (packR_fields _ f).1)
theorem Coding.fcvt (f : ArgsR) : Coding.Statement (.fcvt f) := by
  intro last w h; cases h
  exact coded (packR_fields _ f).2 (by decide) (congrArg (fun a => Except.ok (Instr.fcvt a)) (packR_fields _ f).1)
theorem Coding.f2n (f : ArgsR) : Coding.Statement (.f2n f) := by
  intro last w h; cases h
  exact coded (packR_fields _ f).2 (by decide) (congrArg (fun a => Except.ok (Instr.f2n a)) (packR_fields _ f).1)
theorem Coding.n2f (f : ArgsR) : Coding.Statement (.n2f f) := by
  intro last w h; cases h
  exact coded (packR_fields _ f).2 (by decide) (congrArg (fun a => Except.ok (Instr.n2f a)) (packR_fields _ f).1)
theorem Coding.rcp (f : ArgsB) : Coding.Statement (.rcp f) := by
  intro last w h; cases h
  exact coded (packB_fields _ f).2 (by decide) (congrArg (fun a => Except.ok (Instr.rcp a)) (packB_fields _ f).1)
theorem Coding.rsq (f : ArgsB) : Coding.Statement (.rsq f) := by
  intro last w h; cases h
  exact coded (packB_fields _ f).2 (by decide) (congrArg (fun a => Except.ok (Instr.rsq a)) (packB_fields _ f).1)
theorem Coding.sqrt (f : ArgsB) : Coding.Statement (.sqrt f) := by
  intro last w h; cases h
  exact coded (packB_fields _ f).2 (by decide) (congrArg (fun a => Except.ok (Instr.sqrt a)) (packB_fields _ f).1)
theorem Coding.ex2 (f : ArgsB) : Coding.Statement (.ex2 f) := by
  intro last w h; cases h
  exact coded (packB_fields _ f).2 (by decide) (congrArg (fun a => Except.ok (Instr.ex2 a)) (packB_fields _ f).1)
theorem Coding.lg2 (f : ArgsB) : Coding.Statement (.lg2 f) := by
  intro last w h; cases h
  exact coded (packB_fields _ f).2 (by decide) (congrArg (fun a => Except.ok (Instr.lg2 a)) (packB_fields _ f).1)
theorem Coding.sin (f : ArgsB) : Coding.Statement (.sin f) := by
  intro last w h; cases h
  exact coded (packB_fields _ f).2 (by decide) (congrArg (fun a => Except.ok (Instr.sin a)) (packB_fields _ f).1)
theorem Coding.cos (f : ArgsB) : Coding.Statement (.cos f) := by
  intro last w h; cases h
  exact coded (packB_fields _ f).2 (by decide) (congrArg (fun a => Except.ok (Instr.cos a)) (packB_fields _ f).1)
theorem Coding.tanh (f : ArgsB) : Coding.Statement (.tanh f) := by
  intro last w h; cases h
  exact coded (packB_fields _ f).2 (by decide) (congrArg (fun a => Except.ok (Instr.tanh a)) (packB_fields _ f).1)
theorem Coding.redPush (f : ArgsR) : Coding.Statement (.redPush f) := by
  intro last w h; cases h
  exact coded (packR_fields _ f).2 (by decide) (congrArg (fun a => Except.ok (Instr.redPush a)) (packR_fields _ f).1)
theorem Coding.redMov (f : ArgsR) : Coding.Statement (.redMov f) := by
  intro last w h; cases h
  exact coded (packR_fields _ f).2 (by decide) (congrArg (fun a => Except.ok (Instr.redMov a)) (packR_fields _ f).1)
theorem Coding.redClr (f : ArgsR) : Coding.Statement (.redClr f) := by
  intro last w h; cases h
  exact coded (packR_fields _ f).2 (by decide) (congrArg (fun a => Except.ok (Instr.redClr a)) (packR_fields _ f).1)
theorem Coding.chk (f : ArgsR) : Coding.Statement (.chk f) := by
  intro last w h; cases h
  exact coded (packR_fields _ f).2 (by decide) (congrArg (fun a => Except.ok (Instr.chk a)) (packR_fields _ f).1)
theorem Coding.ldG (f : ArgsM) : Coding.Statement (.ldG f) := by
  intro last w h; cases h
  exact coded (packM_fields _ f).2 (by decide) (congrArg (fun a => Except.ok (Instr.ldG a)) (packM_fields _ f).1)
theorem Coding.stG (f : ArgsM) : Coding.Statement (.stG f) := by
  intro last w h; cases h
  exact coded (packM_fields _ f).2 (by decide) (congrArg (fun a => Except.ok (Instr.stG a)) (packM_fields _ f).1)
theorem Coding.ldS (f : ArgsM) : Coding.Statement (.ldS f) := by
  intro last w h; cases h
  exact coded (packM_fields _ f).2 (by decide) (congrArg (fun a => Except.ok (Instr.ldS a)) (packM_fields _ f).1)
theorem Coding.stS (f : ArgsM) : Coding.Statement (.stS f) := by
  intro last w h; cases h
  exact coded (packM_fields _ f).2 (by decide) (congrArg (fun a => Except.ok (Instr.stS a)) (packM_fields _ f).1)
theorem Coding.ldC (f : ArgsM) : Coding.Statement (.ldC f) := by
  intro last w h; cases h
  exact coded (packM_fields _ f).2 (by decide) (congrArg (fun a => Except.ok (Instr.ldC a)) (packM_fields _ f).1)
theorem Coding.stC (f : ArgsM) : Coding.Statement (.stC f) := by
  intro last w h; cases h
  exact coded (packM_fields _ f).2 (by decide) (congrArg (fun a => Except.ok (Instr.stC a)) (packM_fields _ f).1)
theorem Coding.ldL (f : ArgsM) : Coding.Statement (.ldL f) := by
  intro last w h; cases h
  exact coded (packM_fields _ f).2 (by decide) (congrArg (fun a => Except.ok (Instr.ldL a)) (packM_fields _ f).1)
theorem Coding.stL (f : ArgsM) : Coding.Statement (.stL f) := by
  intro last w h; cases h
  exact coded (packM_fields _ f).2 (by decide) (congrArg (fun a => Except.ok (Instr.stL a)) (packM_fields _ f).1)
theorem Coding.ldQ (f : ArgsM) : Coding.Statement (.ldQ f) := by
  intro last w h; cases h
  exact coded (packM_fields _ f).2 (by decide) (congrArg (fun a => Except.ok (Instr.ldQ a)) (packM_fields _ f).1)
theorem Coding.stQ (f : ArgsM) : Coding.Statement (.stQ f) := by
  intro last w h; cases h
  exact coded (packM_fields _ f).2 (by decide) (congrArg (fun a => Except.ok (Instr.stQ a)) (packM_fields _ f).1)
theorem Coding.atomS (f : ArgsAt) : Coding.Statement (.atomS f) := by
  intro last w h; cases h
  exact coded (packAt_fields _ f).2 (by decide) (congrArg (fun a => Except.ok (Instr.atomS a)) (packAt_fields _ f).1)
theorem Coding.casS (f : ArgsAt) : Coding.Statement (.casS f) := by
  intro last w h; cases h
  exact coded (packAt_fields _ f).2 (by decide) (congrArg (fun a => Except.ok (Instr.casS a)) (packAt_fields _ f).1)
theorem Coding.waita (f : ArgsM) : Coding.Statement (.waita f) := by
  intro last w h; cases h
  exact coded (packM_fields _ f).2 (by decide) (congrArg (fun a => Except.ok (Instr.waita a)) (packM_fields _ f).1)
theorem Coding.tagr (f : ArgsM) : Coding.Statement (.tagr f) := by
  intro last w h; cases h
  exact coded (packM_fields _ f).2 (by decide) (congrArg (fun a => Except.ok (Instr.tagr a)) (packM_fields _ f).1)
theorem Coding.tagw (f : ArgsM) : Coding.Statement (.tagw f) := by
  intro last w h; cases h
  exact coded (packM_fields _ f).2 (by decide) (congrArg (fun a => Except.ok (Instr.tagw a)) (packM_fields _ f).1)
theorem Coding.pref (f : ArgsM) : Coding.Statement (.pref f) := by
  intro last w h; cases h
  exact coded (packM_fields _ f).2 (by decide) (congrArg (fun a => Except.ok (Instr.pref a)) (packM_fields _ f).1)
theorem Coding.bra (f : ArgsJ) : Coding.Statement (.bra f) := by
  intro last w h; cases h
  exact coded (packJ_fields _ f).2 (by decide) (congrArg (fun a => Except.ok (Instr.bra a)) (packJ_fields _ f).1)
theorem Coding.brx (f : ArgsR) : Coding.Statement (.brx f) := by
  intro last w h; cases h
  exact coded (packR_fields _ f).2 (by decide) (congrArg (fun a => Except.ok (Instr.brx a)) (packR_fields _ f).1)
theorem Coding.call (f : ArgsJ) : Coding.Statement (.call f) := by
  intro last w h; cases h
  exact coded (packJ_fields _ f).2 (by decide) (congrArg (fun a => Except.ok (Instr.call a)) (packJ_fields _ f).1)
theorem Coding.callx (f : ArgsR) : Coding.Statement (.callx f) := by
  intro last w h; cases h
  exact coded (packR_fields _ f).2 (by decide) (congrArg (fun a => Except.ok (Instr.callx a)) (packR_fields _ f).1)
theorem Coding.ret (f : ArgsR) : Coding.Statement (.ret f) := by
  intro last w h; cases h
  exact coded (packR_fields _ f).2 (by decide) (congrArg (fun a => Except.ok (Instr.ret a)) (packR_fields _ f).1)
theorem Coding.exit (f : ArgsR) : Coding.Statement (.exit f) := by
  intro last w h; cases h
  exact coded (packR_fields _ f).2 (by decide) (congrArg (fun a => Except.ok (Instr.exit a)) (packR_fields _ f).1)
theorem Coding.join (f : ArgsR) : Coding.Statement (.join f) := by
  intro last w h; cases h
  exact coded (packR_fields _ f).2 (by decide) (congrArg (fun a => Except.ok (Instr.join a)) (packR_fields _ f).1)
theorem Coding.leave (f : ArgsR) : Coding.Statement (.leave f) := by
  intro last w h; cases h
  exact coded (packR_fields _ f).2 (by decide) (congrArg (fun a => Except.ok (Instr.leave a)) (packR_fields _ f).1)
theorem Coding.waitm (f : ArgsR) : Coding.Statement (.waitm f) := by
  intro last w h; cases h
  exact coded (packR_fields _ f).2 (by decide) (congrArg (fun a => Except.ok (Instr.waitm a)) (packR_fields _ f).1)
theorem Coding.mset (f : ArgsR) : Coding.Statement (.mset f) := by
  intro last w h; cases h
  exact coded (packR_fields _ f).2 (by decide) (congrArg (fun a => Except.ok (Instr.mset a)) (packR_fields _ f).1)
theorem Coding.mop (f : ArgsR) : Coding.Statement (.mop f) := by
  intro last w h; cases h
  exact coded (packR_fields _ f).2 (by decide) (congrArg (fun a => Except.ok (Instr.mop a)) (packR_fields _ f).1)
theorem Coding.mrd (f : ArgsR) : Coding.Statement (.mrd f) := by
  intro last w h; cases h
  exact coded (packR_fields _ f).2 (by decide) (congrArg (fun a => Except.ok (Instr.mrd a)) (packR_fields _ f).1)
theorem Coding.mwr (f : ArgsR) : Coding.Statement (.mwr f) := by
  intro last w h; cases h
  exact coded (packR_fields _ f).2 (by decide) (congrArg (fun a => Except.ok (Instr.mwr a)) (packR_fields _ f).1)
theorem Coding.bar (f : ArgsR) : Coding.Statement (.bar f) := by
  intro last w h; cases h
  exact coded (packR_fields _ f).2 (by decide) (congrArg (fun a => Except.ok (Instr.bar a)) (packR_fields _ f).1)
theorem Coding.sbar (f : ArgsR) : Coding.Statement (.sbar f) := by
  intro last w h; cases h
  exact coded (packR_fields _ f).2 (by decide) (congrArg (fun a => Except.ok (Instr.sbar a)) (packR_fields _ f).1)
theorem Coding.fence (f : ArgsR) : Coding.Statement (.fence f) := by
  intro last w h; cases h
  exact coded (packR_fields _ f).2 (by decide) (congrArg (fun a => Except.ok (Instr.fence a)) (packR_fields _ f).1)
theorem Coding.atomH (f : ArgsAt) : Coding.Statement (.atomH f) := by
  intro last w h; cases h
  exact coded (packAt_fields _ f).2 (by decide) (congrArg (fun a => Except.ok (Instr.atomH a)) (packAt_fields _ f).1)
theorem Coding.redH (f : ArgsAt) : Coding.Statement (.redH f) := by
  intro last w h; cases h
  exact coded (packAt_fields _ f).2 (by decide) (congrArg (fun a => Except.ok (Instr.redH a)) (packAt_fields _ f).1)
theorem Coding.casH (f : ArgsAt) : Coding.Statement (.casH f) := by
  intro last w h; cases h
  exact coded (packAt_fields _ f).2 (by decide) (congrArg (fun a => Except.ok (Instr.casH a)) (packAt_fields _ f).1)
theorem Coding.cp (f : ArgsR) : Coding.Statement (.cp f) := by
  intro last w h; cases h
  exact coded (packR_fields _ f).2 (by decide) (congrArg (fun a => Except.ok (Instr.cp a)) (packR_fields _ f).1)
theorem Coding.lop (f : ArgsR) : Coding.Statement (.lop f) := by
  intro last w h; cases h
  exact coded (packR_fields _ f).2 (by decide) (congrArg (fun a => Except.ok (Instr.lop a)) (packR_fields _ f).1)
theorem Coding.hatch (f : ArgsR) : Coding.Statement (.hatch f) := by
  intro last w h; cases h
  exact coded (packR_fields _ f).2 (by decide) (congrArg (fun a => Except.ok (Instr.hatch a)) (packR_fields _ f).1)
theorem Coding.safept (f : ArgsR) : Coding.Statement (.safept f) := by
  intro last w h; cases h
  exact coded (packR_fields _ f).2 (by decide) (congrArg (fun a => Except.ok (Instr.safept a)) (packR_fields _ f).1)
theorem Coding.shelf (f : ArgsR) : Coding.Statement (.shelf f) := by
  intro last w h; cases h
  exact coded (packR_fields _ f).2 (by decide) (congrArg (fun a => Except.ok (Instr.shelf a)) (packR_fields _ f).1)
theorem Coding.launch (f : ArgsR) : Coding.Statement (.launch f) := by
  intro last w h; cases h
  exact coded (packR_fields _ f).2 (by decide) (congrArg (fun a => Except.ok (Instr.launch a)) (packR_fields _ f).1)
theorem Coding.trap (f : ArgsR) : Coding.Statement (.trap f) := by
  intro last w h; cases h
  exact coded (packR_fields _ f).2 (by decide) (congrArg (fun a => Except.ok (Instr.trap a)) (packR_fields _ f).1)
theorem Coding.bkpt (f : ArgsR) : Coding.Statement (.bkpt f) := by
  intro last w h; cases h
  exact coded (packR_fields _ f).2 (by decide) (congrArg (fun a => Except.ok (Instr.bkpt a)) (packR_fields _ f).1)
theorem Coding.yield (f : ArgsR) : Coding.Statement (.yield f) := by
  intro last w h; cases h
  exact coded (packR_fields _ f).2 (by decide) (congrArg (fun a => Except.ok (Instr.yield a)) (packR_fields _ f).1)
theorem Coding.gts (f : ArgsR) : Coding.Statement (.gts f) := by
  intro last w h; cases h
  exact coded (packR_fields _ f).2 (by decide) (congrArg (fun a => Except.ok (Instr.gts a)) (packR_fields _ f).1)
theorem Coding.cnt (f : ArgsR) : Coding.Statement (.cnt f) := by
  intro last w h; cases h
  exact coded (packR_fields _ f).2 (by decide) (congrArg (fun a => Except.ok (Instr.cnt a)) (packR_fields _ f).1)
theorem Coding.evt (f : ArgsR) : Coding.Statement (.evt f) := by
  intro last w h; cases h
  exact coded (packR_fields _ f).2 (by decide) (congrArg (fun a => Except.ok (Instr.evt a)) (packR_fields _ f).1)
theorem Coding.nsleep (f : ArgsR) : Coding.Statement (.nsleep f) := by
  intro last w h; cases h
  exact coded (packR_fields _ f).2 (by decide) (congrArg (fun a => Except.ok (Instr.nsleep a)) (packR_fields _ f).1)
theorem Coding.qadd (f : ArgsR) : Coding.Statement (.qadd f) := by
  intro last w h; cases h
  exact coded (packR_fields _ f).2 (by decide) (congrArg (fun a => Except.ok (Instr.qadd a)) (packR_fields _ f).1)
theorem Coding.qsub (f : ArgsR) : Coding.Statement (.qsub f) := by
  intro last w h; cases h
  exact coded (packR_fields _ f).2 (by decide) (congrArg (fun a => Except.ok (Instr.qsub a)) (packR_fields _ f).1)
theorem Coding.qmul (f : ArgsR) : Coding.Statement (.qmul f) := by
  intro last w h; cases h
  exact coded (packR_fields _ f).2 (by decide) (congrArg (fun a => Except.ok (Instr.qmul a)) (packR_fields _ f).1)
theorem Coding.qli (f : ArgsI) : Coding.Statement (.qli f) := by
  intro last w h; cases h
  exact coded (packI_fields _ f).2 (by decide) (congrArg (fun a => Except.ok (Instr.qli a)) (packI_fields _ f).1)
theorem Coding.qshl (f : ArgsR) : Coding.Statement (.qshl f) := by
  intro last w h; cases h
  exact coded (packR_fields _ f).2 (by decide) (congrArg (fun a => Except.ok (Instr.qshl a)) (packR_fields _ f).1)
theorem Coding.qand (f : ArgsR) : Coding.Statement (.qand f) := by
  intro last w h; cases h
  exact coded (packR_fields _ f).2 (by decide) (congrArg (fun a => Except.ok (Instr.qand a)) (packR_fields _ f).1)
theorem Coding.qcmp (f : ArgsR) : Coding.Statement (.qcmp f) := by
  intro last w h; cases h
  exact coded (packR_fields _ f).2 (by decide) (congrArg (fun a => Except.ok (Instr.qcmp a)) (packR_fields _ f).1)
theorem Coding.qmov (f : ArgsR) : Coding.Statement (.qmov f) := by
  intro last w h; cases h
  exact coded (packR_fields _ f).2 (by decide) (congrArg (fun a => Except.ok (Instr.qmov a)) (packR_fields _ f).1)
theorem Coding.qbra (f : ArgsJ) : Coding.Statement (.qbra f) := by
  intro last w h; cases h
  exact coded (packJ_fields _ f).2 (by decide) (congrArg (fun a => Except.ok (Instr.qbra a)) (packJ_fields _ f).1)
theorem Coding.qloop (f : ArgsJ) : Coding.Statement (.qloop f) := by
  intro last w h; cases h
  exact coded (packJ_fields _ f).2 (by decide) (congrArg (fun a => Except.ok (Instr.qloop a)) (packJ_fields _ f).1)
theorem Coding.qwait (f : ArgsR) : Coding.Statement (.qwait f) := by
  intro last w h; cases h
  exact coded (packR_fields _ f).2 (by decide) (congrArg (fun a => Except.ok (Instr.qwait a)) (packR_fields _ f).1)
theorem Coding.qsig (f : ArgsR) : Coding.Statement (.qsig f) := by
  intro last w h; cases h
  exact coded (packR_fields _ f).2 (by decide) (congrArg (fun a => Except.ok (Instr.qsig a)) (packR_fields _ f).1)
theorem Coding.unhatch (f : ArgsR) : Coding.Statement (.unhatch f) := by
  intro last w h; cases h
  exact coded (packR_fields _ f).2 (by decide) (congrArg (fun a => Except.ok (Instr.unhatch a)) (packR_fields _ f).1)
theorem Coding.tresume (f : ArgsR) : Coding.Statement (.tresume f) := by
  intro last w h; cases h
  exact coded (packR_fields _ f).2 (by decide) (congrArg (fun a => Except.ok (Instr.tresume a)) (packR_fields _ f).1)
theorem Coding.qsafe (f : ArgsR) : Coding.Statement (.qsafe f) := by
  intro last w h; cases h
  exact coded (packR_fields _ f).2 (by decide) (congrArg (fun a => Except.ok (Instr.qsafe a)) (packR_fields _ f).1)
theorem Coding.tfence (f : ArgsR) : Coding.Statement (.tfence f) := by
  intro last w h; cases h
  exact coded (packR_fields _ f).2 (by decide) (congrArg (fun a => Except.ok (Instr.tfence a)) (packR_fields _ f).1)
theorem Coding.tld (f : ArgsT) : Coding.Statement (.tld f) := by
  intro last w h; cases h
  exact coded (packT_fields _ f).2 (by decide) (congrArg (fun a => Except.ok (Instr.tld a)) (packT_fields _ f).1)
theorem Coding.tst (f : ArgsT) : Coding.Statement (.tst f) := by
  intro last w h; cases h
  exact coded (packT_fields _ f).2 (by decide) (congrArg (fun a => Except.ok (Instr.tst a)) (packT_fields _ f).1)
theorem Coding.tcp (f : ArgsT) : Coding.Statement (.tcp f) := by
  intro last w h; cases h
  exact coded (packT_fields _ f).2 (by decide) (congrArg (fun a => Except.ok (Instr.tcp a)) (packT_fields _ f).1)
theorem Coding.txp (f : ArgsT) : Coding.Statement (.txp f) := by
  intro last w h; cases h
  exact coded (packT_fields _ f).2 (by decide) (congrArg (fun a => Except.ok (Instr.txp a)) (packT_fields _ f).1)
theorem Coding.tgat (f : ArgsT) : Coding.Statement (.tgat f) := by
  intro last w h; cases h
  exact coded (packT_fields _ f).2 (by decide) (congrArg (fun a => Except.ok (Instr.tgat a)) (packT_fields _ f).1)
theorem Coding.tfill (f : ArgsT) : Coding.Statement (.tfill f) := by
  intro last w h; cases h
  exact coded (packT_fields _ f).2 (by decide) (congrArg (fun a => Except.ok (Instr.tfill a)) (packT_fields _ f).1)
theorem Coding.tzero (f : ArgsT) : Coding.Statement (.tzero f) := by
  intro last w h; cases h
  exact coded (packT_fields _ f).2 (by decide) (congrArg (fun a => Except.ok (Instr.tzero a)) (packT_fields _ f).1)
theorem Coding.tmma (f : ArgsT) : Coding.Statement (.tmma f) := by
  intro last w h; cases h
  exact coded (packT_fields _ f).2 (by decide) (congrArg (fun a => Except.ok (Instr.tmma a)) (packT_fields _ f).1)
theorem Coding.tgemm (f : ArgsG) : Coding.Statement (.tgemm f) := by
  intro last w h; cases h
  exact coded (packG_fields _ f).2 (by decide) (congrArg (fun a => Except.ok (Instr.tgemm a)) (packG_fields _ f).1)
theorem Coding.tadd (f : ArgsT) : Coding.Statement (.tadd f) := by
  intro last w h; cases h
  exact coded (packT_fields _ f).2 (by decide) (congrArg (fun a => Except.ok (Instr.tadd a)) (packT_fields _ f).1)
theorem Coding.tmul (f : ArgsT) : Coding.Statement (.tmul f) := by
  intro last w h; cases h
  exact coded (packT_fields _ f).2 (by decide) (congrArg (fun a => Except.ok (Instr.tmul a)) (packT_fields _ f).1)
theorem Coding.tfma (f : ArgsT) : Coding.Statement (.tfma f) := by
  intro last w h; cases h
  exact coded (packT_fields _ f).2 (by decide) (congrArg (fun a => Except.ok (Instr.tfma a)) (packT_fields _ f).1)
theorem Coding.tmax (f : ArgsT) : Coding.Statement (.tmax f) := by
  intro last w h; cases h
  exact coded (packT_fields _ f).2 (by decide) (congrArg (fun a => Except.ok (Instr.tmax a)) (packT_fields _ f).1)
theorem Coding.tact (f : ArgsT) : Coding.Statement (.tact f) := by
  intro last w h; cases h
  exact coded (packT_fields _ f).2 (by decide) (congrArg (fun a => Except.ok (Instr.tact a)) (packT_fields _ f).1)
theorem Coding.tscale (f : ArgsT) : Coding.Statement (.tscale f) := by
  intro last w h; cases h
  exact coded (packT_fields _ f).2 (by decide) (congrArg (fun a => Except.ok (Instr.tscale a)) (packT_fields _ f).1)
theorem Coding.tred (f : ArgsT) : Coding.Statement (.tred f) := by
  intro last w h; cases h
  exact coded (packT_fields _ f).2 (by decide) (congrArg (fun a => Except.ok (Instr.tred a)) (packT_fields _ f).1)
theorem Coding.tamax (f : ArgsT) : Coding.Statement (.tamax f) := by
  intro last w h; cases h
  exact coded (packT_fields _ f).2 (by decide) (congrArg (fun a => Except.ok (Instr.tamax a)) (packT_fields _ f).1)
theorem Coding.tminmax (f : ArgsT) : Coding.Statement (.tminmax f) := by
  intro last w h; cases h
  exact coded (packT_fields _ f).2 (by decide) (congrArg (fun a => Except.ok (Instr.tminmax a)) (packT_fields _ f).1)
theorem Coding.tqnt (f : ArgsT) : Coding.Statement (.tqnt f) := by
  intro last w h; cases h
  exact coded (packT_fields _ f).2 (by decide) (congrArg (fun a => Except.ok (Instr.tqnt a)) (packT_fields _ f).1)
theorem Coding.tdqt (f : ArgsT) : Coding.Statement (.tdqt f) := by
  intro last w h; cases h
  exact coded (packT_fields _ f).2 (by decide) (congrArg (fun a => Except.ok (Instr.tdqt a)) (packT_fields _ f).1)
theorem Coding.tcvt (f : ArgsT) : Coding.Statement (.tcvt f) := by
  intro last w h; cases h
  exact coded (packT_fields _ f).2 (by decide) (congrArg (fun a => Except.ok (Instr.tcvt a)) (packT_fields _ f).1)
theorem Coding.topt (f : ArgsT) : Coding.Statement (.topt f) := by
  intro last w h; cases h
  exact coded (packT_fields _ f).2 (by decide) (congrArg (fun a => Except.ok (Instr.topt a)) (packT_fields _ f).1)
theorem Coding.fenceComplete (blk crew n : Nat) : Coding.Statement (.fenceComplete blk crew n) := by
  intro last w h; cases h
theorem Coding.conflictNotice (core line : Nat) : Coding.Statement (.conflictNotice core line) := by
  intro last w h; cases h
theorem Coding.homeRequest (core k : Nat) : Coding.Statement (.homeRequest core k) := by
  intro last w h; cases h
theorem Coding.l1Invalidation (core line : Nat) : Coding.Statement (.l1Invalidation core line) := by
  intro last w h; cases h
theorem Coding.copyRun (die k : Nat) : Coding.Statement (.copyRun die k) := by
  intro last w h; cases h
theorem Coding.loftGrant (core loft : Nat) : Coding.Statement (.loftGrant core loft) := by
  intro last w h; cases h
theorem Coding.trapRecordWrite (k : Nat) : Coding.Statement (.trapRecordWrite k) := by
  intro last w h; cases h
theorem Coding.sleepEnd (blk crew lane : Nat) : Coding.Statement (.sleepEnd blk crew lane) := by
  intro last w h; cases h
theorem Coding.regroupPoint (blk crew : Nat) : Coding.Statement (.regroupPoint blk crew) := by
  intro last w h; cases h
theorem Coding.waitWake (blk crew lane : Nat) : Coding.Statement (.waitWake blk crew lane) := by
  intro last w h; cases h
theorem Coding.waitLimit (blk : Nat) : Coding.Statement (.waitLimit blk) := by
  intro last w h; cases h
theorem Coding.unhatchComplete (blk : Nat) : Coding.Statement (.unhatchComplete blk) := by
  intro last w h; cases h
theorem Coding.engineResultWrite (blk k : Nat) : Coding.Statement (.engineResultWrite blk k) := by
  intro last w h; cases h
theorem Coding.tlbiVaRange (fn vfs asid base count : Nat) : Coding.Statement (.tlbiVaRange fn vfs asid base count) := by
  intro last w h; cases h
theorem Coding.tlbiAsid (fn vfs asid : Nat) : Coding.Statement (.tlbiAsid fn vfs asid) := by
  intro last w h; cases h
theorem Coding.tlbiVfStage1 (fn vfs : Nat) : Coding.Statement (.tlbiVfStage1 fn vfs) := by
  intro last w h; cases h
theorem Coding.tlbiIpaRange (fn vfs base count : Nat) : Coding.Statement (.tlbiIpaRange fn vfs base count) := by
  intro last w h; cases h
theorem Coding.tlbiVfStage2 (fn vfs : Nat) : Coding.Statement (.tlbiVfStage2 fn vfs) := by
  intro last w h; cases h
theorem Coding.tlbiComplete (k : Nat) : Coding.Statement (.tlbiComplete k) := by
  intro last w h; cases h
theorem Coding.framecmd (fn : Nat) (value : DWord) : Coding.Statement (.framecmd fn value) := by
  intro last w h; cases h
theorem Coding.framegrpWrite (index : Nat) (value : DWord) : Coding.Statement (.framegrpWrite index value) := by
  intro last w h; cases h
theorem Coding.retry (fn id : Nat) : Coding.Statement (.retry fn id) := by
  intro last w h; cases h
theorem Coding.refuse (fn id : Nat) : Coding.Statement (.refuse fn id) := by
  intro last w h; cases h
theorem Coding.swapOut (blk : Nat) : Coding.Statement (.swapOut blk) := by
  intro last w h; cases h
theorem Coding.poolAdd (fn run : Nat) : Coding.Statement (.poolAdd fn run) := by
  intro last w h; cases h
theorem Coding.poolRemove (fn run : Nat) : Coding.Statement (.poolRemove fn run) := by
  intro last w h; cases h
theorem Coding.dumbwaiterMove (fn region : Nat) (up : Bool) : Coding.Statement (.dumbwaiterMove fn region up) := by
  intro last w h; cases h
theorem Coding.residencyRelease (queue : Nat) : Coding.Statement (.residencyRelease queue) := by
  intro last w h; cases h
theorem Coding.pageMove (vf ipa size dest : Nat) : Coding.Statement (.pageMove vf ipa size dest) := by
  intro last w h; cases h
theorem Coding.frozenFrameRelease (k : Nat) : Coding.Statement (.frozenFrameRelease k) := by
  intro last w h; cases h
theorem Coding.moved (core k : Nat) : Coding.Statement (.moved core k) := by
  intro last w h; cases h
theorem Coding.pageRetire (frame ipa dest : Nat) : Coding.Statement (.pageRetire frame ipa dest) := by
  intro last w h; cases h
theorem Coding.doorbell (fn queue : Nat) (tail : BitVec 16) : Coding.Statement (.doorbell fn queue tail) := by
  intro last w h; cases h
theorem Coding.qstatResume (fn queue : Nat) : Coding.Statement (.qstatResume fn queue) := by
  intro last w h; cases h
theorem Coding.launchHead (queue : Nat) : Coding.Statement (.launchHead queue) := by
  intro last w h; cases h
theorem Coding.spliceDecision (queue : Nat) : Coding.Statement (.spliceDecision queue) := by
  intro last w h; cases h
theorem Coding.distributorDecision : Coding.Statement (.distributorDecision) := by
  intro last w h; cases h
theorem Coding.blockRetire (blk : Nat) : Coding.Statement (.blockRetire blk) := by
  intro last w h; cases h
theorem Coding.launchComplete (queue seq : Nat) : Coding.Statement (.launchComplete queue seq) := by
  intro last w h; cases h
theorem Coding.loadreq (fn : Nat) (addr : DWord) : Coding.Statement (.loadreq fn addr) := by
  intro last w h; cases h
theorem Coding.loaderRun : Coding.Statement (.loaderRun) := by
  intro last w h; cases h
theorem Coding.icinv (fn : Nat) : Coding.Statement (.icinv fn) := by
  intro last w h; cases h
theorem Coding.preemptEstimator (fn vf first count : Nat) : Coding.Statement (.preemptEstimator fn vf first count) := by
  intro last w h; cases h
theorem Coding.preemptSave (fn vf first count : Nat) : Coding.Statement (.preemptSave fn vf first count) := by
  intro last w h; cases h
theorem Coding.preemptDrain (fn vf first count : Nat) : Coding.Statement (.preemptDrain fn vf first count) := by
  intro last w h; cases h
theorem Coding.preemptDiscard (fn vf first count : Nat) : Coding.Statement (.preemptDiscard fn vf first count) := by
  intro last w h; cases h
theorem Coding.crateWrite (blk : Nat) : Coding.Statement (.crateWrite blk) := by
  intro last w h; cases h
theorem Coding.eccDetected (blk crew : Nat) : Coding.Statement (.eccDetected blk crew) := by
  intro last w h; cases h
theorem Coding.errorClassify (blk crew : Nat) : Coding.Statement (.errorClassify blk crew) := by
  intro last w h; cases h
theorem Coding.partcfgWrite (core : Nat) (value : DWord) : Coding.Statement (.partcfgWrite core value) := by
  intro last w h; cases h
theorem Coding.worldSwitch (core part : Nat) : Coding.Statement (.worldSwitch core part) := by
  intro last w h; cases h
theorem Coding.ctrloRead (fn core part n : Nat) : Coding.Statement (.ctrloRead fn core part n) := by
  intro last w h; cases h
theorem Coding.ctrhiRead (fn core part n : Nat) : Coding.Statement (.ctrhiRead fn core part n) := by
  intro last w h; cases h
theorem Coding.scsnap (fn : Nat) (addr : DWord) : Coding.Statement (.scsnap fn addr) := by
  intro last w h; cases h
theorem Coding.traceSample (core part : Nat) : Coding.Statement (.traceSample core part) := by
  intro last w h; cases h
theorem Coding.stopBroadcast (blk crew : Nat) : Coding.Statement (.stopBroadcast blk crew) := by
  intro last w h; cases h
theorem Coding.dbgattWrite (fn : Nat) (value : DWord) : Coding.Statement (.dbgattWrite fn value) := by
  intro last w h; cases h
theorem Coding.resumeAll (fn : Nat) : Coding.Statement (.resumeAll fn) := by
  intro last w h; cases h
theorem Coding.resumeOneCrew (fn crew : Nat) : Coding.Statement (.resumeOneCrew fn crew) := by
  intro last w h; cases h
theorem Coding.step (fn crew : Nat) : Coding.Statement (.step fn crew) := by
  intro last w h; cases h
theorem Coding.stopLaunch (fn : Nat) : Coding.Statement (.stopLaunch fn) := by
  intro last w h; cases h
theorem Coding.reloadWatchpoints (fn : Nat) : Coding.Statement (.reloadWatchpoints fn) := by
  intro last w h; cases h
theorem Coding.attnonce (k : Nat) (value : DWord) : Coding.Statement (.attnonce k value) := by
  intro last w h; cases h
theorem Coding.attestationReport : Coding.Statement (.attestationReport) := by
  intro last w h; cases h
theorem Coding.maintEnter : Coding.Statement (.maintEnter) := by
  intro last w h; cases h
theorem Coding.maintEffect : Coding.Statement (.maintEffect) := by
  intro last w h; cases h
theorem Coding.maintLeave : Coding.Statement (.maintLeave) := by
  intro last w h; cases h
theorem Coding.registerWrite (fn : Nat) (reg : RegName) (index : Nat) (value : DWord) : Coding.Statement (.registerWrite fn reg index value) := by
  intro last w h; cases h
theorem Coding.hostWrite (addr : Nat) (bytes : List Byte) : Coding.Statement (.hostWrite addr bytes) := by
  intro last w h; cases h
theorem Coding.peerRequest (rvf addr op : Nat) (bytes : List Byte) : Coding.Statement (.peerRequest rvf addr op bytes) := by
  intro last w h; cases h
theorem Coding.ladderPortFailure (port : Nat) : Coding.Statement (.ladderPortFailure port) := by
  intro last w h; cases h
theorem Coding.packageUnreachable (pkg : Nat) : Coding.Statement (.packageUnreachable pkg) := by
  intro last w h; cases h
theorem Coding.reset : Coding.Statement (.reset) := by
  intro last w h; cases h
theorem Coding.fullService : Coding.Statement (.fullService) := by
  intro last w h; cases h
theorem Coding.thermalThrottle (sixteenths : Nat) : Coding.Statement (.thermalThrottle sixteenths) := by
  intro last w h; cases h
theorem Coding.thermalShutdown : Coding.Statement (.thermalShutdown) := by
  intro last w h; cases h
theorem Coding.podBarrierTraffic (launch : DWord) (pkg : Nat) : Coding.Statement (.podBarrierTraffic launch pkg) := by
  intro last w h; cases h
theorem Coding.cxlCacheSnoop (line : Nat) : Coding.Statement (.cxlCacheSnoop line) := by
  intro last w h; cases h
theorem Coding.atticLinkDown (port : Nat) : Coding.Statement (.atticLinkDown port) := by
  intro last w h; cases h

end Sys2Proof.Laws
end

