-- ==== Sys2Proof/Laws/Slots.lean ====
section
/-! SUPPORT. What the shared operations around a slot do where nothing stops it: its checks, the requests of its core, the
counters, and the running of a bundle's slots. -/

namespace Sys2Proof.Machine

theorem List.foldl_fixed {α β : Type} (f : β → α → β) (b : β) : ∀ l : List α, (∀ a ∈ l, f b a = b) → l.foldl f b = b
  | [], _ => rfl
  | a :: l, h => by rw [List.foldl_cons, h a (by simp), List.foldl_fixed f b l (fun c hc => h c (by simp [hc]))]

/-- A bundle whose checks have been made is not checked again. -/
theorem State.settle_checked {s : State} (h : s.cur.checked = true) (i : Instr) : s.settle i = s := by simp [State.settle, h]

/-- Counting nothing changes nothing. -/
@[simp] theorem State.count_zero (s : State) (core part ev arg : Nat) : s.count core part ev arg 0 = s := by simp [State.count]

/-- Counting changes the counters of one core alone. -/
theorem State.count_rest (s : State) (core part ev arg n : Nat) : { s.count core part ev arg n with cores := s.cores } = s := by
  unfold State.count
  split
  · rfl
  · generalize (s.core core).sel = l
    suffices ∀ t : State, { t with cores := s.cores } = s →
        { l.foldl (fun s e => if e.1 / 16 = part ∧ selCounts e.2 ev arg then
          s.modCore core (fun c => { c with ctr := Map.set 0 c.ctr e.1 (Map.get 0 c.ctr e.1 + BitVec.ofNat 64 n) }) else s) t
          with cores := s.cores } = s from this s rfl
    induction l with
    | nil => intro t ht; exact ht
    | cons e l ih =>
      intro t ht
      rw [List.foldl_cons]
      apply ih
      split
      · exact ht
      · exact ht

theorem State.count_mem (s : State) (core part ev arg n : Nat) : (s.count core part ev arg n).mem = s.mem := by
  have h := congrArg State.mem (State.count_rest s core part ev arg n)
  exact h

/-- No words read, no passes counted. -/
@[simp] theorem State.countPasses_nil (s : State) : s.countPasses [] = s := by
  unfold State.countPasses
  split <;> rfl

/-- With no page request noted none is posted. -/
theorem State.postHolds_nil {s : State} (h : s.cur.holds = []) : s.postHolds = s := by
  have hc : { s.cur with holds := [] } = s.cur := by rw [← h]
  unfold State.postHolds
  rw [hc, h]
  rfl

/-- What holds of a state and outlives every step of a fold holds of the fold. -/
theorem List.foldl_keeps {α β : Type} (p : β → Prop) (f : β → α → β) (hf : ∀ b a, p b → p (f b a)) :
    ∀ (l : List α) (b : β), p b → p (l.foldl f b)
  | [], _, h => h
  | a :: l, b, h => List.foldl_keeps p f hf l (f b a) (hf b a h)

/-- Counting passes changes the counters of cores alone. -/
theorem State.countPasses_rest (s : State) (names : List (Nat × Nat × Nat × Nat)) :
    { s.countPasses names with cores := s.cores } = s := by
  have conflict : ∀ (t : State) (core part row bank n : Nat), { t with cores := s.cores } = s →
      { t.conflict core part row bank n with cores := s.cores } = s := fun t core part row bank n h => by
    unfold State.conflict
    split
    · exact h
    · refine Eq.trans ?_ h
      exact congrArg (fun u : State => { u with cores := s.cores }) (State.count_rest _ _ _ _ _ _)
  have bank : ∀ (t : State) (core part row : Nat) (ws : List Nat), { t with cores := s.cores } = s →
      { t.bankPasses core part row ws with cores := s.cores } = s := fun t core part row ws h =>
    List.foldl_keeps (fun u : State => { u with cores := s.cores } = s) _ (fun u b hu => conflict u _ _ _ _ _ hu) _ _ h
  unfold State.countPasses
  split
  · rfl
  · exact List.foldl_keeps (fun u : State => { u with cores := s.cores } = s) _
      (fun u k hu => by
        split
        · exact hu
        · exact bank _ _ _ _ _ hu) _ _ rfl

/-- Counting passes leaves the step's own place as it is. -/
theorem State.countPasses_cur (s : State) (names : List (Nat × Nat × Nat × Nat)) : (s.countPasses names).cur = s.cur := by
  have h := congrArg State.cur (State.countPasses_rest s names)
  exact h

/-- A slot that passes its checks in every lane does nothing by them but count the words that a WAITA reads. -/
theorem State.settle_clear {s : State} {i : Instr} (h : s.clear i) (hc : s.cur.checked = false) :
    s.settle i = s.countPasses (s.waitaWords (s.active i.guard) i) := by
  obtain ⟨hr, hh, hv⟩ := h
  have key : (laneList (s.active i.guard)).foldl (fun t l =>
      match t.gang? with
      | none => t
      | some (b, c) => if t.cur.eset.getLsbD l then t.dispose b l (verdict t b c l i) else t) s = s :=
    List.foldl_fixed _ s _ (fun l hl => by
      cases hg : s.gang? with
      | none => rfl
      | some p =>
        obtain ⟨b, c⟩ := p
        simp [hv b c l hg ((mem_laneList _ _).1 hl), State.dispose])
  have hs : s.settleSlot i = s.countPasses (s.waitaWords (s.active i.guard) i) := by
    unfold State.settleSlot
    simp only [hr, Bool.false_eq_true, if_false]
    exact congrArg (fun t => State.countPasses t _) key
  rw [State.settle, hc, hs]
  exact State.postHolds_nil (by rw [State.countPasses_cur]; exact hh)

/-- A Loft slot that passes its checks changes nothing by them. -/
theorem State.loftSettle_clear {s : State} {i : Instr} (h : s.loftClear i) : s.loftSettle i = s := by
  obtain ⟨hr, hv⟩ := h
  unfold State.loftSettle
  split
  · rfl
  · rename_i hc
    cases hl : s.loft? with
    | none => rfl
    | some p =>
      obtain ⟨b, x⟩ := p
      have ha : s.loftActs i.guard = true := by
        simp only [Bool.or_eq_true, not_or, Bool.not_eq_true', Bool.not_eq_true] at hc
        simpa using hc.2
      simp [hv b x hl ha, State.loftDispose]

/-- No request of a list stands before one that meets a test where none does. -/
theorem upTo_none {test : Posted → Bool} : ∀ {l : List Posted}, (∀ p ∈ l, test p = false) → upTo test l = 0
  | [], _ => rfl
  | p :: l, h => by
    have hl : upTo test l = 0 := upTo_none (fun q hq => h q (List.mem_cons_of_mem _ hq))
    simp [upTo, hl, h p, bit01]

/-- Draining stops where no request of the core meets the test. -/
theorem State.drain_none {s : State} {core : Nat} {test : Posted → Bool} (h : ∀ p ∈ (s.core core).posted, test p = false) :
    s.drain core test = s := by
  unfold State.drain
  simp only [upTo_none h, List.take_zero, List.map_nil, List.length_nil, Nat.mul_zero, List.range_zero, List.foldl_nil]

/-- A bundle with no fault in it takes no trap. -/
theorem State.takeTrap_none {s : State} (h : s.cur.faults = []) : s.takeTrap = s := by
  rw [State.takeTrap, h]
  rfl

end Sys2Proof.Machine
end

