-- ==== Sys2Proof/Tests/Slice0.lean ====
section
/-! SUPPORT. The model's own tests: terms that the checks refuse, words of the spec's tables decoded, small steps against the
spec's worked examples, and for each statement with hypotheses a state and operands that meet them. -/

namespace Sys2Proof.Tests

open Sys2Proof Sys2Proof.Machine

-- one theorem at a time: each thread of the checker takes a stack of its own
set_option Elab.async false

/-! ### What the checks refuse -/

/-- A thread side with 16 v and 8 k registers, width 32. -/
def tEnv : DecodeEnv :=
  { loft := false, regs := 16, kregs := 8, width := 32, shadow := none, tiles := 0, hatch := 0, beatMul := 1, fslots := [] }
/-- A Loft side with 4 tiles in split-2. -/
def lEnv : DecodeEnv := { tEnv with loft := true, tiles := 4, beatMul := 2 }

/-- Register 16 of 16 (check 5). -/
theorem test_refuses_register : Instr.wellFormed tEnv (.iadd ⟨⟨0, 0⟩, 4, 16, 3, 0, false, 0, 0, false, false, 0⟩) = false := by decide
/-- IADC on packed elements (check 6). -/
theorem test_refuses_modifier : Instr.wellFormed tEnv (.iadc ⟨⟨0, 0⟩, 4, 2, 3, 0, false, 0, 2, false, false, 0⟩) = false := by decide
/-- IADD with a C field (check 7). -/
theorem test_refuses_unused_field : Instr.wellFormed tEnv (.iadd ⟨⟨0, 0⟩, 4, 2, 3, 1, false, 0, 0, false, false, 0⟩) = false := by decide
/-- IADD with a SUB (check 7). -/
theorem test_refuses_unused_bit : Instr.wellFormed tEnv (.iadd ⟨⟨0, 0⟩, 4, 2, 3, 0, false, 0, 0, false, false, 1⟩) = false := by decide
/-- TZERO with 15 beats in split-2, which needs 16 (check 10). -/
theorem test_refuses_beats : Instr.wellFormed lEnv (.tzero ⟨⟨0, 0⟩, 64, 0, 0, 0, 0, 14⟩) = false ∧
    Instr.wellFormed lEnv (.tzero ⟨⟨0, 0⟩, 64, 0, 0, 0, 0, 15⟩) = true := by decide
/-- Two slots of unit A (check 3), and a zero word (check 1). -/
theorem test_refuses_bundle : bundleDefect tEnv [0x0040004020300000, 0x8040004020300000] ≠ none ∧ bundleDefect tEnv [0x8000000000000000] ≠ none := by decide

/-! ### Decoding, every slot instruction once (03 R44 to R51, R57 to R61): guard c2.hi and every field distinct -/

def ra : ArgsA := ⟨⟨2, 9⟩, 0x4B, 0x31, 0x8E, 0x57, true, 2, 2, false, true, 0x16⟩
def rb : ArgsB := ⟨⟨2, 9⟩, 0x4B, 0x31, 0x8E, 0x57, true, 2, 4, true, true, false, true, true, false⟩
def rr : ArgsR := ⟨⟨2, 9⟩, 0x4B, 0x31, 0x8E, 0x57, true, 2, 0x136⟩
def ri : ArgsI := ⟨⟨2, 9⟩, 0x4B, 0x31, 0x8ABCDE5⟩
def rm : ArgsM := ⟨⟨2, 9⟩, 0x4B, 0x31, 0x8E, 5, 2, 1, 5, 0x1A3⟩
def rt : ArgsAt := ⟨⟨2, 9⟩, 0x4B, 0x31, 0x8E, 9, 1, 2, 4, true, 0x9C⟩
def rj : ArgsJ := ⟨⟨2, 9⟩, 0x4B, 0xFEDCB7, 0x55, 0xB, true⟩
def te : ArgsT := ⟨⟨2, 9⟩, 0x4B, 0x31, 0x8E, 0x57, 6, 0x137⟩
def tg : ArgsG := ⟨⟨2, 9⟩, 0x4B, 0x31, 0x8E, 3, 0x1ABCD⟩

/-- Every word decodes to the instruction beside it, and none ends its bundle. -/
def decodesAll (l : List (BitVec 64 × Instr)) : Bool :=
  l.all (fun p => !slotLast p.1 && match decodeSlot p.1 with
    | .ok i => decide (i = p.2)
    | .error _ => false)

theorem test_decode_unit_a : decodesAll [
    (0x004294B318E57D36, .iadd ra), (0x004694B318E57D36, .isub ra), (0x004A94B318E57D36, .iadc ra),
    (0x004E94B318E57D36, .isbc ra), (0x005694B318E57D36, .imul ra), (0x005A94B318E57D36, .imulh ra),
    (0x005E94B318E57D36, .imad ra), (0x006294B318E57D36, .imadw ra), (0x006694B318E57D36, .idiv ra),
    (0x006A94B318E57D36, .imin ra), (0x006E94B318E57D36, .imax ra), (0x007294B318E57D36, .iabs ra),
    (0x007694B318E57D36, .idp4 ra), (0x007A94B318E57D36, .isad ra), (0x008294B318E57D36, .and ra),
    (0x008694B318E57D36, .or ra), (0x008A94B318E57D36, .xor ra), (0x008E94B318E57D36, .andn ra),
    (0x00C294B318E57D36, .shl ra), (0x00C694B318E57D36, .shr ra), (0x00CA94B318E57D36, .sar ra),
    (0x00CE94B318E57D36, .rot ra), (0x00DA94B318E57D36, .bfx ra), (0x00DE94B318E57D36, .bfi ra),
    (0x00E294B318E57D36, .popc ra), (0x00E694B318E57D36, .clz ra), (0x00EA94B318E57D36, .brev ra),
    (0x00EE94B318E57D36, .prmt ra), (0x010294B318E57D36, .icmp ra), (0x010A94B318E57D36, .itst ra),
    (0x011294B318E57D36, .mov ra), (0x011E94B318E57D36, .lea ra), (0x012294B318E57D36, .ccrd ra),
    (0x012694B318E57D36, .ccwr ra), (0x014294B318E57D36, .shfl ra), (0x014694B318E57D36, .vote ra),
    (0x014A94B318E57D36, .matchL ra), (0x009294B318E57D36, .lop3 rr), (0x00D294B318E57D36, .shf rr),
    (0x010E94B318E57D36, .sel rr), (0x005294B318ABCDE5, .iaddi ri), (0x009694B318ABCDE5, .andi ri),
    (0x009A94B318ABCDE5, .ori ri), (0x009E94B318ABCDE5, .xori ri), (0x010694B318ABCDE5, .icmpi ri),
    (0x011694B318ABCDE5, .li ri), (0x011A94B318ABCDE5, .lih ri)] = true := by decide

theorem test_decode_unit_b : decodesAll [
    (0x104294B318E57D36, .fadd rb), (0x104694B318E57D36, .fsub rb), (0x104A94B318E57D36, .fmul rb),
    (0x104E94B318E57D36, .ffma rb), (0x105294B318E57D36, .fmin rb), (0x105694B318E57D36, .fmax rb),
    (0x105A94B318E57D36, .fcmp rb), (0x105E94B318E57D36, .frnd rb), (0x106694B318E57D36, .fdp2 rb),
    (0x108294B318E57D36, .dadd rb), (0x108694B318E57D36, .dmul rb), (0x108A94B318E57D36, .dfma rb),
    (0x108E94B318E57D36, .dcmp rb), (0x10A294B318E57D36, .hadd2 rb), (0x10A694B318E57D36, .hmul2 rb),
    (0x10AA94B318E57D36, .hfma2 rb), (0x10AE94B318E57D36, .hmin2 rb), (0x10B294B318E57D36, .hmax2 rb),
    (0x110294B318E57D36, .rcp rb), (0x110694B318E57D36, .rsq rb), (0x110A94B318E57D36, .sqrt rb),
    (0x110E94B318E57D36, .ex2 rb), (0x111294B318E57D36, .lg2 rb), (0x111694B318E57D36, .sin rb),
    (0x111A94B318E57D36, .cos rb), (0x111E94B318E57D36, .tanh rb), (0x10C294B318E57D36, .f2i rr),
    (0x10C694B318E57D36, .i2f rr), (0x10CA94B318E57D36, .fcvt rr), (0x10CE94B318E57D36, .f2n rr),
    (0x10D294B318E57D36, .n2f rr), (0x114294B318E57D36, .redPush rr), (0x114694B318E57D36, .redMov rr),
    (0x114A94B318E57D36, .redClr rr), (0x118294B318E57D36, .chk rr)] = true := by decide

theorem test_decode_unit_m : decodesAll [
    (0x204294B318E59BA3, .ldG rm), (0x204694B318E59BA3, .stG rm), (0x204A94B318E59BA3, .ldS rm),
    (0x204E94B318E59BA3, .stS rm), (0x205294B318E59BA3, .ldC rm), (0x205694B318E59BA3, .stC rm),
    (0x205A94B318E59BA3, .ldL rm), (0x205E94B318E59BA3, .stL rm), (0x206294B318E59BA3, .ldQ rm),
    (0x206694B318E59BA3, .stQ rm), (0x20A294B318E59BA3, .waita rm), (0x20C294B318E59BA3, .tagr rm),
    (0x20C694B318E59BA3, .tagw rm), (0x20CA94B318E59BA3, .pref rm), (0x208294B318E9699C, .atomS rt),
    (0x208694B318E9699C, .casS rt)] = true := by decide

theorem test_decode_unit_c : decodesAll [
    (0x304294BFEDCB7AB7, .bra rj), (0x304A94BFEDCB7AB7, .call rj), (0x30A294B318E9699C, .atomH rt),
    (0x30A694B318E9699C, .redH rt), (0x30AA94B318E9699C, .casH rt), (0x304694B318E57D36, .brx rr),
    (0x304E94B318E57D36, .callx rr), (0x305294B318E57D36, .ret rr), (0x305694B318E57D36, .exit rr),
    (0x306294B318E57D36, .join rr), (0x306694B318E57D36, .leave rr), (0x306A94B318E57D36, .waitm rr),
    (0x306E94B318E57D36, .mset rr), (0x307294B318E57D36, .mop rr), (0x307694B318E57D36, .mrd rr),
    (0x307A94B318E57D36, .mwr rr), (0x308294B318E57D36, .bar rr), (0x308694B318E57D36, .sbar rr),
    (0x308A94B318E57D36, .fence rr), (0x30C294B318E57D36, .cp rr), (0x30CA94B318E57D36, .lop rr),
    (0x30E294B318E57D36, .hatch rr), (0x30E694B318E57D36, .safept rr), (0x30EA94B318E57D36, .shelf rr),
    (0x30EE94B318E57D36, .launch rr), (0x310294B318E57D36, .trap rr), (0x310694B318E57D36, .bkpt rr),
    (0x310A94B318E57D36, .yield rr), (0x310E94B318E57D36, .gts rr), (0x311294B318E57D36, .cnt rr),
    (0x311694B318E57D36, .evt rr), (0x311A94B318E57D36, .nsleep rr)] = true := by decide

theorem test_decode_unit_q : decodesAll [
    (0x404294B318E57D36, .qadd rr), (0x404694B318E57D36, .qsub rr), (0x404A94B318E57D36, .qmul rr),
    (0x405294B318E57D36, .qshl rr), (0x405694B318E57D36, .qand rr), (0x405A94B318E57D36, .qcmp rr),
    (0x405E94B318E57D36, .qmov rr), (0x408E94B318E57D36, .qwait rr), (0x409294B318E57D36, .qsig rr),
    (0x409694B318E57D36, .unhatch rr), (0x409A94B318E57D36, .tresume rr), (0x409E94B318E57D36, .qsafe rr),
    (0x40A294B318E57D36, .tfence rr), (0x404E94B318ABCDE5, .qli ri), (0x408294BFEDCB7AB7, .qbra rj),
    (0x408694BFEDCB7AB7, .qloop rj)] = true := by decide

theorem test_decode_unit_x : decodesAll [
    (0x504294B318E57D37, .tld te), (0x504694B318E57D37, .tst te), (0x504A94B318E57D37, .tcp te),
    (0x504E94B318E57D37, .txp te), (0x505294B318E57D37, .tgat te), (0x505694B318E57D37, .tfill te),
    (0x505A94B318E57D37, .tzero te)] = true := by decide

theorem test_decode_unit_t : decodesAll [
    (0x604294B318E57D37, .tmma te), (0x604A94B318E7ABCD, .tgemm tg)] = true := by decide

theorem test_decode_unit_v : decodesAll [
    (0x704294B318E57D37, .tadd te), (0x704694B318E57D37, .tmul te), (0x704A94B318E57D37, .tfma te),
    (0x704E94B318E57D37, .tmax te), (0x705294B318E57D37, .tact te), (0x705694B318E57D37, .tscale te),
    (0x705A94B318E57D37, .tred te), (0x705E94B318E57D37, .tamax te), (0x706294B318E57D37, .tminmax te),
    (0x706694B318E57D37, .tqnt te), (0x706A94B318E57D37, .tdqt te), (0x706E94B318E57D37, .tcvt te),
    (0x707294B318E57D37, .topt te)] = true := by decide
/-! ### One step on small states -/

/-- Threads of crew 0 from lane 0 on, each with its v registers given, standing at a bundle of one slot. -/
def crewOf (vs : List (Map Word)) (k : Map Word) : CrewCore :=
  { threads := (indexed vs).map (fun e => (e.1, { pc := BitVec.ofNat 64 placedAt, v := e.2 })), k := k }

/-- A state in which a crew with those registers executes a slot: nothing else is under way. -/
def gang (vs : List (Map Word)) (k : Map Word := []) (record : BitVec 1024 := placedRecord) : State :=
  let s := State.reset.withWord 0
  let p := crewOf vs k
  let m := lanesOf (List.range vs.length)
  { s with
    blocks := [(1, { placedBlock false 0 with record := record, crews := [(0, { core := p, checkpoint := p, paths := [m] })] })],
    cur := { blk := 1, lanes := m, eset := m, pc := BitVec.ofNat 64 placedAt, npc := BitVec.ofNat 64 (placedAt + 8), units := [0] },
    pre := p }

/-- A register of a lane after an instruction; the machine goes on. -/
def vAfter (s : State) (i : Instr) (l r : Nat) : Option Word :=
  match exec i s with
  | .next t => (t.gang?.map (fun p => p.2.core.vreg l r))
  | _ => none

/-- A cc register of a lane after an instruction. -/
def ccAfter (s : State) (i : Instr) (l r : Nat) : Option Flags :=
  match exec i s with
  | .next t => (t.gang?.map (fun p => p.2.core.ccOf l r))
  | _ => none

/-- 05 R107: 0xFFFFFFFF + 1 is 0 with Z and C. -/
theorem test_iadd_carry :
    let s := gang [[(2, 0xFFFFFFFF), (3, 1)]]
    let i := Instr.iadd ⟨⟨0, 0⟩, 4, 2, 3, 0, true, 1, 0, false, false, 0⟩
    vAfter s i 0 4 = some 0 ∧ ccAfter s i 0 1 = some 0b0110#4 := by decide

/-- 05's 128-bit addition: the low words wrap with C, the high words take it. -/
theorem test_iadd_iadc_wide :
    let v : Map Word := [(0, 0xFFFFFFFF), (1, 0xFFFFFFFF), (2, 1), (4, 1)]
    let a := Instr.iadd ⟨⟨0, 0⟩, 8, 0, 4, 0, true, 1, 1, false, false, 0⟩
    let b := Instr.iadc ⟨⟨0, 0⟩, 10, 2, 6, 0, true, 1, 1, false, false, 0⟩
    let s := gang [v]
    vAfter s a 0 9 = some 0 ∧ ccAfter s a 0 1 = some 0b0110#4 ∧
      (match exec a s with
        | .next t => (match t.gang? with
          | some (_, c) => decide (vAfter { t with pre := c.core } b 0 10 = some 2) && decide (vAfter { t with pre := c.core } b 0 11 = some 0)
              && decide (ccAfter { t with pre := c.core } b 0 1 = some 0#4)
          | none => false)
        | _ => false) = true := by decide +kernel

/-- 05 R114: -2^31 / -1 wraps, and its remainder is 0; 7 / 0 signed is -1. -/
theorem test_idiv_corners :
    vAfter (gang [[(2, 0x80000000), (3, 0xFFFFFFFF)]]) (.idiv ⟨⟨0, 0⟩, 4, 2, 3, 0, false, 0, 0, true, false, 0⟩) 0 4 = some 0x80000000 ∧
    vAfter (gang [[(4, 1), (2, 0x80000000), (3, 0xFFFFFFFF)]]) (.idiv ⟨⟨0, 0⟩, 4, 2, 3, 0, false, 0, 0, true, false, 1⟩) 0 4 = some 0 ∧
    vAfter (gang [[(2, 7)]]) (.idiv ⟨⟨0, 0⟩, 4, 2, 3, 0, false, 0, 0, true, false, 0⟩) 0 4 = some 0xFFFFFFFF := by decide +kernel

/-- 05 R117: LOP3 0xE8 is the majority. -/
theorem test_lop3_majority :
    vAfter (gang [[(1, 0b1100), (2, 0b1010), (3, 0b0110)]]) (.lop3 ⟨⟨0, 0⟩, 4, 1, 2, 3, false, 0, 0xE8⟩) 0 4 = some 0b1110 := by decide +kernel

/-- 05 R118: SAR by more than the width of a negative number is -1. -/
theorem test_sar_past_width :
    vAfter (gang [[(1, 0x80000000), (2, 40)]]) (.sar ⟨⟨0, 0⟩, 4, 1, 2, 0, false, 0, 0, false, false, 0⟩) 0 4 = some 0xFFFFFFFF := by decide +kernel

/-- 05's borderline SHFL.DOWN at width 8: lane 2's partner fails its guard, lane 7's lies outside the segment. -/
theorem test_shfl_down :
    let lane := fun (l : Nat) => ([(4, BitVec.ofNat 32 (10 * l)), (6, 1)] : Map Word)
    let s := gang ((List.range 8).map lane) [] (placedRecord)
    let core : CrewCore := { s.pre with threads := Map.mapVals (fun l t => if l = 3 then { t with cc := [(0, 0b0100#4)] } else t) s.pre.threads }
    let hdr : BitVec 1024 := BitVec.ofNat 1024 (placedHeader.toNat - 32 * 2 ^ 272 + 8 * 2 ^ 272)
    let s := { s with pre := core, blocks := [(1, { placedBlock false 0 with header := hdr, crews := [(0, { core := core })] })] }
    let i := Instr.shfl ⟨⟨0, 2⟩, 5, 4, 6, 240, true, 1, 0, false, false, 2⟩
    (List.range 8).map (fun l => vAfter s i l 5) = [some 10, some 20, some 20, some 0, some 50, some 60, some 70, some 70] ∧
      [1, 2, 7].map (fun l => (ccAfter s i l 1).map flagC) = [some true, some false, some false] := by decide +kernel

/-- 06's narrowing: 500.0 and -2^-11 to E4M3, saturating and underflowing. -/
theorem test_f2n_saturates :
    let r : BitVec 1024 := BitVec.ofNat 1024 (placedRecord.toNat + 0x3300000000000000 * 2 ^ (512 + 64 * 2))
    let s := gang [[(4, 0x43FA0000), (5, 0xBA000000)]] [] r
    let i := Instr.f2n ⟨⟨0, 0⟩, 6, 4, 5, 0, true, 1, 0x10⟩
    recSlot r 2 = 0x3300000000000000 ∧ vAfter s i 0 6 = some 0x807E ∧ ccAfter s i 0 1 = some 1#4 := by decide +kernel

/-- 06 R138: 2^24 + 1 rounds to even; R134: 1 - 1 is -0 toward minus infinity. -/
theorem test_fadd_rounds :
    vAfter (gang [[(1, 0x4B800000), (2, 0x3F800000)]]) (.fadd ⟨⟨0, 0⟩, 3, 1, 2, 0, false, 0, 0, false, false, false, false, false, false⟩) 0 3
      = some 0x4B800000 ∧
    vAfter (gang [[(1, 0x3F800000), (2, 0x3F800000)]]) (.fsub ⟨⟨0, 0⟩, 3, 1, 2, 0, false, 0, 3, false, false, false, false, false, false⟩) 0 3
      = some 0x80000000 := by decide +kernel

/-- 06 R145: F2I of 2^31 to a signed target saturates. -/
theorem test_f2i_saturates :
    vAfter (gang [[(1, 0x4F000000)]]) (.f2i ⟨⟨0, 0⟩, 2, 1, 0, 0, false, 0, 0x20⟩) 0 2 = some 0x7FFFFFFF := by decide +kernel

/-- 07's aggregated histogram: groups in lane order return the values they found, and lane 7 makes no access. -/
theorem test_atom_s_groups :
    let at_ := [0x40, 0x44, 0x40, 0x80, 0x40, 0x44, 0x40, 0xC0]
    let s := gang (at_.map (fun a => [(4, BitVec.ofNat 32 a), (7, 1)]))
    let core : CrewCore := { s.pre with threads := Map.mapVals (fun l t => if l = 7 then { t with cc := [(0, 0b0100#4)] } else t) s.pre.threads }
    let s := { s with pre := core, blocks := [(1, { placedBlock false 0 with scratch := [(0x40, 10), (0x44, 3)], crews := [(0, { core := core })] })] }
    let i := Instr.atomS ⟨⟨0, 2⟩, 7, 4, 240, 0, 0, 0, 0, false, 0⟩
    (List.range 8).map (fun l => vAfter s i l 7) = [some 10, some 3, some 11, some 0, some 12, some 4, some 13, some 1] ∧
      (match exec i s with
        | .next t => (t.block? 1).map (fun b => b.scratch)
        | _ => none) = some [(0x40, 14), (0x44, 5), (0x80, 1)] := by decide +kernel

/-- 16 R382: TRAP 5 faults its lane with 0x1E5, and the block is killed at the end of the bundle. -/
theorem test_trap_kills :
    (match exec (.trap ⟨⟨0, 0⟩, 0, 0, 0, 0, false, 0, 5⟩) (gang [[]]) with
      | .next t => (t.cur.faults.map LaneFault.cause, (t.takeTrap.block? 1).map Block.killed)
      | _ => ([], none)) = ([0x1E5], some true) := by decide +kernel

/-- 04's worked branch: offset 3 from 0x018 goes to 0x030. -/
theorem test_bra_target :
    (match exec (.bra ⟨⟨0, 0⟩, 0, 3, 0, 1, false⟩) (gang [[]]) with
      | .next t => t.gang?.map (fun p => (p.2.thread 0).pc)
      | _ => none) = some (BitVec.ofNat 64 (placedAt + 24)) := by decide +kernel

/-- A step from reset with one word placed: LI's thread has its value and stands at the next bundle (05 R124; 03 R42). -/
theorem test_step_li :
    (match step (State.reset.withFetchWord 64 0x8114004000000FFF) with
      | .next t => (t.crew? 1 0).map (fun p => (p.2.core.vreg 0 4, (p.2.thread 0).pc))
      | _ => none) = some (0xFFF#32, BitVec.ofNat 64 (placedAt + 8)) := by decide +kernel

/-- A zero word traps with ILLEGAL_OPCODE (03 R56): the step goes on, and the block is killed. -/
theorem test_step_zero_word :
    (match step (State.reset.withFetchWord 64 0) with
      | .next t => (t.block? 1).map (fun b => (b.killed, b.killCause))
      | _ => none) = some (true, 0x001) := by decide +kernel

/-! ### Witnesses: for each statement with hypotheses, a state and operands that meet them, and each of its clauses -/

theorem clear_of {s : State} {i : Instr} {b : Block} {c : Crew} (h : s.gang? = some (b, c)) (hr : s.cur.replay = false)
    (hv : (laneList (s.active i.guard)).all (fun l => decide (verdict s b c l i = .ok)) = true) (hh : s.cur.holds = [] := by rfl) : s.clear i := by
  refine ⟨hr, hh, fun b' c' l h' hl => ?_⟩
  rw [h] at h'
  cases h'
  exact of_decide_eq_true (List.all_eq_true.1 hv l ((mem_laneList _ _).2 hl))

theorem unread_of {s : State} (h : s.blocks.all (fun e => e.2.crews.all (fun w => decide (w.2.fences = []))) = true) (k line : Nat) :
    s.unread k line := by
  intro e he _ w hw f hf
  rw [of_decide_eq_true (List.all_eq_true.1 (List.all_eq_true.1 h e he) w hw)] at hf
  exact absurd hf (by simp)

theorem loftClear_of {s : State} {i : Instr} {b : Block} {x : LoftCtx} (h : s.loft? = some (b, x)) (hr : s.cur.replay = false)
    (hv : loftVerdict s b x i = .ok) : s.loftClear i := by
  refine ⟨hr, fun b' x' h' _ => ?_⟩
  rw [h] at h'
  cases h'
  exact hv

/-- The plain guard. -/
abbrev al : Guard := ⟨0, 0⟩
/-- One lane, with the placed page's address in v2:v3. -/
def g1 : State := gang [[(2, 0x10E000), (4, 1)]]

theorem witness_DecodeOfEncode :
    encodeSlot true (.iadd ⟨al, 4, 2, 3, 0, false, 0, 0, false, false, 0⟩) = some 0x8040004020300000 ∧
    Instr.wellFormed tEnv (.iadd ⟨al, 4, 2, 3, 0, false, 0, 0, false, false, 0⟩) = true ∧
    decide (4 ≤ slotUnit 0x8040004020300000) = tEnv.loft ∧
    portMask [((Instr.iadd ⟨al, 4, 2, 3, 0, false, 0, 0, false, false, 0⟩).sig tEnv).reads] = 0 ∧
    encodeSlot true (.tzero ⟨al, 64, 0, 0, 0, 0, 15⟩) = some 0xD05804000000000F ∧
    Instr.wellFormed lEnv (.tzero ⟨al, 64, 0, 0, 0, 0, 15⟩) = true ∧ decide (4 ≤ slotUnit 0xD05804000000000F) = lEnv.loft ∧
    portMask [((Instr.tzero ⟨al, 64, 0, 0, 0, 0, 15⟩).sig lEnv).reads] = 0 := by decide

theorem witness_EncodeOfDecode : decodeSlot 0x8040004020300000 = .ok (.iadd ⟨al, 4, 2, 3, 0, false, 0, 0, false, false, 0⟩) := rfl

theorem witness_ElementArithmetic : (∃ b c, g1.gang? = some (b, c)) ∧ (1 : BitVec 2).toNat ≤ 1 ∧ ¬ (3 : BitVec 2).toNat ≤ 1 :=
  ⟨⟨_, _, rfl⟩, by decide, by decide⟩
theorem witness_ExactThenFitted : ∃ b c, g1.gang? = some (b, c) := ⟨_, _, rfl⟩
/-- A zero divisor, the least number by -1, and the least number by 1. -/
theorem witness_Division : (∃ b c, g1.gang? = some (b, c)) ∧ elem 0 0 32 true = 0 ∧ elem 0x80000000 0 32 true = -(2 ^ 31 : Nat) ∧
    elem 0xFFFFFFFF 0 32 true = -1 ∧ elem 1 0 32 true ≠ 0 ∧ elem 1 0 32 true ≠ -1 := ⟨⟨_, _, rfl⟩, by decide⟩
theorem witness_Logic : (∃ b c, g1.gang? = some (b, c)) ∧ (1 : BitVec 2).toNat ≤ 1 := ⟨⟨_, _, rfl⟩, by decide⟩
theorem witness_Shifts : (∃ b c, g1.gang? = some (b, c)) ∧ (1 : BitVec 2).toNat ≤ 1 := ⟨⟨_, _, rfl⟩, by decide⟩
theorem witness_FieldsAndCounts : (∃ b c, g1.gang? = some (b, c)) ∧ (1 : BitVec 2).toNat ≤ 1 := ⟨⟨_, _, rfl⟩, by decide⟩
theorem witness_CompareAndSelect : (∃ b c, g1.gang? = some (b, c)) ∧ (1 : BitVec 2).toNat ≤ 1 := ⟨⟨_, _, rfl⟩, by decide⟩
theorem witness_MovesAndCarries : (∃ b c, g1.gang? = some (b, c)) ∧ (1 : BitVec 2).toNat ≤ 1 := ⟨⟨_, _, rfl⟩, by decide⟩

/-- A lane that executes; a segment width that is a power of two up to the crew's width, at 32, and one that is not, 0; a partner in
the executing set, and one that is not. -/
theorem witness_CrewOperations : ∃ b c, g1.gang? = some (b, c) ∧ (g1.active al).getLsbD 0 = true ∧ b.width = 32 ∧
    (∃ k, 32 = 2 ^ k) ∧ 32 ≤ b.width ∧ ¬ (∃ k, 0 = 2 ^ k) ∧ (g1.setOf al false 32 0).getLsbD 0 = true ∧
    (g1.setOf al false 32 0).getLsbD 1 = false :=
  ⟨_, _, rfl, by decide +kernel, by decide +kernel, ⟨5, rfl⟩, by decide +kernel, fun ⟨k, h⟩ => absurd h (Nat.ne_of_lt (Nat.two_pow_pos k)),
    by decide +kernel, by decide +kernel⟩

theorem witness_RoundingToANeighbour : fp64 ∈ [fp64, fp32, fp16, bf16, e4m3, e5m2, e3m2, e2m3, e2m1] ∧
    e2m1 ∈ [fp64, fp32, fp16, bf16, e4m3, e5m2, e3m2, e2m3, e2m1] ∧ 0 < 1 ∧ 2 ^ 32 - 1 < 2 ^ 32 := by decide

/-- Finite factors; infinities; 0 by infinity; a NaN; infinities of both signs, of one; exact zeros of one sign and of both. -/
theorem witness_ExactProductsAndSums :
    (Val.fin true 1 2 = .fin true 1 2 ∧ Val.inf true = .inf true ∧ Val.fin false 0 1 = .fin false 0 1) ∧ Val.nan ∈ [Val.nan] ∧
    (Val.inf true ∈ [Val.inf true, .inf false] ∧ Val.inf false ∈ [Val.inf true, .inf false]) ∧
    (Val.nan ∉ [Val.inf true] ∧ Val.inf true ∈ [Val.inf true] ∧ Val.inf (!true) ∉ [Val.inf true]) ∧
    (∀ t ∈ [Val.fin true 0 1, .fin false 0 1], ∃ s n d, t = .fin s n d ∧ 0 < d) ∧ [Val.fin true 0 1] ≠ [] ∧ [Val.fin true 0 1, .fin false 0 1] ≠ [] := by
  refine ⟨by decide, by decide, by decide, by decide, ?_, by decide, by decide⟩
  intro t ht
  simp only [List.mem_cons, List.not_mem_nil, or_false] at ht
  rcases ht with rfl | rfl
  · exact ⟨_, _, _, rfl, by decide⟩
  · exact ⟨_, _, _, rfl, by decide⟩

theorem witness_FloatArithmetic : ∃ b c, g1.gang? = some (b, c) := ⟨_, _, rfl⟩
/-- FRND's operand a NaN, an infinity, and a finite number just below 2^23. -/
theorem witness_FloatSelections : (∃ b c, g1.gang? = some (b, c)) ∧ fp32.decode 0x7FC00000 = .nan ∧ fp32.decode 0xFF800000 = .inf true ∧
    ∃ k d, fp32.decode 0x4AFFFFFF = .fin false k d ∧ k < 2 ^ 23 * d := ⟨⟨_, _, rfl⟩, by decide +kernel, by decide +kernel, _, _, rfl, by decide +kernel⟩
theorem witness_FloatComparison : (∃ b c, g1.gang? = some (b, c)) ∧ 15 < 16 := ⟨⟨_, _, rfl⟩, by decide⟩
theorem witness_SpecialFunctions : ∃ b c, g1.gang? = some (b, c) := ⟨_, _, rfl⟩
theorem witness_Conversions : (∃ b c, g1.gang? = some (b, c)) ∧ fp32.decode 0x7FC00000 = .nan ∧ fp32.decode 0x7F800000 = .inf false ∧
    ∃ n k d, fp32.decode 0x4F000000 = .fin n k d := ⟨⟨_, _, rfl⟩, by decide +kernel, by decide +kernel, _, _, _, rfl⟩

/-- A record whose format slot 2 is E4M3 for both kinds, and one whose slot 0 is FP32: the checks pass for the first alone. -/
def g2 : State := gang [[(4, 0x43FA0000)]] [] (BitVec.ofNat 1024 (placedRecord.toNat + 0x3300000000000000 * 2 ^ (512 + 64 * 2)))
theorem witness_NarrowConversions : (∃ b c, g2.gang? = some (b, c) ∧ (slotOf (recSlot b.record 2)).valid = true ∧
      (slotOf (recSlot b.record 2)).ak ∈ [3, 4, 5, 6, 7, 9, 11] ∧ (slotOf (recSlot b.record 0)).ak ∉ [3, 4, 5, 6, 7, 9, 11]) ∧
    (slotOf 0xFFFFFFFFFFFFFFFF).valid = false ∧ g2.clear (.f2n ⟨al, 6, 4, 5, 0, true, 1, 0x10⟩) ∧ g2.clear (.n2f ⟨al, 8, 6, 0, 0, false, 0, 0x50⟩) ∧
    fp32.decode 0x7FC00000 = .nan ∧ fp32.decode 0x7F800000 = .inf false ∧ ∃ n k d, fp32.decode 0x43FA0000 = .fin n k d :=
  ⟨⟨_, _, rfl, by decide +kernel, by decide +kernel, by decide +kernel⟩, by decide +kernel, clear_of (b := _) (c := _) rfl rfl (by decide +kernel),
    clear_of (b := _) (c := _) rfl rfl (by decide +kernel), by decide +kernel, by decide +kernel, _, _, _, rfl⟩

theorem witness_SumLatches : (∃ b c, g1.gang? = some (b, c)) ∧ g1.active al ≠ 0 ∧ fp32.decode 0x7FC00000 = .nan ∧
    fp32.decode 0x3F800000 ≠ .nan := ⟨⟨_, _, rfl⟩, by decide +kernel, by decide +kernel, by decide +kernel⟩

/-- CHK where the lane agrees, v2 with v2, and where it does not, v2 with v4. -/
theorem witness_CheckRegisters : ∃ b c, g1.gang? = some (b, c) ∧ g1.cur.checked = false ∧ g1.cur.holds = [] ∧ (g1.active al).getLsbD 0 = true ∧
    g1.src false 2 0 = g1.src false 2 0 ∧ g1.src false 2 0 ≠ g1.src false 4 0 ∧ g1.cur.rolled = false ∧ c.fences = [] ∧
    (g1.core b.core).posted = [] ∧ c.ckLanes = 0 ∧ c.rerun = none :=
  ⟨_, _, rfl, rfl, rfl, by decide +kernel, rfl, by decide +kernel, rfl, rfl, rfl, rfl, rfl⟩

/-! Memory of a thread and of a block: lane 0 at offset 60, the last word of its 64-byte cubby. -/

def g3 : State := gang [[(2, 0x10E000), (4, 60), (5, 7)]]
theorem witness_CubbyAccesses : (∃ b c, g3.gang? = some (b, c)) ∧ g3.clear (.ldC ⟨al, 6, 4, 240, 4, 0, 0, 0, 0⟩) ∧
    g3.clear (.stC ⟨al, 5, 4, 240, 4, 0, 0, 0, 0⟩) ∧ (g3.active al).getLsbD 0 = true ∧ g3.smallAddr 4 240 0 0 4 0 = some 60 :=
  ⟨⟨_, _, rfl⟩, clear_of (b := _) (c := _) rfl rfl (by decide +kernel), clear_of (b := _) (c := _) rfl rfl (by decide +kernel), by decide +kernel,
    by decide +kernel⟩

/-- A crew whose core's block is one of a quad team of one, at rank 0. -/
def g4 : State := gang [[(2, 0x10E000), (4, 28), (5, 7)]] [] (BitVec.ofNat 1024 (placedRecord.toNat + 2 ^ 239))
theorem noPosts (k : Nat) (q : Posted → Prop) : ∀ p ∈ (g4.core k).posted, q p := by
  intro p hp
  have h : (g4.core k).posted = [] := by
    by_cases hk : k = 0
    · subst hk; rfl
    · simp [State.core, Map.find?, g4, gang, State.withWord, Ne.symm hk]
  rw [h] at hp
  exact absurd hp (by simp)

theorem witness_ScratchpadLoads : ∃ b c, g4.gang? = some (b, c) ∧ (∀ p ∈ (g4.core b.core).posted, ∀ k bs, p.op ≠ .scratch k bs) ∧ g4.uncopied b.core ∧
    g4.clear (.ldS ⟨al, 6, 4, 240, 4, 0, 0, 0, 0⟩) ∧ g4.clear (.ldQ ⟨al, 6, 4, 240, 4, 0, 1, 3, 0⟩) ∧ (g4.active al).getLsbD 0 = true ∧
    g4.smallAddr 4 240 0 0 4 0 = some 28 ∧ g4.scratchTarget 1 b false 28 = .inr (1, 4096, 28) ∧ g4.scratchTarget 1 b true 28 = .inr (1, 4096, 28) ∧
    (g4.block? 1).isSome = true :=
  ⟨_, _, rfl, noPosts _ _, ⟨rfl, rfl⟩, clear_of (b := _) (c := _) rfl rfl (by decide +kernel), clear_of (b := _) (c := _) rfl rfl (by decide +kernel), by decide +kernel,
    by decide +kernel, by decide +kernel, by decide +kernel, rfl⟩

/-- A plain store, and a release by one lane. -/
theorem witness_ScratchpadStores : ∃ b c, g4.gang? = some (b, c) ∧ (∀ p ∈ (g4.core b.core).posted, ∀ k bs, p.op ≠ .scratch k bs) ∧ g4.uncopied b.core ∧
    g4.clear (.stS ⟨al, 5, 4, 240, 4, 0, 0, 0, 0⟩) ∧ g4.clear (.stQ ⟨al, 5, 4, 240, 4, 0, 1, 3, 0⟩) ∧ (0 : BitVec 2) ≠ 1 ∧
    (∀ l, (g4.active al).getLsbD l = true → c.fencesOf l = []) ∧ onlyLane (g4.active al) 0 ∧ g4.smallAddr 4 240 0 0 4 0 = some 28 ∧
    g4.scratchTarget 1 b true 28 = .inr (1, 4096, 28) ∧ (g4.block? 1).isSome = true :=
  ⟨_, _, rfl, noPosts _ _, ⟨rfl, rfl⟩, clear_of (b := _) (c := _) rfl rfl (by decide +kernel), clear_of (b := _) (c := _) rfl rfl (by decide +kernel), by decide,
    fun _ _ => rfl, ⟨by decide, by decide +kernel⟩, by decide +kernel, by decide +kernel, rfl⟩

/-- The same crew with a page of the Larder beside its own, and a page with tags. -/
def larderPage : TlbEntry := { placedEntry with vpn := 0x10F, ipn := 0x10F, ppn := 0x10F, larder := true }
def tagPage : TlbEntry := { placedEntry with vpn := 0x110, ipn := 0x110, ppn := 0x110, tg := true }
def g5 : State :=
  let s := gang [[(2, 0x10E000), (5, 7), (6, 0x10F040), (8, 0x110000)]]
  { s with cores := [(0, { s.core 0 with utlb := [placedEntry, larderPage, tagPage] })] }

theorem witness_GlobalLoads : ∃ b c, g5.gang? = some (b, c) ∧ onlyLane (g5.active al) 0 ∧
    translate g5 b.tctx (g5.wideAddr 2 240 0 0 4 0) 0 = .ok 0x10E000 placedEntry [] ∧ (g5.core b.core).posted = [] ∧
    ((g5.core b.core).l1Of b.part).length < 4096 / modeParts (g5.mode b.core) ∧
    g5.clear (.ldG ⟨al, 10, 2, 240, 4, 0, 0, 0, 0⟩) ∧ g5.clear (.ldL ⟨al, 10, 6, 240, 4, 0, 2, 4, 0⟩) ∧ (placedEntry.larder || false || c.specWide 0) = false :=
  ⟨_, _, rfl, ⟨by decide, by decide +kernel⟩, by decide +kernel, rfl, by decide +kernel, clear_of (b := _) (c := _) rfl rfl (by decide +kernel),
    clear_of (b := _) (c := _) rfl rfl (by decide +kernel), by decide +kernel⟩

theorem witness_GlobalStores : ∃ b c, g5.gang? = some (b, c) ∧ g5.uncopied b.core ∧ g5.unread b.core (g5.memKey 0x10E000 / 64) ∧ onlyLane (g5.active al) 0 ∧ g5.clear (.stG ⟨al, 5, 2, 240, 4, 0, 0, 0, 0⟩) ∧
    g5.clear (.stL ⟨al, 5, 6, 240, 4, 0, 0, 0, 0⟩) ∧ translate g5 b.tctx (g5.wideAddr 2 240 0 0 4 0) 1 = .ok 0x10E000 placedEntry [] ∧
    ({ g5 with cur := { g5.cur with checked := true } }).cur.checked = true :=
  ⟨_, _, rfl, ⟨rfl, rfl⟩, unread_of (by decide +kernel) _ _, ⟨by decide, by decide +kernel⟩,
    clear_of (b := _) (c := _) rfl rfl (by decide +kernel), clear_of (b := _) (c := _) rfl rfl (by decide +kernel), by decide +kernel, rfl⟩

/-- A group of two lanes of one half at one word; atomics 10, 11 and 12 stand at the clauses' edges. -/
def g6 : State := gang [[(4, 28), (5, 7), (6, 3)], [(4, 28), (5, 8), (6, 3)]]
theorem witness_LocalAtomics : ∃ b c y, g6.gang? = some (b, c) ∧ g6.block? 1 = some y ∧ (g6.core b.core).posted = [] ∧ g6.uncopied b.core ∧
    (∀ l ∈ laneList (g6.active al), ∀ l' ∈ laneList (g6.active al), l / 32 = l' / 32) ∧ g6.active al ≠ 0 ∧
    g6.clear (.atomS ⟨al, 5, 4, 240, 0, 0, 0, 0, false, 0⟩) ∧ g6.clear (.casS ⟨al, 5, 4, 6, 0, 0, 1, 3, false, 0⟩) ∧
    (∀ l ∈ laneList (g6.active al), ∃ a, g6.smallAddr 4 240 0 0 4 l = some a ∧ g6.scratchTarget 1 b (natBit a 31) a = .inr (1, 4096, 28)) ∧
    10 ≠ 11 ∧ 10 ≠ 12 ∧ (11 = 11 ∨ 11 = 12) ∧ (12 = 11 ∨ 12 = 12) := by
  have hl : laneList (g6.active al) = [0, 1] := by decide +kernel
  refine ⟨_, _, _, rfl, rfl, rfl, ⟨rfl, rfl⟩, ?_, by decide +kernel, clear_of (b := _) (c := _) rfl rfl (by decide +kernel),
    clear_of (b := _) (c := _) rfl rfl (by decide +kernel), ?_, by decide⟩
  · rw [hl]; decide
  · rw [hl]
    intro l h
    simp only [List.mem_cons, List.not_mem_nil, or_false] at h
    rcases h with rfl | rfl <;> exact ⟨28, by decide +kernel, by decide +kernel⟩

theorem witness_HomeAtomics : ∃ b c, g5.gang? = some (b, c) ∧ onlyLane (g5.active al) 0 ∧ (g5.core b.core).posted = [] ∧
    g5.unread b.core (g5.memKey 0x10E000 / 64) ∧
    g5.clear (.atomH ⟨al, 5, 2, 240, 0, 0, 1, 4, false, 0⟩) ∧ g5.clear (.casH ⟨al, 5, 2, 6, 0, 0, 1, 4, false, 0⟩) ∧
    translate g5 b.tctx (g5.wideAddr 2 240 0 0 4 0) 2 = .ok 0x10E000 placedEntry [] :=
  ⟨_, _, rfl, ⟨by decide, by decide +kernel⟩, rfl, unread_of (by decide +kernel) _ _, clear_of (b := _) (c := _) rfl rfl (by decide +kernel),
    clear_of (b := _) (c := _) rfl rfl (by decide +kernel), by decide +kernel⟩

/-- RED.H on the crew's own page, and LOP on the Larder's. -/
theorem witness_PostedUpdates : ∃ b c, g5.gang? = some (b, c) ∧ onlyLane (g5.active al) 0 ∧
    g5.clear (.redH ⟨al, 5, 2, 240, 0, 0, 1, 4, false, 0⟩) ∧ translate g5 b.tctx (g5.wideAddr 2 240 0 0 4 0) 2 = .ok 0x10E000 placedEntry [] ∧
    g5.clear (.lop ⟨al, 0, 6, 5, 5, false, 0, 0⟩) ∧ translate g5 b.tctx (g5.src true 6 0) 2 = .ok 0x10F040 larderPage [] ∧
    0x10F040 % 4096 + g5.src false 5 0 * 4 ≤ 4096 :=
  ⟨_, _, rfl, ⟨by decide, by decide +kernel⟩, clear_of (b := _) (c := _) rfl rfl (by decide +kernel), by decide +kernel,
    clear_of (b := _) (c := _) rfl rfl (by decide +kernel), by decide +kernel, by decide +kernel⟩

/-- A flag word that holds 0: it is 0 and no 7; the last word of 4,096 bytes. -/
def g7 : State := gang [[(2, 0x10E000), (4, 4092), (5, 7), (8, 0x110000)]]
def g8 : State := { g7 with cores := g5.cores }
theorem witness_WaitsAndTags : ∃ b c, g8.gang? = some (b, c) ∧ (g8.core b.core).posted = [] ∧ g8.uncopied b.core ∧ b.spoilt = [] ∧ g8.clear (.waita ⟨al, 6, 4, 240, 4, 0, 1, 3, 0⟩) ∧
    (g8.active al).getLsbD 0 = true ∧ g8.smallAddr 4 240 0 0 4 0 = some 4092 ∧ c.fences = [] ∧ 4092 + 4 ≤ hdrScratch b.header ∧ 4092 % 4 = 0 ∧
    ofBytesLE (Map.bytes 0 b.scratch 4092 4) = g8.src false 240 0 ∧ ofBytesLE (Map.bytes 0 b.scratch 4092 4) ≠ g8.src false 5 0 ∧
    onlyLane (g8.active al) 0 ∧ g8.clear (.tagr ⟨al, 6, 8, 240, 0, 0, 0, 0, 0⟩) ∧ g8.clear (.tagw ⟨al, 5, 8, 240, 0, 0, 0, 0, 0⟩) ∧
    translate g8 b.tctx (g8.wideAddr 8 240 0 0 32 0 / 32 * 32 % 2 ^ 60) 0 = .ok 0x110000 tagPage [] ∧
    translate g8 b.tctx (g8.wideAddr 8 240 0 0 32 0 % 2 ^ 60) 1 = .ok 0x110000 tagPage [] ∧ tagPage.tg = true ∧ c.fencesOf 0 = [] :=
  ⟨_, _, rfl, rfl, ⟨rfl, rfl⟩, rfl, clear_of (b := _) (c := _) rfl rfl (by decide +kernel), by decide +kernel, by decide +kernel, rfl, by decide +kernel, by decide,
    by decide +kernel, by decide +kernel, ⟨by decide, by decide +kernel⟩, clear_of (b := _) (c := _) rfl rfl (by decide +kernel),
    clear_of (b := _) (c := _) rfl rfl (by decide +kernel), by decide +kernel, by decide +kernel, by decide +kernel, rfl⟩

theorem witness_CopiesQueued : ∃ b c, g5.gang? = some (b, c) ∧ g5.clear (.cp ⟨al, 0, 2, 2, 12, false, 0, 0x20⟩) :=
  ⟨_, _, rfl, clear_of (b := _) (c := _) rfl rfl (by decide +kernel)⟩

/-- Pages: plain, the Larder's, with tags, with nothing behind it. Lane 0 holds an address of each, and the addresses at the checks'
edges: bit 57 set, two bytes off a word, tag 1 on the tagged page, and scratchpad offsets 4093 and 4094 of 4,096 bytes. -/
def g9 : State :=
  let s := gang [[(2, 0x10E000), (3, 0x02000000), (4, 0x10E002), (6, 0x111000), (8, 0x110000), (9, 0x10000000), (10, 4093), (11, 4094), (12, 0x00400000),
    (13, 0x00100000), (14, 0x10F000), (16, 0x10E000), (18, 30), (19, 61)]] [] (BitVec.ofNat 1024 (placedRecord.toNat + 2 ^ 239))
  let gap : TlbEntry := { placedEntry with vpn := 0x111, ipn := 0x111, ppn := 2 ^ 38 }
  { s with cores := [(0, { s.core 0 with utlb := [placedEntry, larderPage, tagPage, gap] })] }

theorem witness_AccessChecks : ∃ b c, g9.gang? = some (b, c) ∧ c.fences = [] ∧ (c.thread 0).refused = none ∧
    natBits (g9.wideAddr 2 240 0 0 4 0) 59 57 ≠ 0 ∧
    (natBits (g9.wideAddr 4 240 0 0 4 0) 59 57 = 0 ∧ g9.wideAddr 4 240 0 0 4 0 % 4 ≠ 0) ∧
    translate g9 b.tctx (g9.wideAddr 6 240 0 0 4 0) 0 = .fail 0x087 0x111000 0x111000 0 ∧ recoverable 0x087 = false ∧
    (translate g9 b.tctx (g9.wideAddr 16 240 0 0 4 0) 0 = .ok 0x10E000 placedEntry [] ∧ placedEntry.larder = false) ∧
    (translate g9 b.tctx (g9.wideAddr 14 240 0 0 4 0) 0 = .ok 0x10F000 larderPage [] ∧ larderPage.larder = true) ∧
    (translate g9 b.tctx (g9.wideAddr 8 240 0 0 4 0) 0 = .ok 0x110000 tagPage [] ∧ tagPage.tg = true ∧
      g9.isFrozen 0x110000 = false ∧ g9.movedPage b.core 0x110000 = false ∧ g9.heldTag b.core 0x110000 4 = false ∧ natBits (g9.wideAddr 8 240 0 0 4 0) 63 60 ≠ (g9.tag 0x110000).toNat) ∧
    g9.smallAddr 240 240 0 (-1) 4 0 = none ∧
    (g9.smallAddr 10 240 0 0 4 0 = some 4093 ∧ hdrScratch b.header < 4093 + 4) ∧
    (g9.smallAddr 10 240 0 (-1) 4 0 = some 4089 ∧ 4089 + 4 ≤ hdrScratch b.header ∧ 4089 % 4 ≠ 0) ∧
    (g9.smallAddr 12 240 0 0 4 0 = some 0x400000 ∧ natBits 0x400000 30 22 ≠ 0) ∧
    (g9.smallAddr 13 240 0 0 4 0 = some 0x100000 ∧ g9.windowBlock b (natBits 0x100000 21 20) = none) ∧
    (recQuad b.record = true ∧ natBits 4093 30 22 = 0 ∧ g9.windowBlock b (natBits 4093 21 20) = some (1, b)) ∧
    (g9.smallAddr 19 240 0 0 4 0 = some 61 ∧ hdrCubby b.header < 61 + 4) ∧
    (g9.smallAddr 18 240 0 (-1) 4 0 = some 26 ∧ 26 + 4 ≤ hdrCubby b.header ∧ 26 % 4 ≠ 0) := by
  refine ⟨_, _, rfl, rfl, rfl, ?_⟩
  and_intros <;> decide +kernel

/-- A store to a word two bytes off, one lane; and a bundle of two faulting lanes in a block that goes on, is killed, has ended. -/
def f0 : LaneFault := ⟨0, 0, 0x088, 0x10E002, 1⟩
def f1 : LaneFault := ⟨1, 0, 0x088, 0x10E006, 1⟩
def faulting (f : Block → Block) : State :=
  let s := g6.modBlock 1 f
  { s with cur := { s.cur with faults := [f1, f0] } }
theorem witness_FaultingLane : (∃ b c, g9.gang? = some (b, c) ∧ g9.cur.checked = false ∧ g9.cur.replay = false ∧ g9.cur.holds = [] ∧
      onlyLane (g9.active (Instr.stG ⟨al, 5, 4, 240, 4, 0, 0, 0, 0⟩).guard) 0 ∧
      verdict g9 b c 0 (.stG ⟨al, 5, 4, 240, 4, 0, 0, 0, 0⟩) = .fault 0x088 0x10E002 1) ∧
    ∀ f ∈ [fun (b : Block) => b, fun b => { b with killed := true }, fun b => { b with ended := true }],
      (∃ b c, (faulting f).crew? (faulting f).cur.blk (faulting f).cur.crew = some (b, c)) ∧ f0 ∈ (faulting f).cur.faults ∧
      (∀ g ∈ (faulting f).cur.faults, f0.lane ≤ g.lane) ∧ ∀ g ∈ (faulting f).cur.faults, g.lane = f0.lane → g = f0 := by
  refine ⟨⟨_, _, rfl, rfl, rfl, rfl, ⟨by decide, by decide +kernel⟩, by decide +kernel⟩, ?_⟩
  intro f hf
  simp only [List.mem_cons, List.not_mem_nil, or_false] at hf
  refine ⟨?_, List.mem_cons_of_mem _ (List.mem_cons_self), ?_, ?_⟩
  · rcases hf with rfl | rfl | rfl <;> exact ⟨_, _, rfl⟩
  all_goals
    intro g hg
    have : g = f1 ∨ g = f0 := by simpa [faulting] using hg
    rcases this with rfl | rfl <;> decide

/-- A target with a safe point, one four bytes off a bundle, one without a safe point. -/
def g10 : State := (gang [[(2, 0x10E000), (4, 0x10E004), (6, 0x10E008)]]).setNum 0x10E000 8 0xB0E4000000000000
theorem witness_ControlTransfers : ∃ b c, g10.gang? = some (b, c) ∧ g10.clear (.brx ⟨al, 0, 2, 0, 0, false, 0, 0⟩) ∧
    g10.clear (.callx ⟨al, 8, 2, 0, 0, false, 0, 0⟩) ∧ g10.clear (.ret ⟨al, 0, 2, 0, 0, false, 0, 0⟩) ∧ c.fences = [] ∧
    g10.src true 4 0 % 8 ≠ 0 ∧ (g10.src true 2 0 % 8 = 0 ∧ g10.safeTarget b 0x10E000 = true) ∧ g10.safeTarget b 0x10E008 = false :=
  ⟨_, _, rfl, clear_of (b := _) (c := _) rfl rfl (by decide +kernel), clear_of (b := _) (c := _) rfl rfl (by decide +kernel),
    clear_of (b := _) (c := _) rfl rfl (by decide +kernel), rfl, by decide +kernel, by decide +kernel, by decide +kernel⟩

theorem witness_ThreadsLeaveIssue : (∃ b c, g1.gang? = some (b, c)) ∧ g1.clear (.exit ⟨al, 0, 0, 0, 0, false, 0, 0⟩) ∧
    g1.src false 240 0 = 0 ∧ g1.src false 2 0 ≠ 0 := ⟨⟨_, _, rfl⟩, clear_of (b := _) (c := _) rfl rfl (by decide +kernel), by decide +kernel⟩

theorem witness_ConvergenceMasks : (∃ b c, g1.gang? = some (b, c)) ∧ g1.clear (.waitm ⟨al, 0, 1, 0, 0, false, 0, 0⟩) ∧ 63 < 64 :=
  ⟨⟨_, _, rfl⟩, clear_of (b := _) (c := _) rfl rfl (by decide +kernel), by decide⟩

/-- BAR 0 and a quad team's SBAR; a barrier of which its one thread has arrived, and one of which it has not. -/
theorem witness_Barriers : (∃ b c, g4.gang? = some (b, c)) ∧ g4.clear (.bar ⟨al, 0, 0, 0, 0, false, 0, 0⟩) ∧
    g4.clear (.sbar ⟨al, 0, 0, 0, 0, false, 0, 3⟩) ∧ g4.active al ≠ 0 ∧
    ∃ b : Block, Map.find? b.bars 0 = some ⟨false, 1, 0⟩ ∧ Map.find? b.bars 1 = some ⟨false, 0, 0⟩ ∧ b.expected ≠ 0 ∧
      (∀ i, b.expected.getLsbD i = true → (1 : BitVec 1024).getLsbD i = true) ∧ b.expected.getLsbD 0 = true ∧ (0 : BitVec 1024).getLsbD 0 = false := by
  have he : ({ placedBlock false 0 with bars := [(0, ⟨false, 1, 0⟩), (1, {})] } : Block).expected = 1 := by decide +kernel
  refine ⟨⟨_, _, rfl⟩, clear_of (b := _) (c := _) rfl rfl (by decide +kernel), clear_of (b := _) (c := _) rfl rfl (by decide +kernel), by decide +kernel,
    { placedBlock false 0 with bars := [(0, ⟨false, 1, 0⟩), (1, {})] }, rfl, rfl, ?_, ?_, ?_, ?_⟩
  · rw [he]; decide +kernel
  · rw [he]; exact fun _ h => h
  · rw [he]; decide +kernel
  · decide +kernel

/-- No lane, a fence that may complete, and one behind an unperformed store. -/
def held : Posted := ⟨1, ⟨1, 0, 0⟩, 0, 0x10E000, 0x10E000, .store [1, 0, 0, 0], false, 0, none, 64, false, 0x10E000⟩
def g11 : State := g1.modCore 0 (fun c => { c with posted := [held] })
theorem witness_Fences : (∃ b c, g1.gang? = some (b, c) ∧ (g1.core b.core).posted = [] ∧ c.fences = []) ∧
    (∃ b c, g11.gang? = some (b, c) ∧ (g11.core b.core).posted ≠ []) ∧ g1.clear (.fence ⟨al, 0, 0, 0, 0, false, 0, 0x12⟩) ∧
    g11.clear (.fence ⟨al, 0, 0, 0, 0, false, 0, 0x12⟩) ∧ g1.active al ≠ 0 ∧ g1.clear (.fence ⟨⟨0, 1⟩, 0, 0, 0, 0, false, 0, 0x12⟩) ∧ g1.active ⟨0, 1⟩ = 0 :=
  ⟨⟨_, _, rfl, rfl, rfl⟩, ⟨_, _, rfl, by decide +kernel⟩, clear_of (b := _) (c := _) rfl rfl (by decide +kernel),
    clear_of (b := _) (c := _) rfl rfl (by decide +kernel), by decide +kernel, clear_of (b := _) (c := _) rfl rfl (by decide +kernel), by decide +kernel⟩

theorem witness_GatesAndSafePoints : (∃ b c, g1.gang? = some (b, c) ∧ c.fences = []) ∧ g1.active al ≠ 0 ∧ g1.active ⟨0, 1⟩ = 0 ∧
    (∀ g ∈ [al, ⟨0, 1⟩], g1.clear (.hatch ⟨g, 0, 0, 0, 0, false, 0, 0⟩) ∧ g1.clear (.safept ⟨g, 0, 0, 0, 0, false, 0, 0⟩)) := by
  refine ⟨⟨_, _, rfl, rfl⟩, by decide +kernel, by decide +kernel, ?_⟩
  intro g hg
  simp only [List.mem_cons, List.not_mem_nil, or_false] at hg
  rcases hg with rfl | rfl
  · exact ⟨clear_of (b := _) (c := _) rfl rfl (by decide +kernel), clear_of (b := _) (c := _) rfl rfl (by decide +kernel)⟩
  · exact ⟨clear_of (b := _) (c := _) rfl rfl (by decide +kernel), clear_of (b := _) (c := _) rfl rfl (by decide +kernel)⟩

/-- Queue 0, its ring at 0x200000, open to launches from code. -/
def g12 : State := g1.setReg .qcfg 0 0x20A018
theorem witness_LaunchAccepts : ∃ b c, g12.gang? = some (b, c) ∧ onlyLane (g12.active al) 0 ∧ g12.clear (.launch ⟨al, 0, 2, 0, 0, false, 0, 0⟩) ∧
    (g12.core b.core).posted = [] ∧ translate g12 b.tctx (g12.src true 2 0) 0 = .ok 0x10E000 placedEntry [] ∧
    translate g12 (ipaCtx b.vf) (g12.ringAddr 0 (g12.queue 0).tail) 1 = .ok 0x20A000 { placedEntry with vpn := 522, ipn := 522, ppn := 522 } [] :=
  ⟨_, _, rfl, ⟨by decide, by decide +kernel⟩, clear_of (b := _) (c := _) rfl rfl (by decide +kernel), rfl, by decide +kernel, by decide +kernel⟩

/-- TRAP with and without C, and BKPT with a debugger attached and without, with a lane and without. -/
def g13 : State := (g1.modBlock 1 (fun b => { b with lid := 256 })).setReg .dbgatt 0 256
theorem witness_TrapsAndBreakpoints : (∃ b c, g13.gang? = some (b, c) ∧ c.fences = [] ∧ b.lid ≠ 0 ∧ g13.reg .dbgatt b.vf = b.lid) ∧
    (∃ b c, g1.gang? = some (b, c) ∧ b.lid = 0) ∧ (natBit 0x25 5 = true ∧ natBit 5 5 = false) ∧ g13.clear (.trap ⟨al, 0, 0, 0, 0, false, 0, 0x25⟩) ∧
    g13.clear (.bkpt ⟨al, 0, 0, 0, 0, false, 0, 9⟩) ∧ g13.active al ≠ 0 ∧ g1.clear (.bkpt ⟨⟨0, 1⟩, 0, 0, 0, 0, false, 0, 9⟩) ∧ g1.active ⟨0, 1⟩ = 0 :=
  ⟨⟨_, _, rfl, rfl, by decide +kernel, by decide +kernel⟩, ⟨_, _, rfl, rfl⟩, by decide, clear_of (b := _) (c := _) rfl rfl (by decide +kernel),
    clear_of (b := _) (c := _) rfl rfl (by decide +kernel), by decide +kernel, clear_of (b := _) (c := _) rfl rfl (by decide +kernel), by decide +kernel⟩

theorem witness_TimeCountersEvents : (∃ b c, g1.gang? = some (b, c)) ∧ g1.cur.replay = false ∧ g1.clear (.evt ⟨al, 0, 2, 0, 0, false, 0, 9⟩) ∧
    lowLane (g1.active al) = some 0 ∧ g1.clear (.evt ⟨⟨0, 1⟩, 0, 2, 0, 0, false, 0, 9⟩) ∧ g1.active ⟨0, 1⟩ = 0 ∧ 15 < 16 ∧ ¬ 16 ≤ 15 :=
  ⟨⟨_, _, rfl⟩, rfl, clear_of (b := _) (c := _) rfl rfl (by decide +kernel), by decide +kernel, clear_of (b := _) (c := _) rfl rfl (by decide +kernel),
    by decide +kernel, by decide⟩

/-- A Loft context with those registers and tiles, executing a slot of a bundle; its record's slots 1 to 4 are E4M3, FP32 to E4M3, E4M3 to
FP32, and E4M3 updated by FP32; slot 0 is FP32. -/
def loftRecord : BitVec 1024 :=
  BitVec.ofNat 1024 (placedRecord.toNat + 0x3300000000000000 * 2 ^ 576 + 0x0030000000000000 * 2 ^ 640 + 0x3000000000000000 * 2 ^ 704
    + 0x3030000000000000 * 2 ^ 768)
def loft (r : LoftRegs) (scratch : Map Byte := []) : State :=
  let s := State.reset.withWord 0x4000000000000000
  { s with
    blocks := [(1, { placedBlock true 0 with record := loftRecord, scratch := scratch, loft := some { holding := true, regs := r } })],
    cur := { loft := true, blk := 1, lanes := 1, eset := 1, pc := BitVec.ofNat 64 placedAt, npc := BitVec.ofNat 64 (placedAt + 8), units := [4] },
    preL := r }

def l1 : State := loft { q := [(1, 0x10E000), (2, 0x01F00080), (3, 4092), (4, 7), (6, 0x0000000000000000), (8, 0x00001F0008000000)], lc := [(1, 3)] }

theorem witness_LoftArithmetic : (∃ b p, l1.loft? = some (b, p)) ∧ l1.loftActs al = true ∧ l1.loftActs ⟨0, 1⟩ = false :=
  ⟨⟨_, _, rfl⟩, by decide +kernel, by decide +kernel⟩

/-- A loop counter of 3 and one of 0; a flag word that meets its condition and one that does not. -/
theorem witness_LoftControl : ∃ b p, l1.loft? = some (b, p) ∧ l1.loftActs al = true ∧ l1.loftActs ⟨0, 1⟩ = false ∧ (l1.qsrc 33).toNat ≠ 0 ∧
    (l1.qsrc 32).toNat = 0 ∧ l1.cur.replay = false ∧ (l1.core b.core).posted = [] ∧
    l1.uncopied b.core ∧ b.spoilt = [] ∧ l1.loftClear (.qwait ⟨al, 0, 3, 240, 0, false, 0, 0⟩) ∧
    l1.loftClear (.qsig ⟨al, 0, 3, 4, 0, false, 0, 4⟩) ∧ l1.scratchTarget 1 b (natBit (l1.qsrc 3).toNat 31) (l1.qsrc 3).toNat = .inr (1, 4096, 4092) ∧
    (l1.block? 1).isSome = true ∧ l1.loftScratch b (l1.qsrc 3).toNat 4 4 false = .ok ∧
    flagHolds 0 (ofBytesLE (Map.bytes 0 b.scratch 4092 4)) ((l1.qsrc 240).toNat % 2 ^ 32) = true ∧
    flagHolds 0 (ofBytesLE (Map.bytes 0 b.scratch 4092 4)) ((l1.qsrc 4).toNat % 2 ^ 32) = false :=
  ⟨_, _, rfl, by decide +kernel, by decide +kernel, by decide +kernel, by decide +kernel, rfl, rfl, ⟨rfl, rfl⟩, rfl,
    loftClear_of (b := _) (x := _) rfl rfl (by decide +kernel), loftClear_of (b := _) (x := _) rfl rfl (by decide +kernel), by decide +kernel, rfl,
    by decide +kernel, by decide +kernel, by decide +kernel⟩

/-- One row and a transposing default; a gather of 32 rows; pieces of scratchpad, and of the page, its last byte's line included. -/
def l2 : State := { l1 with maint := true }
theorem witness_TileMoves : (∃ b p, l1.loft? = some (b, p) ∧ (l1.core b.core).posted = [] ∧ l1.uncopied b.core ∧ l1.unread b.core (l1.memKey 0x10EFFF / 64) ∧
      l1.scratchTarget 1 b (natBit 28 31) 28 = .inr (1, 4096, 28) ∧ (l1.block? 1).isSome = true ∧
      translate l1 b.tctx 0x10EFFF 0 = .ok 0x10EFFF placedEntry [] ∧ translate l1 b.tctx 0x10EFFF 1 = .ok 0x10EFFF placedEntry []) ∧
    l1.loftActs al = true ∧ l1.loftActs ⟨0, 1⟩ = false ∧ l1.cur.replay = false ∧ l1.loftClear (.tzero ⟨al, 64, 0, 0, 0, 0, 31⟩) ∧
    l1.loftClear (.txp ⟨al, 64, 65, 0, 0, 0, 31⟩) ∧ l1.loftClear (.tld ⟨al, 64, 1, 2, 0, 0, 31⟩) ∧ moveDesc l1 ⟨al, 64, 1, 2, 0, 0, 31⟩ = some ⟨0, 31, 0x80⟩ ∧
    l1.loftClear (.tst ⟨al, 64, 1, 2, 0, 0, 31⟩) ∧ l1.loftClear (.tcp ⟨al, 0, 1, 1, 6, 0, 0⟩) ∧ l1.loftClear (.tgat ⟨al, 40, 6, 8, 0, 0, 31⟩) ∧
    l2.loftClear (.tfill ⟨al, 64, 6, 8, 0, 0, 31⟩) ∧ gatherDesc (l1.qsrc 8).toNat = some (32, 128, 0) ∧ 0x10EFFF % 64 + 1 ≤ 64 ∧ 0x10EFFF < 2 ^ 64 ∧ 0 < 1 :=
  ⟨⟨_, _, rfl, rfl, ⟨rfl, rfl⟩, unread_of (by decide +kernel) _ _, by decide +kernel, rfl, by decide +kernel, by decide +kernel⟩, by decide +kernel, by decide +kernel, rfl,
    loftClear_of (b := _) (x := _) rfl rfl (by decide +kernel), loftClear_of (b := _) (x := _) rfl rfl (by decide +kernel),
    loftClear_of (b := _) (x := _) rfl rfl (by decide +kernel), by decide +kernel, loftClear_of (b := _) (x := _) rfl rfl (by decide +kernel),
    loftClear_of (b := _) (x := _) rfl rfl (by decide +kernel), loftClear_of (b := _) (x := _) rfl rfl (by decide +kernel),
    loftClear_of (b := _) (x := _) rfl rfl (by decide +kernel), by decide +kernel, by decide +kernel⟩

/-- A nest of one tile step stopped before it, in slot 1. -/
def l3 : State := loft { es := [(4, 0x2040), (7, 1)] }
theorem witness_TensorProducts : (∃ b p, l1.loft? = some (b, p) ∧ (l1.core b.core).posted = [] ∧ l1.uncopied b.core) ∧ (∃ b p, l3.loft? = some (b, p)) ∧ l1.loftActs al = true ∧
    l1.loftActs ⟨0, 1⟩ = false ∧ l3.loftActs al = true ∧ l1.loftClear (.tmma ⟨al, 69, 64, 65, 0, 1, 62⟩) ∧
    l1.loftClear (.tgemm ⟨al, 64, 6, 6, 1, 131071⟩) ∧ l3.loftClear (.tresume ⟨al, 64, 0, 0, 0, false, 0, 0⟩) :=
  ⟨⟨_, _, rfl, rfl, rfl, rfl⟩, ⟨_, _, rfl⟩, by decide +kernel, by decide +kernel, by decide +kernel, loftClear_of (b := _) (x := _) rfl rfl (by decide +kernel),
    loftClear_of (b := _) (x := _) rfl rfl (by decide +kernel), loftClear_of (b := _) (x := _) rfl rfl (by decide +kernel)⟩

theorem witness_TileArithmetic : (∃ b p, l1.loft? = some (b, p)) ∧ l1.loftActs al = true ∧ l1.loftActs ⟨0, 1⟩ = false ∧
    (∀ i ∈ [Instr.tadd ⟨al, 69, 64, 65, 1, 0, 63⟩, .tmul ⟨al, 69, 64, 65, 0, 0, 63⟩, .tfma ⟨al, 69, 64, 65, 66, 0, 63⟩, .tmax ⟨al, 69, 64, 65, 0, 0, 63⟩,
      .tact ⟨al, 69, 64, 0, 6, 0, 63⟩, .tscale ⟨al, 69, 64, 65, 2, 0, 63⟩, .tred ⟨al, 69, 64, 0, 0xF, 0, 63⟩, .tamax ⟨al, 69, 64, 0, 8, 0, 63⟩,
      .tminmax ⟨al, 69, 64, 0, 0, 0, 63⟩, .tqnt ⟨al, 69, 64, 65, 3, 2, 63⟩, .tdqt ⟨al, 69, 64, 0, 3, 3, 63⟩, .tcvt ⟨al, 69, 64, 0, 3, 2, 63⟩,
      .tcvt ⟨al, 69, 64, 0, 3, 3, 63⟩, .tcvt ⟨al, 69, 64, 0, 0, 0, 63⟩, .topt ⟨al, 69, 64, 65, 6, 4, 63⟩], l1.loftClear i) := by
  have h : ([Instr.tadd ⟨al, 69, 64, 65, 1, 0, 63⟩, .tmul ⟨al, 69, 64, 65, 0, 0, 63⟩, .tfma ⟨al, 69, 64, 65, 66, 0, 63⟩, .tmax ⟨al, 69, 64, 65, 0, 0, 63⟩,
      .tact ⟨al, 69, 64, 0, 6, 0, 63⟩, .tscale ⟨al, 69, 64, 65, 2, 0, 63⟩, .tred ⟨al, 69, 64, 0, 0xF, 0, 63⟩, .tamax ⟨al, 69, 64, 0, 8, 0, 63⟩,
      .tminmax ⟨al, 69, 64, 0, 0, 0, 63⟩, .tqnt ⟨al, 69, 64, 65, 3, 2, 63⟩, .tdqt ⟨al, 69, 64, 0, 3, 3, 63⟩, .tcvt ⟨al, 69, 64, 0, 3, 2, 63⟩,
      .tcvt ⟨al, 69, 64, 0, 3, 3, 63⟩, .tcvt ⟨al, 69, 64, 0, 0, 0, 63⟩, .topt ⟨al, 69, 64, 65, 6, 4, 63⟩]).all (fun i => match l1.loft? with
        | some (b, x) => decide (loftVerdict l1 b x i = .ok)
        | none => false) = true := by decide +kernel
  exact ⟨⟨_, _, rfl⟩, by decide +kernel, by decide +kernel, fun i hi => loftClear_of (b := _) (x := _) rfl rfl (of_decide_eq_true (List.all_eq_true.1 h i hi))⟩

/-! Events. A fence with nothing before it, holding the line at 0x10E000; the same behind a store; requests of each kind. -/

def fence0 : PFence := ⟨5, 1, 0, 4, 5, {}, [(0x4380, 0)], 0, 0, 0, []⟩
/-- The same of one of the two threads that its saved crew holds. -/
def fence1 : PFence := { fence0 with saved := { threads := [(1, {})] } }
def fenced (ps : List Posted) : State := (g1.modCore 0 (fun c => { c with posted := ps })).modCrew 1 0 (fun c => { c with fences := [fence0] })
def fencedBy (f : PFence) : State := g1.modCrew 1 0 (fun c => { c with fences := [f] })
def post (op : HomeOp) : Posted := { held with op := op }
theorem fenced_crew (ps : List Posted) : ∃ b c, (fenced ps).crew? 1 0 = some (b, c) ∧ b.core = 0 ∧ c.fences = [fence0] := ⟨_, _, rfl, rfl, rfl⟩

theorem witness_FencesAndHomes :
    (∃ b c, (fenced []).crew? 1 0 = some (b, c) ∧ c.fences[0]? = some fence0 ∧ fence0.hits = [] ∧ ((fenced []).core b.core).posted = []) ∧
    (∃ b c, (fenced [held]).crew? 1 0 = some (b, c) ∧ c.fences[0]? = some fence0 ∧ ((fenced [held]).core b.core).posted = [held] ∧
      ¬ (fence0.after < held.id ∨ ∃ j, held.fence = some j ∧ fence0.id ≤ j)) ∧
    (g1.unread 0 0x4380 ∧ ∀ c, g1.unread c (g1.memKey (64 * 0x4380) / 64)) ∧
    (∀ f ∈ [fence0, fence1], (Map.keys (fencedBy f).blocks).Nodup ∧ ∃ b c, Map.find? (fencedBy f).blocks 1 = some b ∧ (Map.keys b.crews).Nodup ∧
      Map.find? b.crews 0 = some c ∧ c.fences.find? (fun g => g.lines.any (fun x => x.1 == 0x4380)) = some f) ∧ fence0.whole = true ∧ fence1.whole = false ∧
    (∀ op ∈ [HomeOp.store [1], .tag 3, .group 0 false [1], .lop 0 false 2 1, .scratch 1 [1]],
      ∃ s : State, (s.core 0).posted[0]? = some (post op) ∧ (post op).fence = none ∧ (post op).moved = false ∧ s.isFrozen (post op).addr = false) ∧
    (∃ s : State, (s.core 0).posted[1]? = some (post (.store [1])) ∧ (∃ q ∈ (s.core 0).posted.take 1, q.fence = none ∧ q.meets (post (.store [1])) = true)) ∧
    (∃ s : State, (s.core 0).posted[0]? = some held ∧ s.isFrozen held.addr = true) ∧
    (∃ (s : State) (b : Block), (s.core 0).posted[0]? = some { held with moved := true } ∧ s.block? held.agent.blk = some b ∧
      translate s b.tctx held.va 1 = .ok 0x10E000 placedEntry [] ∧ s.isFrozen 0x10E000 = false) ∧
    (∀ d : Bool, ∃ s : State, Map.find? (s.core 0).l1 (l1Key 0 (s.memKey (64 * 0x4380) / 64)) = some ⟨0, true, d, false⟩ ∧
      (s.core 0).l1.any (fun e => e.2.doomed && e.1 % 2 ^ 52 == 0x4380) = d) ∧ Map.find? (g1.core 0).l1 0x4380 = none ∧ g1.cur.checked = false := by
  have hu : g1.blocks = [(1, { placedBlock false 0 with crews := [(0, { core := g1.pre, checkpoint := g1.pre, paths := [1] })] })] := rfl
  have hr : ∀ c l, g1.unread c l := by
    intro c l e he _ w hw f hf
    rw [hu] at he
    simp only [List.mem_cons, List.not_mem_nil, or_false] at he
    subst he
    simp only [List.mem_cons, List.not_mem_nil, or_false] at hw
    subst hw
    simp at hf
  refine ⟨⟨_, _, rfl, rfl, rfl, rfl⟩, ⟨_, _, rfl, rfl, rfl, by simp [fence0, held]⟩, ⟨hr _ _, fun c => hr c _⟩, ?_, by decide +kernel, by decide +kernel, ?_, ⟨fenced [held, post (.store [1])], rfl, held, by simp [fenced]; decide +kernel, rfl, by decide +kernel⟩,
    ⟨{ fenced [held] with frozen := [⟨0x10E, 1, 0⟩] }, rfl, by decide +kernel⟩,
    ⟨fenced [{ held with moved := true }], _, rfl, rfl, by decide +kernel, by decide +kernel⟩, ?_, by decide +kernel, rfl⟩
  · intro f hf
    simp only [List.mem_cons, List.not_mem_nil, or_false] at hf
    rcases hf with rfl | rfl <;> exact ⟨by decide +kernel, _, _, rfl, by decide +kernel, rfl, by decide +kernel⟩
  · intro op hop
    refine ⟨fenced [post op], rfl, rfl, rfl, ?_⟩
    show (fenced []).isFrozen 0x10E000 = false
    decide +kernel
  · intro d
    refine ⟨g1.modCore 0 (fun c => { c with l1 := [(0x4380, ⟨0, true, d, false⟩)] }), ?_⟩
    cases d <;> decide +kernel

/-- A copy of block 1's on core 0, of so many bytes between so many places. -/
def copyOf (src dst len : Nat) (ssp : Bool) (fence : Option Nat) : CopyReq :=
  ⟨⟨1, 0, 0⟩, 0, src, dst, len, 8, 1, ssp, true, true, false, false, 0, false, 0, 0, fence, none, 64, 0, false, 0, [], false⟩
def copying (c : CopyReq) : State := g1.modCore 0 (fun x => { x with copies := [c] })
/-- A thread of crew 0 as changed, at time 2,000. -/
def threaded (f : Thread → Thread) : State := { g1.modThread 1 0 0 f with gts := 2000 }
/-- A Loft context as changed, with an element of hatch tile 0 written in its shadow. -/
def lofted (f : LoftCtx → LoftCtx) : State := l1.modLoft 1 f
def unhatching (x : LoftCtx) : LoftCtx :=
  { x with wait := .unhatch, frame := { x.frame with descs := 0x90000820 }, regs := { x.regs with shadow := [(0, Tile.zero)] } }
def landing : Flight := ⟨3, 0, 10, [.tile 64 Tile.zero], none, 0, 0⟩
def due0 : Rec := ⟨0, 0, 0, 0, 0, none⟩
def waiting : Thread := { pc := BitVec.ofNat 64 placedAt, v := [(2, 0x10E000), (4, 1)], st := .barWait 0 }
/-- The trap ring of the PF at 0x20A000, of 64 records. -/
def ringed : State := { g1.setReg .trbase 0 0x20A000 with recs := [due0], gts := 2000 }
/-- A Loft context that has waited since time 1,000, at time 2,000, in a block whose limit is 1 ns. -/
def overdue : State := { (lofted (fun x => { x with waitFrom := some 1000 })).modBlock 1 (fun b => { b with record := BitVec.ofNat 1024 (loftRecord.toNat + 2 ^ 256) }) with gts := 2000 }
def limited : BitVec 1024 := BitVec.ofNat 1024 (placedRecord.toNat + 2 ^ 256)

theorem witness_EnginesAndWaits :
    (∀ c ∈ [copyOf 0 64 4 true (some 5), copyOf 0 64 0 true none, copyOf 0 64 64 true none, copyOf 0x10EFC0 64 64 false none],
      ∃ b, ((copying c).dieCopies 0)[0]? = some (0, 0) ∧ ((copying c).core 0).copies[0]? = some c ∧ (copying c).block? c.agent.blk = some b ∧
        b.core = 0 ∧ ((copying c).core 0).posted = [] ∧ Map.find? (copying c).launches b.launch = some placedLaunch ∧ placedLaunch.watch = 0 ∧ c.refused = false ∧ c.raced = [] ∧ c.done = 0 ∧
        b.spoilt = []) ∧
    (0 + 64 ≤ 64 ∧ 64 ≤ 4096 - 0x10EFC0 % 4096 ∧ translate (copying (copyOf 0x10EFC0 64 64 false none)) (placedBlock false 0).tctx 0x10EFC0 4 =
      .ok 0x10EFC0 placedEntry [] ∧ (copying (copyOf 0x10EFC0 64 64 false none)).isFrozen 0x10EFC0 = false ∧ placedEntry.tg = false ∧
      (copying (copyOf 0x10EFC0 64 64 false none)).consumes 0 0x10EFC0 64 none = false) ∧
    (Map.get [] (g1.core 0).loftq 0 = [] ∧ ∀ d, ∃ s : State, Map.get [] (s.core 0).loftq 0 = [1] ∧ s.loftHeld 0 0 = d ∧ (s.core 0).posted = []) ∧
    (∀ clk, ∃ s b x, s = lofted (fun x => { x with clk := clk, flights := [landing] }) ∧ s.block? 1 = some b ∧ b.loft = some x ∧
      x.flights[0]? = some landing ∧ x.wait = .none ∧ ∀ g ∈ x.flights, landing.ready ≤ g.ready) ∧
    (∃ b x c t, (lofted unhatching).block? 1 = some b ∧
      b.loft = some x ∧ x.wait = .unhatch ∧ x.flights = [] ∧ x.rerun = none ∧ (∀ e ∈ b.crews, e.2.rerun = none ∧ e.2.shelf = none) ∧
      b.spoiltTiles = [] ∧ ((lofted unhatching).core b.core).posted = [] ∧ Map.find? b.crews 0 = some c ∧
      Map.find? c.core.threads 0 = some t ∧ x.regs.shadow = [(0, Tile.zero)] ∧ (hatchOf x.frame.descs 0).w * (hatchOf x.frame.descs 0).p ≤ 32 ∧
      (hatchOf x.frame.descs 0).place 0 0 = some (0, 8, 0) ∧ b.thread? 0 = some t ∧ t.st ≠ .exited) ∧
    ({ g1 with recs := [due0], gts := 2000 } : State).recs[0]? = some due0 ∧ (due0.gts + 2000 ≤ 2000 ∧ ¬ due0.gts + 2000 ≤ 1999) ∧ due0.lost = none ∧
    (natBits (g1.reg .trbase 0).toNat 51 12 = 0 ∧ ringed.recs[0]? = some due0 ∧ natBits (ringed.reg .trbase 0).toNat 51 12 ≠ 0 ∧
      (natBits (ringed.reg .trtail 0).toNat 15 0 + 1) % 64 ≠ natBits (ringed.reg .trhead 0).toNat 15 0 % 64) ∧
    (∀ st ∈ [TStatus.sleep 2000, .sleep 2001, .flag 0 2000 true, .flag 0 2001 true], ∃ b c t,
      (threaded (fun t => { t with st := st })).crew? 1 0 = some (b, c) ∧ Map.find? c.core.threads 0 = some t ∧ t.st = st) ∧
    (∃ b x, (lofted (fun x => { x with wait := .flag 4092 0 0 false })).block? 1 = some b ∧ b.loft = some x ∧ x.wait = .flag 4092 0 0 false) ∧
    (∃ b c, g1.crew? 1 0 = some (b, c) ∧ c.deferred = [] ∧ ¬ c.lastRegroup / 4 < g1.clk / 4 ∧ b.runnable c ≠ 0) ∧
    (∃ b c, ({ g1 with clk := 4 } : State).crew? 1 0 = some (b, c) ∧ c.deferred = [] ∧ c.lastRegroup / 4 < 4 / 4 ∧
      ∀ l, (b.runnable c).getLsbD l = true → (c.thread l).age < 32) ∧
    ((∃ b, g1.block? 1 = some b ∧ g1.overLimit b = none ∧ g1.loftOverLimit b = none) ∧
      (∃ b, overdue.block? 1 = some b ∧ overdue.overLimit b = none ∧ (overdue.loftOverLimit b).isSome = true) ∧
      ∃ b c, ((threaded (fun t => { t with st := .barWait 0 })).modBlock 1 (fun b => { b with record := limited })).block? 1 = some b ∧
        (threaded (fun t => { t with st := .barWait 0 })).overLimit b = some (0, 0, waiting) ∧ Map.find? b.crews 0 = some c) := by
  refine ⟨?_, ⟨by decide, by decide, by decide +kernel, by decide +kernel, rfl, by decide +kernel⟩, ⟨rfl, ?_⟩, ?_, ?_, rfl, by decide, rfl, by decide +kernel, ?_, ⟨_, _, rfl, rfl, rfl⟩,
    ⟨_, _, rfl, rfl, by decide, by decide +kernel⟩, ?_, ⟨_, rfl, by decide +kernel, by decide +kernel⟩, ⟨_, rfl, by decide +kernel, by decide +kernel⟩, ?_⟩
  · intro c hc
    simp only [List.mem_cons, List.not_mem_nil, or_false] at hc
    rcases hc with rfl | rfl | rfl | rfl <;> exact ⟨_, rfl, rfl, rfl, rfl, rfl, rfl, rfl, rfl, rfl, rfl, rfl⟩
  · intro d
    refine ⟨(if d then l1 else g1).modCore 0 (fun x => { x with loftq := [(0, [1])] }), ?_⟩
    cases d <;> decide +kernel
  · intro clk
    exact ⟨_, _, _, rfl, rfl, rfl, rfl, rfl, by simp⟩
  · exact ⟨_, _, _, _, rfl, rfl, rfl, rfl, rfl, fun e he => List.mem_singleton.1 he ▸ ⟨rfl, rfl⟩, rfl, rfl, rfl, rfl, rfl, by decide +kernel, by decide +kernel,
      by decide +kernel, by decide +kernel⟩
  · intro st _
    exact ⟨_, _, _, rfl, rfl, rfl⟩
  · refine ⟨_, _, rfl, rfl, by decide, fun l _ => ?_⟩
    show ((Map.find? (crewOf [[(2, 0x10E000), (4, 1)]] []).threads l).getD {}).age < 32
    by_cases h : l = 0
    · subst h; decide +kernel
    · have : Map.find? (crewOf [[(2, 0x10E000), (4, 1)]] []).threads l = none := by simp [crewOf, indexed, Map.find?, Ne.symm h]
      rw [this]; decide
  · exact ⟨_, _, rfl, by decide +kernel, rfl⟩

/-- VF 1's tables: region 0 a 2 MiB leaf at a given place, IPA 0x200000 a page in frame 0x60000, which the VF owns; a working-set
record of one region, recorded in both maps, its backing frame in the attic. -/
def tables (place : Nat) : State :=
  let s := { State.reset with dies := [0, 1, 2, 3, 4, 5], owners := [(0x60000, mkOwner false true 1)] }
  let s := (((s.setNum 0x10000000 8 0x10001001).setNum 0x10001000 8 0x10002001).setNum 0x10002000 8 (place + 2 ^ 52 + 0x1B)).setNum 0x10002008 8 0x10003001
  let s := (((s.setNum 0x10003000 8 0x6000001B).setNum 0x20000000 1 1).setNum 0x20001000 1 1).setNum 0x30000000 8 (2 ^ 51)
  ((((s.setReg .s2root 1 0x10000001).setReg .wsmap 1 0x20000000).setReg .wslen 1 1).setReg .wsback 1 0x30000000).setReg .quota 1 1
/-- With region 0 in the attic, wanted by VF 1 in its time slice, and a run in the pool. -/
def rising : State := { tables (2 ^ 51) with switchedIn := [1], pool := [100] }
/-- With region 0 in the cellar, the pool empty, and VF 2, whose own region 0 lies in the attic, in VF 1's place. -/
def sinking : State :=
  let s := (((tables 0x40000000).setNum 0x11000000 8 0x11001001).setNum 0x11001000 8 0x11002001).setNum 0x11002000 8 (2 ^ 51 + 2 ^ 21 + 2 ^ 52 + 0x1B)
  let s := (((s.setReg .s2root 2 0x11000001).setReg .wsmap 2 0x20000000).setReg .wslen 2 1).setReg .quota 2 1
  { s with switchedIn := [2], switchedFrom := [(2, 1)] }
/-- TLBIs of function 1, so many. -/
def invalidating (n : Nat) : State := { g1 with tlbis := (List.range n).map (fun _ => ⟨1, 1, 0, 0, 0x10E000, 1⟩) }
/-- A launch past the splicer that names all of its working set. -/
def gatedLaunch : Launch := { placedLaunch with vf := 1, stage := 2, record := some (BitVec.ofNat 1024 (placedRecord.toNat + 100 * 2 ^ 249)) }
def gating (s : State) : State := { s with lowGear := false, launches := [(1, gatedLaunch)] }

set_option synthInstance.maxSize 1024 in
theorem witness_FramesAndPages :
    ((0 : Nat) = 0 ∧ (1 : Nat) ≠ 0) ∧ (((invalidating 15).tlbis.filter (fun x => x.fn == 1)).length < 16 ∧
      16 ≤ ((invalidating 16).tlbis.filter (fun x => x.fn == 1)).length) ∧
    (({ g1 with tlbis := [⟨1, 1, 0, 0, 0x10E000, 1⟩] } : State).tlbis[0]? = some ⟨1, 1, 0, 0, 0x10E000, 1⟩ ∧
      (∀ u ∈ ({ g1 with tlbis := [⟨1, 1, 0, 0, 0x10E000, 1⟩] } : State).tlbis.take 0, u.fn ≠ 1) ∧ g1.unposted) ∧
    (natBits 0 63 52 = 0 ∧ aperture (4096 * 270) = 0 ∧ g1.backed (4096 * 270) = true ∧ g1.backed (4096 * 271) = true ∧
      g1.backed (4096 * 273) = false ∧ g1.backed cellarTop = false ∧
      g1.retiredFrames = []) ∧
    (72 ≤ 72 ∧ ¬ 72 ≤ 71 ∧ g1.owners = [] ∧ g1.pool = []) ∧
    (0 ∉ g1.pool ∧ (∀ i, g1.owner (512 * 0 + i) = 0 ∧ 512 * 0 + i ∉ g1.retiredFrames) ∧ (512 * 0 + 512) * 4096 ≤ cellarTop ∧ 100 ∈ rising.pool) ∧
    (4096 ≤ 4096 ∧ 0x50000000 % 4096 = 0 ∧ (tables 0x40000000).moveAllowed 0x50000000 (4096 / 4096) = true ∧
      rangeLeaves (tables 0x40000000) 1 (0x200000 / 4096 * 4096) (4096 / 4096 + 1) (4096 / 4096) 0 = some [(0x6000001B, 0x10003000, 1, 0)] ∧
      wholeGroups 0x200000 1 [(0x6000001B, 0x10003000, 1, 0)] = true ∧ wholeGroups 0x201000 1 [(0x6000001F, 0x10003008, 1, 0)] = false) ∧
    (ownAsg ((tables 0x40000000).owner 0x60000) = true ∧ ownAsg ((tables 0x40000000).owner 0x60001) = false ∧
      (tables 0x40000000).backed (4096 * 0x60000) = true ∧ (tables 0x40000000).retiredFrames = [] ∧
      (tables 0x40000000).pageIn (ownVf ((tables 0x40000000).owner 0x60000)) 0x200000 0x60000 = some (0x200000, 1, [(0x6000001B, 0x10003000, 1, 0)]) ∧
      0x60000 / 512 ∉ (tables 0x40000000).pool ∧ (tables 0x40000000).unposted ∧ ownVf ((tables 0x40000000).owner 0x60000) = 1 ∧ aperture 0x50000000 = 0 ∧
      (tables 0x40000000).moveAllowed 0x50000000 1 = true) ∧
    (Memory.wf (tables 0x40000000).mem ∧ 0x50000000 < cellarTop ∧ aperture (natBits 0x6000001B 51 12 * 4096) = 0 ∧ 0x10003000 < cellarTop ∧ 0x50000000 ≠ natBits 0x6000001B 51 12 * 4096 ∧
      0x10003000 + 8 ≤ 0x50000000 ∧ 0x10003000 + 8 ≤ natBits 0x6000001B 51 12 * 4096) ∧
    (∃ s : State, s.frozen[0]? = some ⟨0x10E, 1, 0⟩ ∧ (∃ e ∈ s.cores, ∃ p ∈ e.2.posted, p.moved = false ∧ p.within (4096 * 0x10E) (4096 * 1) = true)) ∧
    (∃ s : State, s.frozen[0]? = some ⟨0x10E, 1, 0⟩ ∧ ∀ e ∈ s.cores, e.2.posted = []) ∧
    (∃ m, rising.region 1 0 = some m ∧ rising.pool = [100] ∧ m.attic = true ∧ rising.upRoom 1 = true ∧
      ∃ w ∈ rising.wanted, w.1 = 1 ∧ rising.incoming w.1 w.2 = some 0) ∧
    (∃ m, sinking.region 1 0 = some m ∧ sinking.nextMove = some (1, 0, false) ∧ sinking.pool = []) ∧ rising.nextMove ≠ some (1, 0, false) ∧
    (Map.findBy (fun _ l => l.queue == 0 && l.stage == 2 && l.failed.isNone) (gating rising).launches = some (1, gatedLaunch) ∧
      (gating rising).otherGates gatedLaunch = false ∧ (gating rising).gated gatedLaunch = true ∧
      (((gating rising).incoming 1 ((gating rising).workingSet gatedLaunch)).isSome = true ∧ (gating rising).upRoom 1 = true) ∧
      (gating (tables 0x40000000)).gated gatedLaunch = false ∧ (gating { rising with maint := true }).otherGates gatedLaunch = true ∧
      (((gating { rising with switchedIn := [] }).setReg .quota 1 0).gated gatedLaunch = true ∧
        ((gating { rising with switchedIn := [] }).setReg .quota 1 0).upRoom 1 = false ∧
        ((gating { rising with switchedIn := [] }).setReg .quota 1 0).nextMove = none)) := by
  refine ⟨by decide, by decide +kernel, ⟨rfl, fun _ h => absurd h (by simp), fun c => ?_⟩, by decide +kernel, ⟨by decide, by decide, rfl, rfl⟩,
    ⟨by decide +kernel, fun i => ⟨rfl, List.not_mem_nil⟩, by decide, by decide +kernel⟩,
    ⟨by decide, by decide, by decide +kernel, by decide +kernel, by decide +kernel, by decide +kernel⟩,
    ⟨by decide +kernel, by decide +kernel, by decide +kernel, rfl, by decide +kernel, by decide +kernel, fun c => rfl, by decide +kernel, by decide +kernel, by decide +kernel⟩, by decide +kernel,
    ⟨{ g11 with frozen := [⟨0x10E, 1, 0⟩] }, rfl, (0, { g1.core 0 with posted := [held] }), by decide +kernel, held, by decide, rfl, by decide +kernel⟩,
    ⟨{ g1 with frozen := [⟨0x10E, 1, 0⟩] }, rfl, by decide +kernel⟩,
    ⟨⟨[(2 ^ 51 + 2 ^ 52 + 0x1B, 0x10002000, 512, 0)], false, true, false⟩, ?_, rfl, rfl, by decide +kernel, (1, [0]), by decide +kernel, rfl, by decide +kernel⟩,
    ⟨⟨[(0x40000000 + 2 ^ 52 + 0x1B, 0x10002000, 512, 0)], true, false, false⟩, ?_, by decide +kernel, rfl⟩, by decide +kernel, by decide +kernel⟩
  · by_cases h : c = 0
    · subst h; rfl
    · simp [State.core, Map.find?, g1, gang, State.withWord, Ne.symm h]
  · decide +kernel
  · decide +kernel

/-- A thread held for a page of VF 0's, its request posted. -/
def page0 : Nat × Nat := (0, 0 * 2 ^ 52 + 0x777)
def request : PageReq := ⟨9, 0, 0, 0x777, 0x777000, 0x080, 0, 0, 0, true⟩
def heldPage : State := { (g1.modThread 1 0 0 (fun t => { t with hold := some page0 })).modBlock 1 (fun b => { b with faultAt := some 0 }) with pageReqs := [request] }
/-- Frame 0x100 given to VF 1. -/
def given : State := { State.reset with owners := [(0x10E, mkOwner false true 1)] }

theorem witness_OutsideAccesses :
    ((∀ r ∈ g1.pageReqs, ¬ (r.posted = true ∧ r.fn = 0 ∧ r.id = 9)) ∧ (∀ x ∈ heldPage.pageReqs, x.posted = true) ∧
      heldPage.pageReqs.find? (fun x => x.fn == 0 && x.id == 9) = some request ∧ ∃ b c th, Map.find? heldPage.blocks 1 = some b ∧ b.gone = false ∧
        Map.find? b.crews 0 = some c ∧ Map.find? c.core.threads 0 = some th ∧ th.hold = some page0) ∧
    (regWritable .quota = some 0xFFFFF ∧ RegName.quota ≠ .wsmap ∧ RegName.quota ≠ .qcfg ∧ regPf .quota = true ∧ g1.areaFree .quota 1 0xFFFFF = true ∧
      regPf .trhead = false ∧ g1.areaFree .crbase 1 0xFFFFFFFFFFFFF = true ∧ areaOk (cellarTop - 64) 64 = true ∧ areaOk (cellarTop - 63) 64 = false) ∧
    (natBit 2 1 = true ∧ (1 : Nat) ≠ 2) ∧
    (aperture (0x10F000 + 8) = aperture 0x10F000 ∧ 0x10F000 + 8 < 2 ^ 52 ∧ given.hostMay 0x10F000 8 = true ∧ given.hostMay 0x10EFFC 8 = false) ∧
    (given.peerMay 1 (natBits 0x10EFF8 43 0) 8 = true ∧ given.peerMay 1 (natBits 0x10EFFC 43 0) 8 = false ∧ given.peerMay 2 (natBits 0x10EFF8 43 0) 8 = false) ∧
    (2 ≤ 2 ∧ 2 ≤ 16 ∧ 16 ≤ 16 ∧ 16 = 2 * 8) ∧ (State.reset.ownsNow 0 0 0 = true ∧ State.reset.ownsNow 0 0 1 = false) ∧
    (areaOk (natBits 0x200000 51 6 * 64) 64 = true ∧ aperture (natBits 0x200000 51 6 * 64) ≠ 3 ∧
      natBits 0x200000 51 6 * 64 / 4096 ≠ statusPage / 4096 ∧ areaOk (natBits cellarTop 51 6 * 64) 64 = false) :=
  ⟨⟨by decide, by decide, by decide, _, _, _, rfl, rfl, rfl, rfl, rfl⟩, by decide +kernel, by decide, by decide +kernel, by decide +kernel, by decide,
    by decide +kernel, by decide +kernel⟩

/-- With a crate area of 16 MiB for function 0. -/
def roomy (s : State) : State := (s.setReg .crbase 0 0x4000000).setReg .crlen 0 0x1000000
def inMode (bits : Nat) : State := gang [[(2, 0x10E000)]] [] (BitVec.ofNat 1024 (placedRecord.toNat + bits))
/-- A team of one block, its one thread at a safe point, marked to be saved. -/
def ready : State := (g1.modBlock 1 (fun b => { b with leaving := 1 })).modThread 1 0 0 (fun t => { t with atSafe := true })

theorem witness_Preemption :
    (∃ p ∈ ({ g1 with preempts := [⟨0, 0, 0, 1, 0, 0, 0, []⟩] } : State).preempts, p.fn = 0) ∧ g1.preempts = [] ∧
    (∀ e ∈ g1.blocks, ¬ (e.2.vf = 0 ∧ 1 ≤ e.2.core ∧ e.2.core < 1 + 1)) ∧
    (∀ bits ∈ [0, 2 ^ 237], (inMode bits).preempts = [] ∧ (inMode bits).namedTeams 0 0 1 = [(1, 0)] ∧ ∃ b, (inMode bits).block? 1 = some b ∧ b.leaving = 0 ∧
      b.ended = false ∧ b.gone = false ∧ b.vf = 0 ∧ 0 ≤ b.core ∧ b.core < 0 + 1 ∧ recCoop b.record = false ∧
      (recRestart b.record = true ↔ bits = 2 ^ 237)) ∧
    (∃ b, g1.block? 1 = some b ∧ g1.estimate (g1.teamOf b) b 0 2 = .drain ∧ (roomy g1).estimate ((roomy g1).teamOf b) b 0 1 = .save ∧
      (g1.crateRoom b.vf (g1.teamOf b) (g1.crateSize (g1.teamOf b))).isSome = false ∧ ((roomy g1).crateRoom b.vf ((roomy g1).teamOf b) ((roomy g1).crateSize ((roomy g1).teamOf b))).isSome = true) ∧
    (∃ b, (inMode (2 ^ 237)).block? 1 = some b ∧ (inMode (2 ^ 237)).estimate ((inMode (2 ^ 237)).teamOf b) b 0 3 = .discard) ∧
    (∃ b, g1.block? 1 = some b ∧ g1.swapDue 1 b = false ∧ g1.teamReady (g1.teamOf b) = false) ∧
    (∃ b, heldPage.block? 1 = some b ∧ ({ heldPage with gts := 4000 } : State).swapDue 1 b = true ∧ ({ heldPage with gts := 3999 } : State).swapDue 1 b = false ∧
      ({ heldPage with gts := 4000 } : State).swapRoom b = none ∧ (roomy { heldPage with gts := 4000 }).swapDue 1 b = true ∧
      (roomy { heldPage with gts := 4000 }).swapRoom b = some 0x4000000 ∧ heldPage.awaitsMoved (heldPage.teamOf b) = false ∧ (Map.keys heldPage.blocks).Nodup ∧
      b.ended = false ∧ b.gone = false ∧ ∀ e ∈ heldPage.teamOf b, e.2.vf = b.vf) ∧
    (∃ b, (roomy ready).block? 1 = some b ∧ (roomy ready).teamReady ((roomy ready).teamOf b) = true ∧
      (ready.cratePlace (ready.teamOf b) b = none ∧ ready.teamReady (ready.teamOf b) = true) ∧
      ((roomy ready).awaitsMoved ((roomy ready).teamOf b) = false ∧ (Map.keys (roomy ready).blocks).Nodup ∧ b.ended = false ∧ b.gone = false ∧
        ∀ e ∈ (roomy ready).teamOf b, e.2.vf = b.vf) ∧ (roomy ready).cratePlace ((roomy ready).teamOf b) b = some 0x4000000) := by
  refine ⟨⟨_, List.mem_singleton.2 rfl, rfl⟩, rfl, by decide +kernel, ?_, ⟨_, rfl, by decide +kernel, by decide +kernel, by decide +kernel, by decide +kernel⟩,
    ⟨_, rfl, by decide +kernel⟩, ⟨_, rfl, by decide +kernel, by decide +kernel⟩,
    ⟨_, rfl, by and_intros <;> decide +kernel⟩,
    ⟨_, rfl, by decide +kernel, by decide +kernel, ⟨by decide +kernel, by decide +kernel, rfl, rfl, by decide +kernel⟩, by decide +kernel⟩⟩
  intro bits h
  simp only [List.mem_cons, List.not_mem_nil, or_false] at h
  rcases h with rfl | rfl
  · exact ⟨rfl, by decide +kernel, _, rfl, rfl, rfl, rfl, rfl, by decide, by decide, by decide +kernel, by decide +kernel⟩
  · exact ⟨rfl, by decide +kernel, _, rfl, rfl, rfl, rfl, rfl, by decide, by decide, by decide +kernel, by decide +kernel⟩

/-! The launch path: a queue of two launches whose kernels may be spliced, a thread's store of a register to the producer's port and the
consumer's load of it. -/
def nyWord (op d1 bits : Nat) : Nat := field op 51 13 + field d1 32 13 + bits
def nyExt (rd ra rb low : Nat) : List Nat := [0xFFF8000000000000, field rd 56 8 + field ra 48 8 + field rb 40 8 + field 240 32 8 + low]
def nyLoopOf (body : List Nat) : List Nat := [nyWord 0x045 0 0] ++ nyExt 0 240 240 1 ++ [nyWord nyLoop 1 0] ++ body ++ [nyWord nyEnd 0 0, nyWord 0xC15 0 0]
def producer : List Nat := nyLoopOf ([nyWord 0x045 0 0] ++ nyExt 0 240 240 7 ++ [nyWord 0x811 1 0x20] ++ nyExt 1 240 192 0x40000)
def consumer : List Nat := nyLoopOf ([nyWord 0x810 0 0x20] ++ nyExt 1 192 240 0x40000)
/-- A loaded kernel: its header, and its stream 256 bytes above. -/
def loadedAt (pa : Nat) : BitVec 1024 :=
  BitVec.ofNat 1024 (field (pa + 0x400) 0 64 + field (pa + 0x108) 192 64 + field 8 256 8 + field 8 264 8 + field (pa + 0x80) 448 64)
def putKernel (s : State) (pa : Nat) (ws : List Nat) : State :=
  (s.setBytes pa (toBytesLE 128 (loadedAt pa).toNat)).setBytes (pa + 0x100) ((ws.length :: ws).flatMap (toBytesLE 8))
def recordOf (pa bits : Nat) : BitVec 1024 := BitVec.ofNat 1024 (pa + field 0x500000 64 64 + bits)
def first : Launch := { queue := 0, seq := 40, ring := 0, record := some (recordOf 0x10E000 0), header := loadedAt 0x10E000, vf := 0, stage := 1 }
def second (bits : Nat) : Launch := { queue := 0, seq := 41, ring := 1, record := some (recordOf 0x10E800 bits), vf := 0 }
def bare : State := { State.reset.withWord 0 with blocks := [], launches := [], l2tlb := [(0, [placedEntry])], headers := [⟨0, 0x10E000⟩, ⟨0, 0x10E800⟩] }
def kernels : State := putKernel (putKernel bare 0x10E000 producer) 0x10E800 consumer
def line (ls : Map Launch) : State := { kernels with launches := ls }
/-- The pair with SPLLEN 0, and with a page of splice cache. -/
def pairOf (bits : Nat) : State := line [(1, first), (2, second bits)]
def pairRoom : State := ((pairOf (2 ^ 235)).setReg .splbase 0 0x300000).setReg .spllen 0 0x1000

theorem witness_LaunchPath_entries :
    (g1.reg .qcfg 0).toNat.testBit 3 = false ∧ natBit (g12.reg .qcfg 0).toNat 3 = true ∧ natBits (g12.reg .qcfg 0).toNat 57 52 = 0 ∧
    ¬ (ringSize (g12.reg .qcfg 0).toNat - 1 < 0 + (1 + ringSize (g12.reg .qcfg 0).toNat - 0) % ringSize (g12.reg .qcfg 0).toNat) ∧
    (g12.queue 0).tail < ringSize (g12.reg .qcfg 0).toNat ∧ (g12.queue 0).accepted < 2 ^ 56 ∧
    (1 + ringSize (g12.reg .qcfg 0).toNat - (g12.queue 0).tail) % ringSize (g12.reg .qcfg 0).toNat = 1 ∧
    ¬ ((1 : Nat) = 0 ∨ natBits (g12.reg .qcfg 0).toNat 57 52 = 1) ∧ natBit ((g12.setReg .qstat 0 2).reg .qstat 0).toNat 1 = true := by decide +kernel

/-- A head whose predecessor is open, one whose header is not loaded, one that fails check 3, and one that passes. -/
theorem witness_LaunchPath_head :
    (let s := line [(1, { first with stage := 4 }), (2, second (2 ^ 235))]
     natBit (s.reg .qstat 0).toNat 1 = false ∧ s.nextHead 0 = some (2, second (2 ^ 235)) ∧ (second (2 ^ 235)).hold = none ∧ (second (2 ^ 235)).failed = none ∧
     (recordOf 0x10E800 (2 ^ 235)).getLsbD 235 = true ∧ s.predecessorOpen (second (2 ^ 235)) = true) ∧
    (line []).headerAt (second 0) (recordOf 0x400000 0) = .fail 0x080 0x400000 0 0 ∧
    (tables (0x40000000 + 2 ^ 56)).headerAt { second 0 with vf := 1 } (recordOf 0 0) = .wait ∧
    (let s := line [(2, second 0)]
     s.nextHead 0 = some (2, second 0) ∧ s.headerAt (second 0) (recordOf 0x10E800 0) = .ok 0x10E800 placedEntry [] ∧
     s.useTrans ((second 0).tctx (recordOf 0x10E800 0)) placedEntry [] = s ∧ s.loadedAt 0 0x10E800 = true ∧ (recordOf 0x10E800 0).getLsbD 235 = false ∧
     ({ s with headers := [] } : State).loadedAt 0 0x10E800 = false ∧ recBits (recordOf 0x10E800 0) 511 455 = 0 ∧
     s.recordCheck 0 (recordOf 0x10E800 0) (s.record 0x10E800) = none ∧
     s.recordCheck 0 (recordOf 0x10E800 (2 ^ 222)) (s.record 0x10E800) = some 0x1D0 ∧
     s.recordCheck 0 (recordOf 0x10E800 (field 1024 128 32 + field 65535 160 16 + field 65535 176 16)) (s.record 0x10E800) = some 0x1D1) := by
  refine ⟨by decide +kernel, by decide +kernel, by decide +kernel, by decide +kernel⟩

/-- No successor; one without DEP; one with FUSE cleared by bit 236; one that finds no room; and one that is spliced. -/
theorem witness_LaunchPath_splice :
    (let s := line [(1, first)]
     Map.findBy (fun _ l => l.queue == 0 && l.stage == 1) s.launches = some (1, first) ∧
     Map.findBy (fun _ l => l.queue == 0 && l.seq == first.seq + 1 && l.stage == 0 && l.failed.isNone) s.launches = none) ∧
    (∀ bits ∈ [0, 2 ^ 235, 2 ^ 235 + 2 ^ 236], Map.findBy (fun _ l => l.queue == 0 && l.stage == 1) (pairOf bits).launches = some (1, first) ∧
      Map.find? (pairOf bits).launches 1 = some first ∧
      Map.findBy (fun _ l => l.queue == 0 && l.seq == first.seq + 1 && l.stage == 0 && l.failed.isNone) (pairOf bits).launches = some (2, second bits) ∧
      Map.find? (pairOf bits).launches 2 = some (second bits)) ∧
    ((recordOf 0x10E800 0).getLsbD 235 = false ∧ (recordOf 0x10E800 (2 ^ 235 + 2 ^ 236)).getLsbD 235 = true ∧
      (recordOf 0x10E800 (2 ^ 235 + 2 ^ 236)).getLsbD 236 = true ∧ pairRoom.launches = (pairOf (2 ^ 235)).launches) ∧
    ((pairOf (2 ^ 235)).spliceChecks first (second (2 ^ 235)) (recordOf 0x10E000 0) (recordOf 0x10E800 (2 ^ 235))).1 = 11 + 1 := by decide +kernel
theorem witness_LaunchPath_spliced : (pairRoom.spliceChecks first (second (2 ^ 235)) (recordOf 0x10E000 0) (recordOf 0x10E800 (2 ^ 235))).1 = 0 ∧
    (pairRoom.spliceChecks first (second (2 ^ 235)) (recordOf 0x10E000 0) (recordOf 0x10E800 (2 ^ 235))).2.any (fun x =>
      decide (Map.find? x.2.launches 1 = some first)) = true := by decide +kernel

/-- A launch ready for its blocks, and nothing to place. -/
def placing : State := line [(1, { first with stage := 3 })]
theorem witness_LaunchPath_distributor : bare.choose bare.cands = none ∧
    (placing.choose placing.cands).any (fun x => decide (placing.cands = [x.1])) = true := by decide +kernel

/-- A block whose one thread has exited; the same in a quad team with a mate. -/
def doneBlock (bits : Nat) : State := (inMode bits).modThread 1 0 0 (fun t => { t with st := .exited })
def mates : State := let s := doneBlock (2 ^ 239)
  { s with blocks := s.blocks ++ s.blocks.map (fun e => (2, { e.2 with index := 1 })) }
theorem witness_LaunchPath_retire :
    (∃ b, g1.block? 1 = some b ∧ g1.mayRetire 1 b = false) ∧
    (∃ b, (doneBlock 0).block? 1 = some b ∧ (doneBlock 0).mayRetire 1 b = true ∧ (doneBlock 0).preempts = [] ∧ recQuad b.record = false ∧
      (Map.find? (doneBlock 0).launches b.launch).isSome = true) ∧
    (∃ b, mates.block? 1 = some b ∧ mates.mayRetire 1 b = true ∧ recQuad b.record = true ∧
      ∃ e ∈ mates.blocks, e.1 ≠ 1 ∧ e.2.launch = b.launch ∧ e.2.team = b.team ∧ e.2.gone = false) :=
  ⟨⟨_, rfl, by decide +kernel⟩, ⟨_, rfl, by decide +kernel, rfl, by decide +kernel, by decide +kernel⟩,
    ⟨_, rfl, by decide +kernel, by decide +kernel, _, List.mem_cons_of_mem _ (List.mem_singleton.2 rfl), by decide, rfl, rfl, rfl⟩⟩

/-- A launch that completes out of turn, and one whose turn it is. -/
def placedAll : Launch := { first with stage := 4, seq := 0 }
theorem witness_LaunchPath_complete :
    (∀ l ∈ [{ first with stage := 4 }, placedAll], Map.findBy (fun _ x => x.queue == 0 && x.seq == l.seq) (line [(1, l)]).launches = some (1, l) ∧
      (line [(1, l)]).mayComplete 1 l = true) ∧
    (line [(1, { first with stage := 4 })]).queue 0 = {} ∧ first.seq ≠ 0 ∧ placedAll.seq = ((line [(1, placedAll)]).queue 0).done ∧ placedAll.joined = none ∧
    ((line [(1, { first with stage := 4 })]).queue 0).owed = [] ∧ ((line [(1, placedAll)]).queue 0).doneHold = none ∧
    Map.findBy (fun _ x => x.queue == 0 && x.stage == 5 && x.seq == 0) (line [(1, { first with stage := 4 })]).launches = none ∧
    natBits ((line [(1, placedAll)]).reg .qdone 0).toNat 51 3 = 0 ∧ ∀ e ∈ (line [(1, placedAll)]).launches, e.2.queue = 0 → e.1 = 1 := by decide +kernel

theorem witness_LaunchPath_newBlock : first.record = some (recordOf 0x10E000 0) ∧ first.joined = none ∧
    ((bare.newBlock 1 first 0 ⟨0, 0, [(0, 0)]⟩).crews.length = 1 ∧ (Map.find? (bare.newBlock 1 first 0 ⟨0, 0, [(0, 0)]⟩).crews 0).isSome = true) := by decide +kernel

/-- A native image of one EXIT, its request, and a state in which it is queued. -/
def imageWords (code : Nat) : List Nat := [1 + 2 ^ 32 + 33 * 2 ^ 34, 128, 8, 0, 0, 0, 0, 136, 0, 0, 0, 0, 0, 0, 0, 0, code, 0, 0, 0, 0, 8 + 48 * 256, 0, 0, 0, 0, 0, 0, 0, 0, 0, 0, 0]
def requestWords (image code hdr : Nat) : List Nat := [image, code, 4096, hdr]
def loading (image code hdr word : Nat) : State :=
  { ((({ State.reset with dies := [0, 1, 2, 3, 4, 5] } : State).setBytes 0x200000 ((requestWords image code hdr).flatMap (toBytesLE 8))).setBytes 0x210000 ((imageWords word).flatMap (toBytesLE 8))) with
    loads := [⟨0, 0x200000⟩] }
/-- Its bytes are read, its code and header can be written, and it holds the load's answer; the outcome of the build. -/
def loads (image code hdr word : Nat) : Bool × Bool × Option (Nat × Nat) :=
  let s := loading image code hdr word
  let r := s.num 0x200000 64
  let ctx : TCtx := ⟨0, none, none, 0⟩
  match s.span ctx 0 (natBits r 63 0) 128 with
  | .ok head => match s.span ctx 0 (natBits r 63 0) (natBits (ofBytesLE (s.readSpan head)) 63 34 * 8), s.span ctx 1 (natBits r 127 64) (natBits r 159 128),
      s.span ctx 1 (natBits r 255 192) 128 with
    | .ok cs, .ok _, .ok _ => match buildImage (s.readSpan cs) (natBits r 127 64) (natBits r 159 128) with
      | .ok _ => (true, true, none)
      | .error e => (true, true, some e)
    | .ok _, _, _ => (true, false, none)
    | _, _, _ => (false, false, none)
  | _ => (false, false, none)

/-- Requests that drop and that do not; an image out of reach, one that is loaded, one whose code does not begin a page, one with an illegal word; a
request whose page is on the move. What a native image's live lists name is free (log 28). -/
theorem witness_LoaderAndPartitions_load :
    (areaOk (natBits cellarTop 51 6 * 64) 64 = false ∧ areaOk (natBits 0x200000 51 6 * 64) 64 = true) ∧ State.reset.loads = [] ∧
    translate (tables (0x40000000 + 2 ^ 56)) (ipaCtx 1) 0 0 = .wait ∧
    (∀ im ∈ [0x210000, cellarTop], (loading im 0x220000 0x230000 0).loads = [⟨0, 0x200000⟩] ∧
      (match translate (loading im 0x220000 0x230000 0) (ipaCtx 0) 0x200000 0 with
        | .ok pa _ _ => decide (pa + 64 ≤ cellarTop)
        | _ => false) = true ∧
      (match translate (loading im 0x220000 0x230000 0) (ipaCtx 0) 0x200000 1 with
        | .ok _ _ _ => true
        | _ => false) = true) ∧
    (loading cellarTop 0x220000 0x230000 0).span ⟨0, none, none, 0⟩ 0 cellarTop 128 = .fail 0 ∧
    loads 0x210000 0x220000 0x230000 0xB054000000000000 = (true, true, none) ∧
    loads 0x210000 0x220000 0x230000 0xB054000000000001 = (true, true, some (0x1CA, 0)) ∧
    loads 0x210000 0x220008 0x230000 0xB054000000000000 = (true, true, none) ∧ 0x220008 % 4096 ≠ 0 ∧ 0x230000 % 128 = 0 := by
  and_intros <;> decide +kernel

/-- Core 0 to give its one partition to VF 1, to no function, or to divide into two; each with its counters' area. -/
def giving (v : DWord) : State := (State.reset.setReg .ctrarea 0 0x240000).modCore 0 (fun c => { c with partPend := some v })
theorem witness_LoaderAndPartitions_switch :
    (State.reset.mode 0 = 0 ∧ natBits (0x8100 &&& 0xBFBFBFBF03 : DWord).toNat 1 0 = 0 ∧ natBits (1 : DWord).toNat 1 0 = 1 ∧ natBits (3 : DWord).toNat 1 0 = 3) ∧
    State.reset.switchDue 0 0 = false ∧ [0x8100, 0, 1].all (fun v => ((giving v).core 0).partPend == some v && (giving v).switchDue 0 0) = true ∧
    (giving 0x8100).counterSlot (ownFn (partOwner 0x8100 0)) 0 0 = none ∧ ownEn (partOwner 0 0) = false ∧
    ownEn (partOwner ((giving 0).core 0).partcfg 0) = true ∧ (∀ p, p < modeParts ((giving 0).mode 0) → p = 0) ∧
    (giving 0).counterSlot (ownFn (partOwner ((giving 0).core 0).partcfg 0)) 0 0 = some 0x240000 ∧ 0x240000 + 256 ≤ cellarTop := by
  have one : ∀ p, p < modeParts ((giving 0).mode 0) → p = 0 := by
    intro p h
    have : modeParts ((giving 0).mode 0) = 1 := by decide +kernel
    omega
  and_intros
  all_goals first | exact one | decide +kernel

/-- A rerun of each class; a crew and a Loft context that hold it. -/
def rerun (run : Nat) (mismatch reached : Bool) : Rerun := ⟨run, 0, [0], mismatch, reached, 0x062, 0, 0, placedAt, 0, 0, 0⟩
def rerunning (r : Rerun) : State := g1.modCrew 1 0 (fun c => { c with rerun := some r })
def classes : List (Rerun × Nat) := [(rerun 2 false true, 1), (rerun 2 true false, 2), (rerun 3 true false, 3), (rerun 1 false true, 4)]

theorem witness_DebugAndErrors_reruns :
    (∃ b c, g1.block? 1 = some b ∧ b.ended = false ∧ b.gone = false ∧ b.killed = false ∧ (g1.core b.core).posted = [] ∧ Map.find? b.crews 0 = some c ∧
      lowLane c.core.live = some 0 ∧ c.fences = [] ∧ c.ckLanes = 0 ∧ c.rerun = none ∧ b.rerunClass 0 = none ∧
      0 < hdrScratch b.header) ∧
    (∃ b x, l1.block? 1 = some b ∧ b.ended = false ∧ b.gone = false ∧ b.killed = false ∧ (l1.core b.core).posted = [] ∧ b.loft = some x ∧ x.ckPc = 0 ∧ x.rerun = none) ∧
    (∃ b, (g1.modBlock 1 (fun b => { b with killed := true })).block? 1 = some b ∧ b.killed = true) ∧
    (classes.all (fun p => match (rerunning p.1).block? 1 with
      | some b => b.rerunClass 0 == some p.2 && ((rerunning p.1).errorInfo b 0 0x063).isSome
      | none => false)) = true ∧
    (∃ b x, (l1.modLoft 1 (fun x => { x with rerun := some (rerun 4 false false) })).block? 1 = some b ∧ b.rerunClass 64 = some 3 ∧ b.loft = some x) ∧
    (Map.keys g1.blocks).Nodup :=
  ⟨⟨_, _, rfl, rfl, rfl, rfl, rfl, rfl, by decide, rfl, rfl, rfl, rfl, by decide +kernel⟩, ⟨_, _, rfl, rfl, rfl, rfl, rfl, rfl, rfl, rfl⟩, ⟨_, rfl, rfl⟩, by decide +kernel,
    ⟨_, _, rfl, rfl, rfl⟩, by decide⟩

/-- A crew to which a stop comes; a partition sampled once in 1,024 clocks. -/
def stopping : State := g1.modCrew 1 0 (fun c => { c with stop := { due := some (10, 20), skid := 3 } })
def sampled : State := { g1.setReg .trccfg 0 0x100 with clk := 2000 }
theorem witness_DebugAndErrors_stops :
    (∃ b c, stopping.block? 1 = some b ∧ Map.find? b.crews 0 = some c ∧ c.stop.due = some (10, 20) ∧ lowLane c.core.live = some 0) ∧
    (∃ b c, g1.block? 1 = some b ∧ Map.find? b.crews 0 = some c ∧ c.stop.due = none) ∧
    g1.sampleDue 0 0 = false ∧ sampled.sampleDue 0 0 = true ∧ sampled.heldCrews 0 0 = [(0, 1, 0, 0)] ∧
    (∃ b c, g1.crew? 1 0 = some (b, c) ∧ lowLane (c.paths.headD 0 &&& (c.core.live &&& subCrew 32 0)) = some 0 ∧
      (c.core.live &&& subCrew 32 0).getLsbD 0 = true ∧ (c.thread 0).st ≠ .gate) :=
  ⟨⟨_, _, rfl, rfl, rfl, by decide⟩, ⟨_, _, rfl, rfl, rfl⟩, by decide +kernel, by decide +kernel, by decide +kernel,
    ⟨_, _, rfl, by decide +kernel, by decide +kernel, by decide +kernel⟩⟩

/-- A debugger attached to launch 0x100; its crew stopped, stopped with no thread that may run, and not stopped. -/
def halted (st : TStatus) : State := (g13.modCrew 1 0 (fun c => { c with stop := { stopped := true } })).modThread 1 0 0 (fun t => { t with st := st })
/-- Launch 0x100, with a watchpoint table at an address and without. -/
def watched (a : Nat) : Launch := { placedLaunch with seq := 1, record := some (BitVec.ofNat 1024 (placedRecord.toNat + field (a / 128) 455 57)) }
def watching (a : Nat) : State := { g13 with launches := [(1, watched a)], l2tlb := [(0, [placedEntry])] }
theorem witness_DebugAndErrors_debugger :
    (g13.reg .dbgatt 0 = 256 ∧ (256 : DWord) ≠ 0 ∧ ∃ b c, Map.find? g13.blocks 1 = some b ∧ g13.debugs 0 b = true ∧ b.ended = false ∧ Map.find? b.crews 0 = some c) ∧
    g13.crewAt 0 1 = none ∧ g13.crewAt 0 0 = some (1, 0) ∧ (∃ b c, g13.crew? 1 0 = some (b, c) ∧ c.stop.stopped = false) ∧
    (∃ b c, (halted .run).crewAt 0 0 = some (1, 0) ∧ (halted .run).crew? 1 0 = some (b, c) ∧ c.stop.stopped = true ∧ b.runnable c ≠ 0) ∧
    (∃ b c, (halted (.barWait 0)).crewAt 0 0 = some (1, 0) ∧ (halted (.barWait 0)).crew? 1 0 = some (b, c) ∧ c.stop.stopped = true ∧ b.runnable c = 0 ∧
      lowLane c.core.live = some 0) ∧
    (∀ e ∈ g1.blocks, g1.debugs 0 e.2 = false) ∧ (Map.findBy (fun _ x => g13.debugs 0 x) g13.blocks).map (fun e => (e.1, e.2.launch)) = some (1, 1) ∧
    (∀ a ∈ [0, 0x10E080], Map.findBy (fun _ x => x.vf == 0 && x.record.isSome && namesLaunch ((watching a).reg .dbgatt 0) (BitVec.ofNat 64 x.lid) x.joined.isSome) (watching a).launches
        = some (1, watched a) ∧ ((watched a).record.map (fun r => recBits r 511 455 * 128)) = some a) ∧
    (match (watched 0x10E080).record with
      | some r => (match translate (watching 0x10E080) ((watched 0x10E080).tctx r) 0x10E080 0 with
        | .ok _ _ _ => true
        | _ => false)
      | none => false) = true := by
  refine ⟨⟨by decide +kernel, by decide, _, _, rfl, by decide +kernel, rfl, rfl⟩, by decide +kernel, by decide +kernel, ⟨_, _, rfl, rfl⟩,
    ⟨_, _, by decide +kernel, rfl, rfl, by decide +kernel⟩, ⟨_, _, by decide +kernel, rfl, rfl, by decide +kernel, by decide⟩, by decide +kernel, by decide +kernel,
    by decide +kernel, by decide +kernel⟩

/-- A thread at a pod barrier with package 3. -/
def pod : State := { g1.modThread 1 0 0 (fun t => { t with st := .sbarWait 6 }) with launches := [(1, { placedLaunch with seq := 1, podWait := [3] })] }
theorem witness_PackageEvents :
    State.reset.reportDue = false ∧ (∃ t, exec (.attnonce 3 5) State.reset = .next t ∧ t.reportDue = true) ∧
    ¬ (State.reset.maint = false ∧ (State.reset.reg .devctl 0).getLsbD 0 = true ∧ ∀ e ∈ State.reset.blocks, e.2.vf = 0) ∧
    (let s := State.reset.setReg .devctl 0 1; s.maint = false ∧ (s.reg .devctl 0).getLsbD 0 = true ∧ ∀ e ∈ s.blocks, e.2.vf = 0) ∧
    ({ State.reset with maint := true } : State).maint = true ∧ State.reset.lowGear = true ∧ ({ State.reset with lowGear := false } : State).lowGear = false ∧
    (((if State.reset.lowGear then 525 else 1050) * 16 - 1050 * 0) / 16 = State.reset.mhz ∧ ((if State.reset.lowGear then 525 else 1050) * 16 - 1050 * 1) / 16 = 459) ∧
    State.reset.picks = [] ∧
    (∃ h b c th l, Map.find? pod.blocks h = some b ∧ b.ended = false ∧ b.gone = false ∧ Map.find? pod.launches b.launch = some l ∧ 3 ∈ l.podWait ∧ Map.find? b.crews 0 = some c ∧
      Map.find? c.core.threads 0 = some th ∧ th.st = .sbarWait 6) ∧
    3 ∈ ({ pod with unreachable := [3] } : State).unreachable ∧ 3 ∉ pod.unreachable ∧
    (Map.findBy (fun _ x => BitVec.ofNat 64 x.lid == (256 : DWord)) pod.launches).map Prod.fst = some 1 :=
  ⟨rfl, ⟨_, rfl, rfl⟩, by decide, by decide +kernel, rfl, rfl, rfl, by decide, rfl, ⟨1, _, _, _, _, rfl, rfl, rfl, rfl, by decide, rfl, rfl, rfl⟩, by decide, by decide +kernel,
    by decide +kernel⟩

/-- A thread's bundle and a Loft's that stand next; an outside event that waits, an instruction placed among the events, and one that is due. -/
def nextThread : State := State.reset.withFetchWord 64 0x0040004020300000
def nextLoft : State := State.reset.withFetchWord 64 0x404C001000000007
def iaddOf (s : State) : Option Instr :=
  match s.issuers with
  | [x] => match ((s.modCrew x.blk x.crew (fun c => { c with lastChosen := s.clk + 1 })).choosePaths x.blk x.crew) with
    | ([m], s1) => match s1.crew? x.blk x.crew, lowLane m with
      | some (b, c), some l =>
        let cur : Cursor := { blk := x.blk, crew := x.crew, lanes := m, eset := m, pc := (c.thread l).pc, npc := (c.thread l).pc }
        let s2 : State := { s1 with pre := c.core, cur := cur }
        match s2.fetch b (c.thread l).pc.toNat with
        | .words ws us => match decodeBundle b.env ws with
          | .ok [i] =>
            let g : Gang := ⟨{ cur with npc := pcMask ((c.thread l).pc.toNat + 8 * ws.length), units := ws.map slotUnit }, [i]⟩
            let r := (s2.useFetch b us).settleGang g
            if r.1.cur.eset ≠ 0 && !r.2.cur.rolled && c.stop == {} && c.nextEntry.isNone then some i else none
          | _ => none
        | _ => none
      | _, _ => none
    | _ => none
  | _ => none
def loftOf (s : State) : Option Instr :=
  match s.issuers with
  | [x] => match s.block? x.blk with
    | some b => match b.loft with
      | some y =>
        let z := { y with lastChosen := s.clk + 1 }
        let b2 := { b with loft := some z }
        let s1 : State := { s.modBlock x.blk (fun _ => b2) with
          cur := { loft := true, blk := x.blk, lanes := 1, eset := 1, pc := y.regs.pc, npc := y.regs.pc }, preL := y.regs }
        match s1.fetch b2 y.regs.pc.toNat with
        | .words ws us => match decodeBundle (b2.loftEnv (s1.useFetch b2 us) z) ws with
          | .ok [i] =>
            let s2 := s1.useFetch b2 us
            let s3 : State := { s2 with cur := { s2.cur with npc := pcMask (y.regs.pc.toNat + 8 * ws.length), units := ws.map slotUnit } }
            let s4 := (indexed [i]).foldl (fun (s : State) i => { s with cur := { s.cur with slot := i.1 } }.loftSettle i.2) s3
            if s4.cur.eset ≠ 0 && ({ s4 with cur := { s4.cur with checked := true } } : State).loft?.isSome && y.flights == [] && y.wait == .none && y.nextEntry.isNone
            then some i else none
          | _ => none
        | _ => none
      | none => none
    | none => none
  | _ => none

theorem witness_StepRunsDecodedInstruction :
    ({ State.reset with power := false } : State).power = false ∧ ({ State.reset with verified := false } : State).verified = false ∧
    State.reset.power = true ∧ State.reset.verified = true ∧ State.reset.agenda = [] ∧ due State.reset = none ∧ State.reset.issuers = [] ∧
    encodeSlot true (.thermalThrottle 1) = none ∧ State.reset.waitsBehind (.thermalThrottle 1) = none ∧
    ({ State.reset with heldWrites := [(1, [.tlbiVfStage1 1 1])] } : State).waitsBehind (.registerWrite 1 .trhead 1 0) = some 1 ∧
    encodeSlot true (.registerWrite 1 .trhead 1 0) = none ∧ (encodeSlot true (.nop 0 0)).isSome = true ∧ (due { State.reset with reportDue := true }).isSome = true ∧
    (nextThread.power = true ∧ nextThread.verified = true ∧ nextThread.agenda = [] ∧ nextThread.picks = [] ∧ due nextThread = none) ∧
    (nextLoft.power = true ∧ nextLoft.verified = true ∧ nextLoft.agenda = [] ∧ nextLoft.picks = [] ∧ due nextLoft = none) ∧
    iaddOf nextThread = some (.iadd ⟨⟨0, 0⟩, 4, 2, 3, 0, false, 0, 0, false, false, 0⟩) ∧ (loftOf nextLoft).isSome = true := by decide +kernel

theorem witness_StepKeepsMemory : Memory.wf State.reset.mem ∧ step State.reset = .next State.reset.tick := ⟨by decide, rfl⟩

/-- A debugger's step of one branch that goes to +24 records the branch's own PC, and the crew stands stopped at its target
(17 R431; the run of 20 R451). -/
theorem test_step_record :
    (match step ((State.reset.withFetchWord 64 0xB040000000003000).modCrew 1 0 (fun c => { c with stop := { stopped := true, stepping := true } })) with
      | .next t => (t.crew? 1 0).map (fun p => (t.recs.map (fun r => (natBits r.bits.toNat 511 503, natBits r.bits.toNat 255 192)),
          p.2.stop.stopped, p.2.stop.stepping, (p.2.thread 0).pc.toNat))
      | _ => none) = some ([(0x183, placedAt)], true, false, placedAt + 24) := by decide +kernel

/-- In split-2 mode a load of partition 0 does not hit a line that stands in partition 1's ways (17 R405). -/
theorem test_l1_ways_of_a_partition :
    let s := g1.modCore 0 (fun c => { c with partcfg := 1, l1 := [(l1Key 1 0x4380, ⟨7, false, false, false⟩)] })
    (s.loadL1 0 0 0 0x10E000 4 false).1 = 0 ∧ (s.loadL1 0 1 0 0x10E000 4 false).1 = 7 := by decide +kernel

end Sys2Proof.Tests
end

section
/-! SUPPORT. Numbers as unit A reads and writes them: bits, fields, elements and the fit of an exact integer (05 R105, R106). -/

namespace Sys2Proof.Machine

/-! ### Bits and fields -/

theorem natBit_eq_testBit (x i : Nat) : natBit x i = x.testBit i := by
  rw [natBit, Nat.shiftRight_eq_div_pow, Nat.testBit_eq_decide_div_mod_eq]
  rfl

theorem natBits_zero (x hi : Nat) : natBits x hi 0 = x % 2 ^ (hi + 1) := rfl

@[simp] theorem flagsOf_eq_flagsFrom (n r : Nat) (c v : Bool) : flagsOf n r c v = flagsFrom n r c v := by
  rw [flagsOf, flagsFrom, natBit_eq_testBit]
  rfl

/-! ### Integers kept modulo a power of two -/

theorem wrapNat_lt (w : Nat) (x : Int) : wrapNat w x < 2 ^ w := by
  have hpos : (0 : Int) < (2 ^ w : Nat) := by exact_mod_cast Nat.two_pow_pos w
  have hlt := Int.emod_lt_of_pos x hpos
  rw [wrapNat]
  omega

theorem wrapNat_toInt {n : Nat} (w : Nat) (x : BitVec n) : wrapNat w x.toInt = (x.signExtend w).toNat := by
  rw [BitVec.signExtend, BitVec.toNat_ofInt]
  rfl

theorem imm32_eq (imm : BitVec 28) : imm32 imm = (imm.signExtend 32).toNat := wrapNat_toInt 32 imm

/-! ### Fitting -/

theorem fit_lt (x : Int) (w : Nat) (s sat : Bool) : fit x w s sat < 2 ^ w := by
  unfold fit
  split
  · exact wrapNat_lt w _
  · split <;> exact wrapNat_lt w _

/-- The integers that w bits hold, read signed or unsigned (05 R106). -/
def InRange (w : Nat) (s : Bool) (x : Int) : Prop :=
  if s then -(2 ^ (w - 1) : Nat) ≤ x ∧ x ≤ (2 ^ (w - 1) : Nat) - 1 else 0 ≤ x ∧ x ≤ (2 ^ w : Nat) - 1

theorem clampInt_of_mem {x lo hi : Int} (h : lo ≤ x ∧ x ≤ hi) : clampInt x lo hi = x := by
  rw [clampInt, if_neg (Int.not_lt.2 h.1), if_neg (Int.not_lt.2 h.2)]

/-- Saturation does nothing to an integer in range. -/
theorem fit_of_inRange {w : Nat} {s : Bool} {x : Int} (h : InRange w s x) (sat : Bool) : fit x w s sat = fit x w s false := by
  cases sat with
  | false => rfl
  | true => cases s <;> simp_all [InRange, fit, clampInt_of_mem]

theorem toSigned_inRange {w : Nat} (hw : 0 < w) (x : Nat) : InRange w true (toSigned w x) := by
  have hlt : x % 2 ^ w < 2 ^ w := Nat.mod_lt _ (Nat.two_pow_pos w)
  have htwo := Nat.two_pow_pred_add_two_pow_pred hw
  simp only [InRange, if_true, toSigned]
  split <;> omega

theorem elem_inRange {w : Nat} (hw : 0 < w) (v e : Nat) (s : Bool) : InRange w s (elem v e w s) := by
  cases s with
  | true => exact toSigned_inRange hw _
  | false =>
    have hlt : v >>> (w * e) % 2 ^ w < 2 ^ w := Nat.mod_lt _ (Nat.two_pow_pos w)
    simp only [InRange, elem, Bool.false_eq_true, if_false]
    omega

theorem max_inRange {w : Nat} {s : Bool} {x y : Int} (hx : InRange w s x) (hy : InRange w s y) : InRange w s (max x y) := by
  rw [Int.max_def]
  split
  · exact hy
  · exact hx

theorem min_inRange {w : Nat} {s : Bool} {x y : Int} (hx : InRange w s x) (hy : InRange w s y) : InRange w s (min x y) := by
  rw [Int.min_def]
  split
  · exact hx
  · exact hy

/-! ### Elements side by side -/

theorem elems_snd_pos (w : BitVec 2) : 0 < (elems w).2 := by
  revert w; decide

/-- The widths at which an instruction has flags hold one element, of 32 or 64 bits. -/
theorem elems_snd_of_le_one {w : BitVec 2} (h : w.toNat ≤ 1) : (elems w).2 = if w == 1 then 64 else 32 := by
  revert w; decide

theorem putElems_lt (w : Nat) (xs : List Nat) : putElems w xs < 2 ^ (xs.length * w) := by
  induction xs with
  | nil => simp [putElems]
  | cons x xs ih =>
    have hx : x % 2 ^ w + 1 ≤ 2 ^ w := Nat.mod_lt _ (Nat.two_pow_pos w)
    calc x % 2 ^ w + 2 ^ w * putElems w xs < 2 ^ w * (putElems w xs + 1) := by rw [Nat.mul_add]; omega
      _ ≤ 2 ^ w * 2 ^ (xs.length * w) := Nat.mul_le_mul_left _ ih
      _ = 2 ^ ((xs.length + 1) * w) := by rw [← Nat.pow_add, Nat.add_mul, Nat.one_mul, Nat.add_comm]

theorem putElems_getD (w : Nat) (xs : List Nat) (e : Nat) : putElems w xs / 2 ^ (w * e) % 2 ^ w = xs.getD e 0 % 2 ^ w := by
  induction xs generalizing e with
  | nil => simp [putElems]
  | cons x xs ih =>
    have hpos : 0 < 2 ^ w := Nat.two_pow_pos w
    cases e with
    | zero => simp [putElems]
    | succ e =>
      rw [putElems, Nat.mul_succ, Nat.add_comm (w * e), Nat.pow_add, ← Nat.div_div_eq_div_mul, Nat.add_mul_div_left _ _ hpos,
        Nat.div_eq_of_lt (Nat.mod_lt _ hpos), Nat.zero_add, ih, List.getD_cons_succ]

theorem putElems_range {ne e : Nat} (w : Nat) (g : Nat → Nat) (he : e < ne) :
    putElems w ((List.range ne).map g) / 2 ^ (w * e) % 2 ^ w = g e % 2 ^ w := by
  rw [putElems_getD]
  simp [he]

theorem mapElems_elementwise (w : BitVec 2) (s sat : Bool) (op : Nat → Int) : Elementwise w s sat (mapElems w s sat op) op := by
  refine ⟨?_, fun e he => ?_⟩
  · simpa [mapElems] using putElems_lt (elems w).2 ((List.range (elems w).1).map (fun e => fit (op e) (elems w).2 s sat))
  · exact (putElems_range _ _ he).trans (Nat.mod_eq_of_lt (fit_lt _ _ _ _))

/-! ### Sources -/

/-- One register holds 32 bits. -/
theorem State.src_single_lt (s : State) (r : BitVec 8) (l : Nat) : s.src false r l < 2 ^ 32 := by
  unfold State.src
  split
  · decide
  · exact BitVec.isLt _

end Sys2Proof.Machine
end

section
/-! SUPPORT. How an instruction of unit A completes: one rule for each form that its meanings are written in. -/

namespace Sys2Proof.Machine

variable {s : State} {b : Block} {c : Crew}

/-- Form R of unit A completes with its function of the three sources. -/
theorem aluR_completes (h : s.gang? = some (b, c)) (x : ArgsA) {dw aw bw cw3 : Bool} {f : State → Nat → Nat → Nat → Nat → AluOut} :
    AluCompletes s (.next (aluR x dw aw bw cw3 f s)) c.core x.g x.d dw x.cw x.ci
      (fun l => f s l (s.src aw x.a l) (s.src bw x.b l) (s.src cw3 x.c l)) :=
  aluLanes_completes h x.g x.d dw x.cw x.ci _

/-- Form I of unit A writes its function of one source, and no flags. -/
theorem aluI_writesOnly (h : s.gang? = some (b, c)) (x : ArgsI) {f : Nat → Nat} :
    WritesOnly s (.next (aluI x f s)) c.core (s.active x.g) x.d 1 (fun l => f (s.src false x.a l)) none :=
  aluLanes_completes h x.g x.d false false 0 _

end Sys2Proof.Machine
end

section
/-! SUPPORT. The results and flags of the integer operations (05 R110, R113 to R116). -/

namespace Sys2Proof.Machine

/-! ### Element-wise arithmetic (05 R110) -/

theorem aluIadd_flags (w : BitVec 2) (s sat : Bool) (a b : Nat) :
    let n := (elems w).2
    (aluIadd w s sat a b).flags = flagsFrom n (aluIadd w s sat a b).val (decide (2 ^ n ≤ a % 2 ^ n + b % 2 ^ n))
      (outSigned n (toSigned n (a % 2 ^ n) + toSigned n (b % 2 ^ n))) := by
  simp [aluIadd, addCV]

theorem aluIsub_flags (w : BitVec 2) (s sat : Bool) (a b : Nat) :
    let n := (elems w).2
    (aluIsub w s sat a b).flags = flagsFrom n (aluIsub w s sat a b).val (decide (b % 2 ^ n ≤ a % 2 ^ n))
      (outSigned n (toSigned n (a % 2 ^ n) - toSigned n (b % 2 ^ n))) := by
  simp [aluIsub, subCV]

/-- The overflow of a multiply: its exact result lies outside the range that S selects (05 R107). -/
theorem mulFlags_eq (n r : Nat) (s : Bool) (x : Int) :
    let past := decide (x < (if s then -(2 ^ (n - 1) : Nat) else 0 : Int) ∨ ((if s then 2 ^ (n - 1) else 2 ^ n : Nat) : Int) ≤ x)
    mulFlags n r s x = flagsFrom n r past past := by
  cases s <;> simp [mulFlags, outSigned, outUnsigned]

/-- The lesser of two elements is in range, so that saturation leaves it alone; likewise the greater. -/
theorem aluMinMax_elementwise (w : BitVec 2) (s sat isMax : Bool) (a b : Nat) :
    Elementwise w s sat (aluMinMax w s isMax a b).val (fun e =>
      if isMax then max (elem a e (elems w).2 s) (elem b e (elems w).2 s) else min (elem a e (elems w).2 s) (elem b e (elems w).2 s)) := by
  obtain ⟨hlt, hel⟩ := mapElems_elementwise w s false
    (fun e => if isMax then max (elem a e (elems w).2 s) (elem b e (elems w).2 s) else min (elem a e (elems w).2 s) (elem b e (elems w).2 s))
  refine ⟨hlt, fun e he => (hel e he).trans (fit_of_inRange ?_ sat).symm⟩
  have ha := elem_inRange (elems_snd_pos w) a e s
  have hb := elem_inRange (elems_snd_pos w) b e s
  cases isMax with
  | true => exact max_inRange ha hb
  | false => exact min_inRange ha hb

/-- Settles O3: each operation is its exact integer operation, fitted element by element; IMIN and IMAX never leave the range. -/
theorem elementArithmetic : Obligations.ElementArithmetic := by
  intro x s b c h
  refine ⟨⟨_, aluR_completes h x, fun l => ⟨mapElems_elementwise .., fun _ => aluIadd_flags ..⟩⟩,
    ⟨_, aluR_completes h x, fun l => ⟨mapElems_elementwise .., fun _ => aluIsub_flags ..⟩⟩,
    ⟨_, aluR_completes h x, fun l => ⟨mapElems_elementwise .., fun _ => mulFlags_eq ..⟩⟩,
    ⟨_, aluR_completes h x, fun l => ⟨mapElems_elementwise .., fun _ => flagsOf_eq_flagsFrom ..⟩⟩,
    ⟨_, aluR_completes h x, fun l => ⟨aluMinMax_elementwise x.w x.s x.sat false _ _, fun _ => flagsOf_eq_flagsFrom ..⟩⟩,
    ⟨_, aluR_completes h x, fun l => ⟨aluMinMax_elementwise x.w x.s x.sat true _ _, fun _ => flagsOf_eq_flagsFrom ..⟩⟩⟩

/-! ### Exact results fitted once (05 R113, R115, R116) -/

/-- Settles O4: each result is one fit of the exact integer, or one for each element. -/
theorem exactThenFitted : Obligations.ExactThenFitted := by
  intro x s b c h
  refine ⟨⟨_, aluR_completes h x, fun l => mapElems_elementwise ..⟩,
    ⟨_, aluR_completes h x, fun l => rfl⟩,
    ⟨_, aluR_completes h x, fun l => mapElems_elementwise ..⟩,
    ⟨_, aluR_completes h x, fun l => rfl⟩,
    ⟨_, aluR_completes h x, fun l => rfl⟩⟩

/-! ### Division (05 R114) -/

section
variable {w : BitVec 2} {s : Bool} {a b : Nat} (sat rem : Bool)

theorem aluIdiv_val_of_zero (hd : elem b 0 (elems w).2 s = 0) :
    (aluIdiv w s sat rem a b).val =
      wrapNat (elems w).2 (if rem then elem a 0 (elems w).2 s else if s then -1 else (2 ^ (elems w).2 : Nat) - 1) := by
  cases rem <;> simp [aluIdiv, hd]

theorem aluIdiv_val_of_past (hs : s = true) (ha : elem a 0 (elems w).2 s = -(2 ^ ((elems w).2 - 1) : Nat))
    (hd : elem b 0 (elems w).2 s = -1) :
    (aluIdiv w s sat rem a b).val = wrapNat (elems w).2
      (if rem then 0 else if sat then (2 ^ ((elems w).2 - 1) : Nat) - 1 else -(2 ^ ((elems w).2 - 1) : Nat)) := by
  subst hs
  cases rem <;> simp [aluIdiv, ha, hd]

theorem aluIdiv_val_of_quotient (hd : elem b 0 (elems w).2 s ≠ 0)
    (hp : ¬ (s = true ∧ elem a 0 (elems w).2 s = -(2 ^ ((elems w).2 - 1) : Nat) ∧ elem b 0 (elems w).2 s = -1)) :
    (aluIdiv w s sat rem a b).val = wrapNat (elems w).2
      (if rem then (elem a 0 (elems w).2 s).tmod (elem b 0 (elems w).2 s) else (elem a 0 (elems w).2 s).tdiv (elem b 0 (elems w).2 s)) := by
  have hp' : (s && decide (elem a 0 (elems w).2 s = -(2 ^ ((elems w).2 - 1) : Nat)) && decide (elem b 0 (elems w).2 s = -1)) = false := by
    rw [Bool.eq_false_iff]
    simpa only [ne_eq, Bool.and_eq_true, decide_eq_true_eq, and_assoc] using hp
  simp only [aluIdiv, if_neg hd, hp', Bool.false_eq_true, if_false]

end

theorem natAbs_tmod_lt (a : Int) {d : Int} (hd : d ≠ 0) : (a.tmod d).natAbs < d.natAbs := by
  rw [Int.natAbs_tmod]
  exact Nat.mod_lt _ (Int.natAbs_pos.2 hd)

theorem tmod_nonpos {a : Int} (d : Int) (ha : a ≤ 0) : a.tmod d ≤ 0 := by
  have hneg := Int.tmod_nonneg d (Int.neg_nonneg_of_nonpos ha)
  rw [Int.neg_tmod] at hneg
  omega

/-- Settles O5: the quotient truncated toward zero with its remainder, outside the two cases with values of their own. -/
theorem division : Obligations.Division := by
  intro x s b c h
  refine ⟨_, aluR_completes h x, fun l => ⟨aluIdiv_val_of_zero _ _, fun _ ⟨hs, ha, hd⟩ => aluIdiv_val_of_past _ _ hs ha hd, ?_⟩⟩
  intro hd hp
  exact ⟨_, _, (Int.tdiv_mul_add_tmod _ _).symm, natAbs_tmod_lt _ hd, Int.tmod_nonneg _, tmod_nonpos _,
    aluIdiv_val_of_quotient _ _ hd hp⟩

end Sys2Proof.Machine
end

section
/-! SUPPORT. Logic, shifts, bit fields and bit counts (05 R117 to R121). -/

namespace Sys2Proof.Machine

/-! ### Logic (05 R117) -/

/-- A logic operation of the model acts on each bit below the width as a Boolean function. -/
def ActsBitwise (op : Nat) (f : Bool → Bool → Bool) : Prop :=
  ∀ a b n j, j < n → (logicOp op a b n).testBit j = f (a.testBit j) (b.testBit j)

theorem logicOp_and_bitwise : ActsBitwise 0 (fun p q => p && q) := fun a b _ j _ => Nat.testBit_and a b j

theorem logicOp_or_bitwise : ActsBitwise 1 (fun p q => p || q) := fun a b _ j _ => Nat.testBit_or a b j

theorem logicOp_xor_bitwise : ActsBitwise 2 (fun p q => p != q) := fun a b _ j _ => Nat.testBit_xor a b j

theorem logicOp_andn_bitwise : ActsBitwise 3 (fun p q => p && !q) := by
  intro a b n j hj
  have hb : b % 2 ^ n < 2 ^ n := Nat.mod_lt _ (Nat.two_pow_pos n)
  have hop : logicOp 3 a b n = a &&& (2 ^ n - (b % 2 ^ n + 1)) := by
    rw [Nat.add_comm, ← Nat.sub_sub]
    rfl
  rw [hop, Nat.testBit_and, Nat.testBit_two_pow_sub_succ hb, Nat.testBit_mod_two_pow, decide_eq_true hj, Bool.true_and, Bool.true_and]

theorem aluLogic_testBit {op : Nat} {f : Bool → Bool → Bool} (hop : ActsBitwise op f) (w : BitVec 2) (a b j : Nat) :
    (aluLogic op w a b).val.testBit j = (decide (j < (elems w).2) && f (a.testBit j) (b.testBit j)) := by
  simp only [aluLogic, Nat.testBit_mod_two_pow]
  by_cases hj : j < (elems w).2
  · rw [hop _ _ _ _ hj]
    simp [hj]
  · simp [hj]

/-- An immediate form keeps within 32 bits, since both of its operands do. -/
theorem logicOp_imm_testBit {op : Nat} {f : Bool → Bool → Bool} (hop : ActsBitwise op f)
    (hlt : ∀ {a b : Nat}, a < 2 ^ 32 → b < 2 ^ 32 → logicOp op a b 32 < 2 ^ 32) {a : Nat} (ha : a < 2 ^ 32) (imm : BitVec 28) (j : Nat) :
    (logicOp op a (imm32 imm) 32).testBit j = (decide (j < 32) && f (a.testBit j) ((imm.signExtend 32).getLsbD j)) := by
  rw [imm32_eq]
  by_cases hj : j < 32
  · rw [hop _ _ _ _ hj, decide_eq_true hj, Bool.true_and]
    rfl
  · have hpow : 2 ^ 32 ≤ 2 ^ j := Nat.pow_le_pow_right (by decide) (Nat.not_lt.1 hj)
    rw [decide_eq_false hj, Bool.false_and, Nat.testBit_lt_two_pow (Nat.lt_of_lt_of_le (hlt ha (BitVec.isLt _)) hpow)]

theorem shiftRight_mod_two (x i : Nat) : x >>> i % 2 = (x.testBit i).toNat := by
  rw [Nat.toNat_testBit, Nat.shiftRight_eq_div_pow]

/-- The row of LOP3's truth table that bit i of the operands selects (05 R117). -/
def lop3Row (a b c i : Nat) : Nat := 4 * (a.testBit i).toNat + 2 * (b.testBit i).toNat + (c.testBit i).toNat

theorem lop3Row_lt (a b c i : Nat) : lop3Row a b c i < 8 := by
  have ha := Bool.toNat_le (a.testBit i)
  have hb := Bool.toNat_le (b.testBit i)
  have hc := Bool.toNat_le (c.testBit i)
  rw [lop3Row]
  omega

theorem lop3Bits_succ (table a b c i : Nat) :
    lop3Bits table a b c (i + 1) = 2 ^ i * (table.testBit (lop3Row a b c i)).toNat + lop3Bits table a b c i := by
  simp only [lop3Bits, lop3Row, shiftRight_mod_two, Nat.mul_comm]

theorem lop3Bits_lt (table a b c n : Nat) : lop3Bits table a b c n < 2 ^ n := by
  induction n with
  | zero => simp [lop3Bits]
  | succ n ih =>
    have hmul := Nat.mul_le_mul_left (2 ^ n) (Bool.toNat_le (table.testBit (lop3Row a b c n)))
    rw [lop3Bits_succ, Nat.pow_succ]
    omega

theorem lop3Bits_testBit (table a b c n j : Nat) :
    (lop3Bits table a b c n).testBit j = (decide (j < n) && table.testBit (lop3Row a b c j)) := by
  induction n with
  | zero => simp [lop3Bits]
  | succ n ih =>
    rw [lop3Bits_succ, Nat.testBit_two_pow_mul_add _ (lop3Bits_lt ..), ih, Nat.testBit_bool_toNat]
    rcases Nat.lt_trichotomy j n with hj | rfl | hj
    · simp [hj, Nat.lt_succ_of_lt hj]
    · simp
    · rw [if_neg (by omega), decide_eq_false (by omega), decide_eq_false (by omega), Bool.false_and, Bool.false_and]

/-- LOP3's result; its table is the low eight bits of X. -/
theorem aluLop3_testBit (x : BitVec 9) (a b c j : Nat) :
    (aluLop3 (natBits x.toNat 7 0) a b c).val.testBit j = (decide (j < 32) && x.getLsbD (lop3Row a b c j)) := by
  refine (lop3Bits_testBit _ a b c 32 j).trans ?_
  rw [natBits_zero, Nat.testBit_mod_two_pow, decide_eq_true (lop3Row_lt a b c j), Bool.true_and]
  rfl

/-- Settles O6: each operation acts on each bit by itself. -/
theorem logic : Obligations.Logic := by
  intro x y z s b c h _
  refine ⟨⟨_, aluR_completes h x, fun l => aluLogic_testBit logicOp_and_bitwise _ _ _⟩,
    ⟨_, aluR_completes h x, fun l => aluLogic_testBit logicOp_or_bitwise _ _ _⟩,
    ⟨_, aluR_completes h x, fun l => aluLogic_testBit logicOp_xor_bitwise _ _ _⟩,
    ⟨_, aluR_completes h x, fun l => aluLogic_testBit logicOp_andn_bitwise _ _ _⟩,
    ⟨_, aluI_writesOnly h y, fun l => logicOp_imm_testBit logicOp_and_bitwise (fun _ hb => Nat.and_lt_two_pow _ hb) (s.src_single_lt _ l) y.imm⟩,
    ⟨_, aluI_writesOnly h y, fun l => logicOp_imm_testBit logicOp_or_bitwise Nat.or_lt_two_pow (s.src_single_lt _ l) y.imm⟩,
    ⟨_, aluI_writesOnly h y, fun l => logicOp_imm_testBit logicOp_xor_bitwise Nat.xor_lt_two_pow (s.src_single_lt _ l) y.imm⟩,
    ⟨_, aluLanes_completes h z.g z.d false z.cw z.ci _, fun l => aluLop3_testBit z.x _ _ _⟩⟩

/-! ### Shifts (05 R118) -/

theorem toSigned_neg_iff {w a : Nat} (hw : 0 < w) (ha : a < 2 ^ w) : toSigned w a < 0 ↔ a.testBit (w - 1) = true := by
  have htwo := Nat.two_pow_pred_add_two_pow_pred hw
  rw [toSigned, Nat.mod_eq_of_lt ha]
  by_cases h : 2 ^ (w - 1) ≤ a
  · have hbit := Nat.testBit_of_two_pow_le_and_two_pow_add_one_gt h (by rwa [Nat.sub_add_cancel hw])
    simp only [if_pos h, hbit, iff_true]
    omega
  · rw [if_neg h, Nat.testBit_lt_two_pow (Nat.not_le.1 h)]
    simp

theorem shiftElem_shl (w a k : Nat) : shiftElem 0 w a k =
    (if k < w then a * 2 ^ k % 2 ^ w else 0, decide (1 ≤ k ∧ k ≤ w) && a.testBit (w - k)) := by
  simp [shiftElem, Nat.shiftLeft_eq, natBit_eq_testBit]

theorem shiftElem_shr (w a k : Nat) : shiftElem 1 w a k =
    (if k < w then a / 2 ^ k else 0, decide (1 ≤ k ∧ k ≤ w) && a.testBit (k - 1)) := by
  simp [shiftElem, Nat.shiftRight_eq_div_pow, natBit_eq_testBit]

theorem shiftElem_sar {w a : Nat} (hw : 0 < w) (ha : a < 2 ^ w) (k : Nat) : shiftElem 2 w a k =
    (if k < w then wrapNat w (toSigned w a / (2 ^ k : Nat)) else if toSigned w a < 0 then 2 ^ w - 1 else 0,
      if k = 0 then false else if k ≤ w then a.testBit (k - 1) else a.testBit (w - 1)) := by
  have hsign : decide (toSigned w a < 0) = a.testBit (w - 1) := by
    rw [Bool.eq_iff_iff, decide_eq_true_iff, toSigned_neg_iff hw ha]
  simp only [shiftElem, natBit_eq_testBit, hsign]

/-- A rotation's two parts do not overlap, so that their union is their sum. -/
theorem rotate_or_eq_add {w a k : Nat} (hk : k ≤ w) (ha : a < 2 ^ w) :
    ((a <<< k) % 2 ^ w ||| a >>> (w - k)) = (a * 2 ^ k + a / 2 ^ (w - k)) % 2 ^ w := by
  have hpow : 2 ^ w = 2 ^ (w - k) * 2 ^ k := by rw [← Nat.pow_add, Nat.sub_add_cancel hk]
  have hhigh : a * 2 ^ k % 2 ^ w = a % 2 ^ (w - k) * 2 ^ k := by rw [hpow, Nat.mul_mod_mul_right]
  have hlow : a / 2 ^ (w - k) < 2 ^ k := Nat.div_lt_of_lt_mul (hpow ▸ ha)
  have hsum : a % 2 ^ (w - k) * 2 ^ k + a / 2 ^ (w - k) < 2 ^ w := by
    have hr : a % 2 ^ (w - k) + 1 ≤ 2 ^ (w - k) := Nat.mod_lt _ (Nat.two_pow_pos _)
    have hmul := Nat.mul_le_mul_right (2 ^ k) hr
    rw [Nat.add_mul, Nat.one_mul, ← hpow] at hmul
    omega
  rw [Nat.shiftLeft_eq, hhigh, ← Nat.shiftLeft_eq, Nat.shiftRight_eq_div_pow, ← Nat.shiftLeft_add_eq_or_of_lt hlow,
    ← Nat.mod_add_mod, hhigh, Nat.shiftLeft_eq, Nat.mod_eq_of_lt hsum]

theorem shiftElem_rot {w a : Nat} (hw : 0 < w) (ha : a < 2 ^ w) (k : Nat) :
    (shiftElem 3 w a k).1 = (a * 2 ^ (k % w) + a / 2 ^ (w - k % w)) % 2 ^ w := by
  simp only [shiftElem]
  split
  · next h => rw [h, Nat.pow_zero, Nat.mul_one, Nat.sub_zero, Nat.div_eq_of_lt ha, Nat.add_zero, Nat.mod_eq_of_lt ha]
  · exact rotate_or_eq_add (Nat.le_of_lt (Nat.mod_lt k hw)) ha

theorem shiftElem_rot_carry (w a k : Nat) : (shiftElem 3 w a k).2 = (decide (k % w ≠ 0) && (shiftElem 3 w a k).1.testBit 0) := by
  by_cases h : k % w = 0 <;> simp [shiftElem, natBit_eq_testBit, h]

theorem shiftElem_lt (op : Nat) {w a : Nat} (ha : a < 2 ^ w) (k : Nat) : (shiftElem op w a k).1 < 2 ^ w := by
  have hpos : 0 < 2 ^ w := Nat.two_pow_pos w
  have hright : ∀ i, a >>> i < 2 ^ w := fun i => Nat.lt_of_le_of_lt (Nat.shiftRight_le a i) ha
  match op with
  | 0 =>
    simp only [shiftElem]
    split
    · exact Nat.mod_lt _ hpos
    · exact hpos
  | 1 =>
    simp only [shiftElem]
    split
    · exact hright k
    · exact hpos
  | 2 =>
    simp only [shiftElem]
    split
    · exact wrapNat_lt w _
    · split
      · exact Nat.sub_lt hpos Nat.one_pos
      · exact hpos
  | _ + 3 =>
    simp only [shiftElem]
    split
    · exact ha
    · exact Nat.or_lt_two_pow (Nat.mod_lt _ hpos) (hright _)

/-- The amount by which element e is shifted (05 R118). -/
def shiftAmount (w : BitVec 2) (sub b e : Nat) : Nat := (if w = 1 then b else b / 2 ^ ((elems w).2 * e) % 2 ^ (elems w).2) + sub

/-- Element e of a shift: its result and its C flag. -/
def shiftedElem (op : Nat) (w : BitVec 2) (sub a b e : Nat) : Nat × Bool :=
  shiftElem op (elems w).2 (a / 2 ^ ((elems w).2 * e) % 2 ^ (elems w).2) (shiftAmount w sub b e)

section
variable (op : Nat) (w : BitVec 2) (sub a : Nat) {b : Nat} (hb : b < 2 ^ 32)
include hb

theorem aluShift_val : (aluShift op w sub a b).val =
    putElems (elems w).2 ((List.range (elems w).1).map (fun e => (shiftedElem op w sub a b e).1)) := by
  simp only [aluShift, shiftedElem, shiftAmount, Nat.mod_eq_of_lt hb, Nat.shiftRight_eq_div_pow]

theorem aluShift_flags : (aluShift op w sub a b).flags =
    flagsFrom (elems w).2 (aluShift op w sub a b).val (shiftedElem op w sub a b 0).2 false := by
  simp only [aluShift, shiftedElem, shiftAmount, flagsOf_eq_flagsFrom, Nat.mod_eq_of_lt hb, Nat.shiftRight_eq_div_pow]

theorem aluShift_elem {e : Nat} (he : e < (elems w).1) :
    (aluShift op w sub a b).val / 2 ^ ((elems w).2 * e) % 2 ^ (elems w).2 = (shiftedElem op w sub a b e).1 := by
  rw [aluShift_val op w sub a hb, putElems_range _ _ he]
  exact Nat.mod_eq_of_lt (shiftElem_lt op (Nat.mod_lt _ (Nat.two_pow_pos _)) _)

/-- The carry of a rotation is bit 0 of what it leaves, where it moves anything. -/
theorem aluShift_rot_carry : (shiftedElem 3 w sub a b 0).2 =
    (decide (shiftAmount w sub b 0 % (elems w).2 ≠ 0) && (aluShift 3 w sub a b).val.testBit 0) := by
  have he : 0 < (elems w).1 := by revert w; decide
  have hbit : (shiftedElem 3 w sub a b 0).1.testBit 0 = (aluShift 3 w sub a b).val.testBit 0 := by
    rw [← aluShift_elem 3 w sub a hb he, Nat.testBit_mod_two_pow, decide_eq_true (elems_snd_pos w), Bool.true_and, Nat.mul_zero,
      Nat.pow_zero, Nat.div_one]
  rw [← hbit]
  exact shiftElem_rot_carry ..

end

/-- Settles O7: each shift is its case of R118's table, for every amount. -/
theorem shifts : Obligations.Shifts := by
  intro x s b c h
  have hn := elems_snd_pos x.w
  have hb := s.src_single_lt x.b
  have hu : ∀ l e, s.src (x.w == 1) x.a l / 2 ^ ((elems x.w).2 * e) % 2 ^ (elems x.w).2 < 2 ^ (elems x.w).2 :=
    fun _ _ => Nat.mod_lt _ (Nat.two_pow_pos _)
  refine ⟨⟨_, aluR_completes h x, fun l => ⟨fun e he => ?_, fun _ => ?_⟩⟩, ⟨_, aluR_completes h x, fun l => ⟨fun e he => ?_, fun _ => ?_⟩⟩,
    ⟨_, aluR_completes h x, fun l => ⟨fun e he => ?_, fun _ => ?_⟩⟩, ⟨_, aluR_completes h x, fun l => ⟨fun e he => ?_, fun _ => ?_⟩⟩⟩
  · rw [aluShift_elem _ _ _ _ (hb l) he, shiftedElem, shiftElem_shl]
    rfl
  · rw [aluShift_flags _ _ _ _ (hb l), shiftedElem, shiftElem_shl]
    rfl
  · rw [aluShift_elem _ _ _ _ (hb l) he, shiftedElem, shiftElem_shr]
    rfl
  · rw [aluShift_flags _ _ _ _ (hb l), shiftedElem, shiftElem_shr]
    rfl
  · rw [aluShift_elem _ _ _ _ (hb l) he, shiftedElem, shiftElem_sar hn (hu l e)]
    rfl
  · rw [aluShift_flags _ _ _ _ (hb l), shiftedElem, shiftElem_sar hn (hu l 0)]
    rfl
  · rw [aluShift_elem _ _ _ _ (hb l) he, shiftedElem, shiftElem_rot hn (hu l e)]
    rfl
  · rw [aluShift_flags _ _ _ _ (hb l), aluShift_rot_carry _ _ _ (hb l)]
    rfl

/-! ### Bit fields (05 R119, R120) -/

theorem aluShf_val (x a b c : Nat) : (aluShf x a b c).val =
    let n := if x.testBit 5 then min (c + x % 32) 32 else (c + x % 32) % 32
    if x.testBit 6 then (a * 2 ^ 32 + b) / 2 ^ n % 2 ^ 32 else (a * 2 ^ 32 + b) * 2 ^ n % 2 ^ 64 / 2 ^ 32 := by
  simp only [aluShf, natBit_eq_testBit, Nat.shiftRight_eq_div_pow, Nat.shiftLeft_eq]

/-- BFI's mask has the field's bits. -/
theorem fieldMask_testBit (len pos n j : Nat) :
    (((2 ^ len - 1) <<< pos) % 2 ^ n).testBit j = (decide (j < n) && decide (pos ≤ j ∧ j < pos + len)) := by
  rw [Nat.testBit_mod_two_pow, Nat.testBit_shiftLeft, Nat.testBit_two_pow_sub_one, ← Bool.decide_and]
  congr 1
  exact decide_eq_decide.2 (by omega)

theorem aluBfi_testBit (w : BitVec 2) (a b c j : Nat) : (aluBfi w a b c).val.testBit j = (decide (j < (elems w).2) &&
    if b % 256 ≤ j ∧ j < b % 256 + min (b / 256 % 256) (elems w).2 then a.testBit (j - b % 256) else c.testBit j) := by
  have hm : ((2 ^ min (b / 256 % 256) (elems w).2 - 1) <<< (b % 256)) % 2 ^ (elems w).2 < 2 ^ (elems w).2 := Nat.mod_lt _ (Nat.two_pow_pos _)
  simp only [aluBfi, Nat.testBit_or, Nat.testBit_and, Nat.sub_sub]
  rw [Nat.add_comm 1, Nat.testBit_two_pow_sub_succ hm, fieldMask_testBit]
  simp only [Nat.testBit_mod_two_pow, Nat.testBit_shiftLeft]
  by_cases hj : j < (elems w).2
  · by_cases hf : b % 256 ≤ j ∧ j < b % 256 + min (b / 256 % 256) (elems w).2
    · simp [hj, hf]
    · simp [hj, hf]
  · simp [hj]

/-! ### Bit counts and permutations (05 R121) -/

theorem popcount_eq (w x : Nat) : popcount w x = ((List.range w).filter (fun j => x.testBit j)).length := by
  induction w generalizing x with
  | zero => rfl
  | succ w ih =>
    have hzero : x % 2 = (x.testBit 0).toNat := shiftRight_mod_two x 0
    have hsucc : (fun j => x.testBit j) ∘ Nat.succ = fun j => (x / 2).testBit j := funext fun j => Nat.testBit_add_one x j
    rw [popcount, ih, List.range_succ_eq_map, List.filter_cons, List.filter_map, hsucc, hzero]
    cases x.testBit 0 <;> simp [Nat.add_comm]

theorem revBits_succ (w x : Nat) : revBits (w + 1) x = 2 ^ w * (x.testBit 0).toNat + revBits w (x / 2) := by
  rw [revBits, Nat.mul_comm, ← shiftRight_mod_two x 0, Nat.shiftRight_zero]

theorem revBits_lt (w x : Nat) : revBits w x < 2 ^ w := by
  induction w generalizing x with
  | zero => simp [revBits]
  | succ w ih =>
    have hlow := ih (x / 2)
    have hmul := Nat.mul_le_mul_left (2 ^ w) (Bool.toNat_le (x.testBit 0))
    rw [revBits_succ, Nat.pow_succ]
    omega

theorem revBits_testBit (w x j : Nat) : (revBits w x).testBit j = (decide (j < w) && x.testBit (w - 1 - j)) := by
  induction w generalizing x with
  | zero => simp [revBits]
  | succ w ih =>
    rw [revBits_succ, Nat.testBit_two_pow_mul_add _ (revBits_lt w _), Nat.testBit_bool_toNat, ih, Nat.add_sub_cancel]
    rcases Nat.lt_trichotomy j w with hj | rfl | hj
    · rw [if_pos hj, ← Nat.testBit_add_one, show w - 1 - j + 1 = w - j by omega]
      simp [hj, Nat.lt_succ_of_lt hj]
    · simp
    · rw [if_neg (by omega), decide_eq_false (by omega), decide_eq_false (by omega), Bool.false_and, Bool.false_and]

/-- CLZ's count: the operand has no bit at or above n less the count, and, short of all n, has the next one. -/
theorem aluClz_val (w : BitVec 2) (a : Nat) :
    let n := (elems w).2
    let r := (aluClz w a).val
    r ≤ n ∧ a % 2 ^ n < 2 ^ (n - r) ∧ (r < n → 2 ^ (n - 1 - r) ≤ a % 2 ^ n) := by
  have hn := elems_snd_pos w
  have hlt : a % 2 ^ (elems w).2 < 2 ^ (elems w).2 := Nat.mod_lt _ (Nat.two_pow_pos _)
  simp only [aluClz]
  split
  · next h => simp [h]
  · next h =>
    have hhigh := (Nat.log2_lt h).2 hlt
    have hbelow : a % 2 ^ (elems w).2 < 2 ^ (Nat.log2 (a % 2 ^ (elems w).2) + 1) := Nat.lt_log2_self
    have hat := Nat.log2_self_le h
    generalize Nat.log2 (a % 2 ^ (elems w).2) = k at hhigh hbelow hat ⊢
    refine ⟨by omega, ?_, fun _ => ?_⟩
    · rwa [show (elems w).2 - ((elems w).2 - 1 - k) = k + 1 by omega]
    · rwa [show (elems w).2 - 1 - ((elems w).2 - 1 - k) = k by omega]

/-- The eight bytes that PRMT selects from: A's four, then B's. -/
theorem pairByte_eq {a k : Nat} (b : Nat) (ha : a < 2 ^ 32) (hk : k < 8) :
    (a + b * 2 ^ 32) >>> (8 * k) % 256 = (if k < 4 then a / 256 ^ k else b / 256 ^ (k - 4)) % 256 := by
  have hpow : ∀ m, 256 ^ m = 2 ^ (8 * m) := fun m => by rw [Nat.pow_mul]
  rw [hpow, hpow, Nat.add_comm, Nat.mul_comm b]
  refine Nat.eq_of_testBit_eq (x := _ % 2 ^ 8) (y := _ % 2 ^ 8) fun i => ?_
  rw [Nat.testBit_mod_two_pow, Nat.testBit_mod_two_pow, Nat.testBit_shiftRight, Nat.testBit_two_pow_mul_add _ ha]
  by_cases hi : i < 8
  · split
    · rw [if_pos (by omega), Nat.testBit_div_two_pow, Nat.add_comm i]
    · rw [if_neg (by omega), Nat.testBit_div_two_pow, show 8 * k + i - 32 = i + 8 * (k - 4) by omega]
  · rw [decide_eq_false hi, Bool.false_and, Bool.false_and]

/-- The byte that a selector of PRMT gives (05 R121). -/
def permutedByte (a b sel : Nat) : Nat :=
  let y := (if sel % 8 < 4 then a / 256 ^ (sel % 8) else b / 256 ^ (sel % 8 - 4)) % 256
  if sel < 8 then y else if 128 ≤ y then 255 else 0

theorem permutedByte_lt (a b sel : Nat) : permutedByte a b sel < 256 := by
  have hsign : ∀ y : Nat, (if 128 ≤ y then 255 else 0) < 256 := fun y => by split <;> decide
  simp only [permutedByte]
  split
  · exact Nat.mod_lt _ (by decide)
  · exact hsign _

theorem aluPrmt_val {a b : Nat} (ha : a < 2 ^ 32) (hb : b < 2 ^ 32) (c : Nat) :
    (aluPrmt a b c).val = putElems 8 ((List.range 4).map (fun i => permutedByte a b (c / 16 ^ i % 16))) := by
  have hsel : ∀ i, c >>> (4 * i) % 16 = c / 16 ^ i % 16 := fun i => by rw [Nat.shiftRight_eq_div_pow, Nat.pow_mul]
  have hbyte : ∀ i, (a + b * 2 ^ 32) >>> (8 * (i % 8)) % 256 = _ := fun i => pairByte_eq b ha (Nat.mod_lt i (by decide))
  simp only [aluPrmt, Nat.mod_eq_of_lt ha, Nat.mod_eq_of_lt hb, hsel, hbyte, permutedByte]

theorem aluPrmt_byte {a b : Nat} (ha : a < 2 ^ 32) (hb : b < 2 ^ 32) (c : Nat) {i : Nat} (hi : i < 4) :
    (aluPrmt a b c).val / 256 ^ i % 256 = permutedByte a b (c / 16 ^ i % 16) := by
  have hpow : 256 ^ i = 2 ^ (8 * i) := by rw [Nat.pow_mul]
  rw [aluPrmt_val ha hb, hpow]
  exact (putElems_range 8 _ hi).trans (Nat.mod_eq_of_lt (permutedByte_lt ..))

/-- Settles O8: each result by the rule of its operation, bit by bit, as a count, or byte by byte. -/
theorem fieldsAndCounts : Obligations.FieldsAndCounts := by
  intro x z s b c h _
  refine ⟨⟨_, aluLanes_completes h z.g z.d false z.cw z.ci _, fun l => aluShf_val ..⟩,
    ⟨_, aluR_completes h x, fun l => rfl⟩,
    ⟨_, aluR_completes h x, fun l => aluBfi_testBit x.w _ _ _⟩,
    ⟨_, aluR_completes h x, fun l => popcount_eq _ _⟩,
    ⟨_, aluR_completes h x, fun l => aluClz_val ..⟩,
    ⟨_, aluR_completes h x, fun l => revBits_testBit _ _⟩,
    ⟨_, aluR_completes h x, fun l i hi => aluPrmt_byte (s.src_single_lt _ l) (s.src_single_lt _ l) _ hi⟩⟩

end Sys2Proof.Machine
end

section
/-! SUPPORT. Compares, selections, moves and carries (05 R111, R112, R122 to R126). -/

namespace Sys2Proof.Machine

/-! ### Compares and selections (05 R122, R123, R126) -/

theorem aluIcmp_flags (n a b : Nat) : (aluIcmp n a b).flags =
    flagsFrom n (wrapNat n (((a % 2 ^ n : Nat) : Int) - ((b % 2 ^ n : Nat) : Int))) (decide (b % 2 ^ n ≤ a % 2 ^ n))
      (outSigned n (toSigned n (a % 2 ^ n) - toSigned n (b % 2 ^ n))) := by
  simp [aluIcmp, subCV]

theorem aluItst_flags (w : BitVec 2) (a b : Nat) :
    (aluItst w a b).flags = flagsFrom (elems w).2 ((a &&& b) % 2 ^ (elems w).2) false false := by
  simp only [aluItst, aluLogic, logicOp, flagsOf_eq_flagsFrom, ← Nat.and_mod_two_pow, Nat.mod_mod]

section
variable {s : State} {b : Block} {c : Crew}

/-- A cc register alone written, its flags told lane by lane. -/
theorem writeCc_writesOnly (h : s.gang? = some (b, c)) (g : Guard) (i : Nat) {k k' : Nat → Flags} (hk : ∀ l, k l = k' l) :
    WritesOnly s (.next (s.writeCc (s.active g) i k)) c.core (s.active g) 240 0 (fun _ => 0) (some (i, k')) :=
  funext hk ▸ State.writeCc_completes h g i k _

/-- A result without flags written, its values told lane by lane. -/
theorem aluLanes_writesOnly (h : s.gang? = some (b, c)) (g : Guard) (d : BitVec 8) (wide : Bool) {f : State → Nat → AluOut} {v : Nat → Nat}
    (hv : ∀ l, (f s l).val = v l) :
    WritesOnly s (.next (aluLanes g d wide false 0 f s)) c.core (s.active g) d (regCount wide) v none :=
  funext hv ▸ aluLanes_completes h g d wide false 0 f

end

/-- Settles O9: a compare writes no register, and SEL, CCRD and CCWR move what they name. -/
theorem compareAndSelect : Obligations.CompareAndSelect := by
  intro x y z s b c h hw
  refine ⟨writeCc_writesOnly h x.g _ fun l => ?_, writeCc_writesOnly h y.g _ fun l => ?_,
    writeCc_writesOnly h x.g _ fun l => aluItst_flags .., aluLanes_writesOnly h z.g z.d _ fun l => ?_,
    State.writeReg_writeCw h x.g x.d 1 _ false 0 (fun _ => 0), writeCc_writesOnly h x.g _ fun _ => rfl⟩
  · rw [aluIcmp_flags, ← elems_snd_of_le_one hw]
  · rw [aluIcmp_flags, imm32_eq, Nat.mod_eq_of_lt (BitVec.isLt _)]
  · exact apply_ite (fun r => s.src _ r l) _ _ _

/-! ### Moves and carries (05 R111, R112, R124, R125) -/

/-- The index of LEA: 32 bits extended by zeros, or at 64 bits by their sign where S asks for it. -/
theorem leaIndex_eq (w : BitVec 2) (s : Bool) {b : Nat} (hb : b < 2 ^ 32) :
    (if w = 1 then elem b 0 32 s else ((b % 2 ^ 32 : Nat) : Int)) = if w = 1 ∧ s then toSigned 32 b else (b : Int) := by
  have hmod : b % 2 ^ 32 = b := Nat.mod_eq_of_lt hb
  by_cases hw : w = 1
  · cases s with
    | true => simp only [hw, and_self, if_true]; rfl
    | false => simpa [hw, elem] using congrArg Int.ofNat hmod
  · rw [if_neg hw, if_neg (fun h => hw h.1), hmod]

theorem aluLea_val (w : BitVec 2) (s : Bool) (sub a : Nat) {b : Nat} (hb : b < 2 ^ 32) : (aluLea w s sub a b).val =
    wrapNat (elems w).2 (((a % 2 ^ (elems w).2 : Nat) : Int) + (if w = 1 ∧ s then toSigned 32 b else (b : Int)) * (2 ^ sub : Nat)) := by
  simp only [aluLea, leaIndex_eq w s hb]

theorem bit01_eq_toNat (p : Bool) : bit01 p = p.toNat := by cases p <;> rfl

theorem toNat_not (p : Bool) : (!p).toNat = 1 - p.toNat := by cases p <;> rfl

theorem aluIadc_flags (w : BitVec 2) (cin : Bool) (a b : Nat) :
    let n := (elems w).2
    (aluIadc w cin a b).flags = flagsFrom n (aluIadc w cin a b).val (decide (2 ^ n ≤ a % 2 ^ n + b % 2 ^ n + cin.toNat))
      (outSigned n (toSigned n (a % 2 ^ n) + toSigned n (b % 2 ^ n) + cin.toNat)) := by
  simp only [aluIadc, addCV, flagsOf_eq_flagsFrom, bit01_eq_toNat]

theorem aluIadc_val (w : BitVec 2) (cin : Bool) (a b : Nat) :
    (aluIadc w cin a b).val = (a % 2 ^ (elems w).2 + b % 2 ^ (elems w).2 + cin.toNat) % 2 ^ (elems w).2 := by
  simp only [aluIadc, bit01_eq_toNat]

theorem aluIsbc_flags (w : BitVec 2) (cin : Bool) (a b : Nat) :
    let n := (elems w).2
    (aluIsbc w cin a b).flags = flagsFrom n (aluIsbc w cin a b).val (decide (b % 2 ^ n + (1 - cin.toNat) ≤ a % 2 ^ n))
      (outSigned n (toSigned n (a % 2 ^ n) - toSigned n (b % 2 ^ n) - (1 - cin.toNat : Nat))) := by
  simp only [aluIsbc, subCV, flagsOf_eq_flagsFrom, bit01_eq_toNat, toNat_not]

theorem aluIsbc_val (w : BitVec 2) (cin : Bool) (a b : Nat) : (aluIsbc w cin a b).val =
    wrapNat (elems w).2 (((a % 2 ^ (elems w).2 : Nat) : Int) - ((b % 2 ^ (elems w).2 : Nat) : Int) - (1 - (cin.toNat : Int))) := by
  cases cin <;> rfl

/-- Settles O10: sums with their carries, copies, and immediates extended by their sign. -/
theorem movesAndCarries : Obligations.MovesAndCarries := by
  intro x y u low s b c h _
  refine ⟨rfl, aluI_writesOnly h y, ?_, aluI_writesOnly h y, ⟨_, aluR_completes h x, fun _ => rfl⟩,
    ⟨_, aluR_completes h x, fun l => aluLea_val _ _ _ _ (s.src_single_lt _ l)⟩,
    ⟨_, aluR_completes h x, fun l => ⟨aluIadc_val .., aluIadc_flags ..⟩⟩,
    ⟨_, aluR_completes h x, fun l => ⟨aluIsbc_val .., aluIsbc_flags ..⟩⟩⟩
  rw [← imm32_eq]
  exact aluI_writesOnly h y

end Sys2Proof.Machine
end

section
/-! SUPPORT. The crew operations over their executing sets (05 R127 to R131). -/

namespace Sys2Proof.Machine

variable {s : State} {b : Block} {c : Crew}

theorem Block.width_pos (b : Block) : 0 < b.width := by
  unfold Block.width
  split
  · decide
  · next h => exact Nat.pos_of_ne_zero h

theorem maskWords_eq (h : s.gang? = some (b, c)) : maskWords s = regCount (b.width == 64) := by
  simp only [maskWords, h, regCount, beq_iff_eq]

/-- A crew operation completes with its function of the lane's own logical crew: its first lane and its executing set. -/
theorem crewOp_completes (h : s.gang? = some (b, c)) (x : ArgsA) {n : Nat} {f : State → Nat → Nat → Lanes → Nat → AluOut} :
    let out := fun l => f s b.width (l / b.width * b.width) (s.setOf x.g (isK x.d) b.width l) l
    WritesOnly s (.next (crewOp x.g x.d n x.cw x.ci (isK x.d) f s)) c.core (s.active x.g) x.d n (fun l => (out l).val)
      (cwFlags x.cw x.ci (fun l => (out l).flags)) := by
  simp only [crewOp, h]
  exact State.writeReg_writeCw h x.g x.d n _ x.cw x.ci _

/-! ### SHFL (05 R128) -/

/-- A segment width is that of R128: a power of two up to the crew's width, else that width. -/
theorem shflSegment_eq {w v ws : Nat} (hseg : (∃ k, v = 2 ^ k) ∧ v ≤ w → ws = v) (hall : ¬ ((∃ k, v = 2 ^ k) ∧ v ≤ w) → ws = w) :
    (if 0 < v ∧ v ≤ w ∧ v = 2 ^ Nat.log2 v then v else w) = ws := by
  by_cases hv : (∃ k, v = 2 ^ k) ∧ v ≤ w
  · obtain ⟨⟨k, rfl⟩, hle⟩ := hv
    rw [if_pos ⟨Nat.two_pow_pos k, hle, by rw [Nat.log2_two_pow]⟩, hseg ⟨⟨k, rfl⟩, hle⟩]
  · rw [if_neg (fun h => hv ⟨⟨_, h.2.2⟩, h.2.1⟩), hall hv]

/-- What SHFL gives a lane whose partner in its logical crew is p, none where its segment has none. -/
def shflOut (s : State) (x : ArgsA) (base : Nat) (e : Lanes) (w l : Nat) (p : Option Nat) : AluOut :=
  let ok := match p with | some j => e.getLsbD (base + j) && decide (j < w) | none => false
  let r := s.src (x.w == 1) x.a (if ok then base + p.getD 0 else l)
  ⟨r, flagsOf (if x.w == 1 then 64 else 32) r ok false⟩

theorem shfl_completes (h : s.gang? = some (b, c)) (x : ArgsA) : CompletesA s c (.shfl x) x (x.w == 1) (fun l =>
    let base := l / b.width * b.width
    shflOut s x base (s.setOf x.g (isK x.d) b.width l) b.width l
      (shflPartner (natBits x.sub.toNat 1 0) b.width (l - base) (s.src false x.b l) (s.src false x.c l))) :=
  crewOp_completes h x

/-- A lane takes its partner's value where it has one in the executing set, and else keeps its own. -/
theorem shflOut_takes (s : State) (x : ArgsA) (base : Nat) (e : Lanes) (w l : Nat) {p : Option Nat} {ok : Prop} [Decidable ok] {j : Nat}
    (hp : p = if ok then some j else none) :
    let met := ok ∧ e.getLsbD (base + j) = true ∧ j < w
    let out := shflOut s x base e w l p
    let flags := flagsFrom (if x.w == 1 then 64 else 32) out.val
    (met → out.val = s.src (x.w == 1) x.a (base + j) ∧ out.flags = flags true false) ∧
    (¬ met → out.val = s.src (x.w == 1) x.a l ∧ out.flags = flags false false) := by
  subst hp
  refine ⟨fun ⟨hok, he, hj⟩ => ?_, fun hmet => ?_⟩
  · simp [shflOut, hok, he, hj]
  · by_cases hok : ok
    · have hset : (e.getLsbD (base + j) && decide (j < w)) = false := by
        rw [Bool.eq_false_iff, ne_eq, Bool.and_eq_true, decide_eq_true_eq]
        exact fun h => hmet ⟨hok, h⟩
      simp [shflOut, hok, hset]
    · simp [shflOut, hok]

section
variable {w v ws : Nat} (hws : (if 0 < v ∧ v ≤ w ∧ v = 2 ^ Nat.log2 v then v else w) = ws) (n b : Nat)
include hws

theorem shflPartner_idx : shflPartner 0 w n b v = if True then some (n - n % ws + b % ws) else none := by
  simp only [shflPartner, hws, if_true]

theorem shflPartner_up : shflPartner 1 w n b v = if b ≤ n % ws then some (n - b) else none := by
  have hback : n - (n - n % ws) = n % ws := Nat.sub_sub_self (Nat.mod_le n ws)
  simp only [shflPartner, hws, hback]

theorem shflPartner_down : shflPartner 2 w n b v = if n + b < n - n % ws + ws then some (n + b) else none := by
  simp only [shflPartner, hws]

theorem shflPartner_xor : shflPartner 3 w n b v = if b < ws then some (n ^^^ b) else none := by
  simp only [shflPartner, hws]

end

/-! ### VOTE and MATCH (05 R129, R130) -/

theorem laneNumbers_testBit {w : Nat} (hw : 0 < w) (base : Nat) (e : Lanes) (j : Nat) :
    (laneNumbers base w e).testBit j = (decide (j < w) && e.getLsbD (base + j)) := by
  rw [laneNumbers, natBits, Nat.testBit_mod_two_pow, Nat.testBit_shiftRight, show base + w - 1 + 1 - base = w by omega]
  rfl

theorem lanesWhere_eq_self {e : Lanes} {p : Nat → Bool} : lanesWhere e p = e ↔ ∀ j, e.getLsbD j = true → p j = true := by
  constructor
  · intro h j hj
    have hget := lanesWhere_get e p j
    rw [h, hj] at hget
    simpa using hget.symm
  · intro h
    refine BitVec.eq_of_getLsbD_eq fun j _ => ?_
    rw [lanesWhere_get, Bool.and_eq_left_iff_imp]
    exact h j

theorem lanesWhere_ne_zero {e : Lanes} {p : Nat → Bool} : lanesWhere e p ≠ 0 ↔ ∃ j, e.getLsbD j = true ∧ p j = true := by
  constructor
  · intro h
    obtain ⟨j, hj⟩ := Option.ne_none_iff_exists'.1 (mt lowLane_none.1 h)
    exact ⟨j, by simpa only [lanesWhere_get, Bool.and_eq_true] using lowLane_mem hj⟩
  · rintro ⟨j, he, hp⟩ hz
    simpa [hz, he, hp] using lanesWhere_get e p j

theorem bit01_le_one (p : Bool) : bit01 p ≤ 1 := by cases p <;> decide

theorem bit01_eq_one (p : Bool) : bit01 p = 1 ↔ p = true := by cases p <;> decide

/-- All lanes of a set agree with its lowest exactly when any two agree. -/
theorem all_eq_lowLane {e : Lanes} (f : Nat → Nat) : (laneList e).all (fun j => f j == f ((lowLane e).getD 0)) = true ↔
    ∀ j k, e.getLsbD j = true → e.getLsbD k = true → f j = f k := by
  simp only [List.all_eq_true, mem_laneList, beq_iff_eq]
  constructor
  · exact fun h j k hj hk => (h j hj).trans (h k hk).symm
  · intro h j hj
    cases hlow : lowLane e with
    | none => rw [lowLane_none.1 hlow] at hj; simp at hj
    | some k => exact h j k hj (lowLane_mem hlow)

/-- What VOTE gives every lane of an executing set, by its mode. -/
def voteVal (s : State) (x : ArgsA) (base : Nat) (e : Lanes) (w : Nat) : Nat :=
  let nz := lanesWhere e (fun j => s.src false x.a j != 0)
  match natBits x.sub.toNat 1 0 with
  | 0 => laneNumbers base w nz
  | 1 => bit01 (nz == e)
  | 2 => bit01 (nz != 0)
  | _ => bit01 ((laneList e).all (fun j => s.src false x.a j == s.src false x.a ((lowLane e).getD 0)))

section
variable {x : ArgsA} (base : Nat) (e : Lanes) (w : Nat)

theorem voteVal_ballot (hsub : x.sub = 0) :
    voteVal s x base e w = laneNumbers base w (lanesWhere e (fun j => s.src false x.a j != 0)) := by
  rw [voteVal, hsub]
  rfl

theorem voteVal_all (hsub : x.sub = 1) : voteVal s x base e w = bit01 (lanesWhere e (fun j => s.src false x.a j != 0) == e) := by
  rw [voteVal, hsub]
  rfl

theorem voteVal_any (hsub : x.sub = 2) : voteVal s x base e w = bit01 (lanesWhere e (fun j => s.src false x.a j != 0) != 0) := by
  rw [voteVal, hsub]
  rfl

theorem voteVal_uni (hsub : x.sub = 3) :
    voteVal s x base e w = bit01 ((laneList e).all (fun j => s.src false x.a j == s.src false x.a ((lowLane e).getD 0))) := by
  rw [voteVal, hsub]
  rfl

theorem voteVal_le_one (hsub : x.sub = 1 ∨ x.sub = 2 ∨ x.sub = 3) : voteVal s x base e w ≤ 1 := by
  rcases hsub with hsub | hsub | hsub
  · exact voteVal_all base e w hsub ▸ bit01_le_one _
  · exact voteVal_any base e w hsub ▸ bit01_le_one _
  · exact voteVal_uni base e w hsub ▸ bit01_le_one _

theorem voteVal_all_eq_one (hsub : x.sub = 1) : voteVal s x base e w = 1 ↔ ∀ j, e.getLsbD j = true → s.src false x.a j ≠ 0 := by
  rw [voteVal_all base e w hsub, bit01_eq_one, beq_iff_eq, lanesWhere_eq_self]
  simp only [bne_iff_ne]

theorem voteVal_any_eq_one (hsub : x.sub = 2) : voteVal s x base e w = 1 ↔ ∃ j, e.getLsbD j = true ∧ s.src false x.a j ≠ 0 := by
  rw [voteVal_any base e w hsub, bit01_eq_one, bne_iff_ne, lanesWhere_ne_zero]
  simp only [bne_iff_ne]

theorem voteVal_uni_eq_one (hsub : x.sub = 3) : voteVal s x base e w = 1 ↔
    ∀ j k, e.getLsbD j = true → e.getLsbD k = true → s.src false x.a j = s.src false x.a k := by
  rw [voteVal_uni base e w hsub, bit01_eq_one, all_eq_lowLane]

end

/-- The bits of a set of lanes that meet a test, numbered within their logical crew. -/
theorem laneNumbers_lanesWhere_testBit {w : Nat} (hw : 0 < w) (base : Nat) (e : Lanes) (p : Nat → Bool) (j : Nat) :
    (laneNumbers base w (lanesWhere e p)).testBit j = (decide (j < w) && e.getLsbD (base + j) && p (base + j)) := by
  rw [laneNumbers_testBit hw, lanesWhere_get, Bool.and_assoc]

theorem vote_completes (h : s.gang? = some (b, c)) (x : ArgsA) :
    AluCompletes s (exec (.vote x) s) c.core x.g x.d (x.sub == 0 && b.width == 64) x.cw x.ci (fun l =>
      let r := voteVal s x (l / b.width * b.width) (s.setOf x.g (isK x.d) b.width l) b.width
      ⟨r, flagsOf (if x.sub == 0 && b.width == 64 then 64 else 32) r false false⟩) := by
  have hn : (if x.sub == 0 then maskWords s else 1) = regCount (x.sub == 0 && b.width == 64) := by
    rw [maskWords_eq h]
    cases x.sub == 0 <;> rfl
  rw [AluCompletes, ← hn]
  exact crewOp_completes h x

theorem matchL_completes (h : s.gang? = some (b, c)) (x : ArgsA) :
    AluCompletes s (exec (.matchL x) s) c.core x.g x.d (b.width == 64) x.cw x.ci (fun l =>
      let r := laneNumbers (l / b.width * b.width) b.width
        (lanesWhere (s.setOf x.g (isK x.d) b.width l) (fun j => s.src (x.w == 1) x.a j == s.src (x.w == 1) x.a l))
      ⟨r, flagsOf (if b.width == 64 then 64 else 32) r false false⟩) := by
  rw [AluCompletes, ← maskWords_eq h]
  exact crewOp_completes h x

/-- Settles O11: each lane's partner by its segment, the votes of its executing set, and the lanes of it that agree. -/
theorem crewOperations : Obligations.CrewOperations := by
  intro x s b c h
  have hw := b.width_pos
  refine ⟨⟨_, shfl_completes h x, fun l _ => ?_⟩,
    ⟨_, vote_completes h x, fun l _ => ⟨fun hsub j => ?_, voteVal_le_one _ _ _, voteVal_all_eq_one _ _ _, voteVal_any_eq_one _ _ _,
      voteVal_uni_eq_one _ _ _⟩⟩,
    ⟨_, matchL_completes h x, fun l _ => laneNumbers_lanesWhere_testBit hw _ _ _⟩⟩
  · intro n v take ws hseg hall
    have hws := shflSegment_eq hseg hall
    match hmode : x.sub.toNat % 4, Nat.mod_lt x.sub.toNat (Nat.succ_pos 3) with
    | 0, _ => exact shflOut_takes s x _ _ _ l ((congrArg (shflPartner · _ _ _ _) hmode).trans (shflPartner_idx hws _ _))
    | 1, _ => exact shflOut_takes s x _ _ _ l ((congrArg (shflPartner · _ _ _ _) hmode).trans (shflPartner_up hws _ _))
    | 2, _ => exact shflOut_takes s x _ _ _ l ((congrArg (shflPartner · _ _ _ _) hmode).trans (shflPartner_down hws _ _))
    | 3, _ => exact shflOut_takes s x _ _ _ l ((congrArg (shflPartner · _ _ _ _) hmode).trans (shflPartner_xor hws _ _))
  · exact (congrArg (Nat.testBit · j) (voteVal_ballot _ _ _ hsub)).trans (laneNumbers_lanesWhere_testBit hw _ _ _ j)

end Sys2Proof.Machine
end

section
/-! SUPPORT. How an instruction of unit B completes: its registers as Wrote says, its SR sequence number, its saturation
count, and nothing else (06 R133, R137, R148). -/

namespace Sys2Proof.Machine

variable {s : State} {b : Block} {c : Crew}

/-! ### The crew and its block after its registers have changed -/

theorem State.gang?_onCrew (h : s.gang? = some (b, c)) (f : CrewCore → CrewCore) :
    (s.onCrew f).gang? =
      some (b.modCrew s.cur.crew (fun w => { w with core := f w.core }), { c with core := f c.core }) := by
  have hloft : s.cur.loft = false := by
    cases hl : s.cur.loft with
    | false => rfl
    | true => simp [State.gang?, hl] at h
  obtain ⟨hblk, hcrew⟩ := State.gang?_eq h
  simp only [State.block?] at hblk
  simp [State.gang?, State.crew?, State.block?, State.onCrew, State.modCrew, State.modBlock, Block.modCrew, hloft, hblk, hcrew]

/-- Counting and changing a crew's registers do not meet. -/
theorem State.count_onCrew (s : State) (f : CrewCore → CrewCore) (core part ev arg n : Nat) :
    (s.onCrew f).count core part ev arg n = (s.count core part ev arg n).onCrew f := by
  unfold State.count
  split
  · rfl
  · refine List.foldl_hom (fun t : State => t.onCrew f) fun t e => ?_
    split <;> rfl

/-- What does not read the cores is after counting as it was. -/
theorem State.count_keeps {α : Type} (g : State → α) (hg : ∀ (t : State) (k : Map CoreState), g { t with cores := k } = g t)
    (s : State) (core part ev arg n : Nat) : g (s.count core part ev arg n) = g s :=
  (hg _ s.cores).symm.trans (congrArg g (State.count_rest s core part ev arg n))

/-! ### The end of an instruction: its saturations counted, its number advanced -/

theorem State.countSat_eq (h : s.gang? = some (b, c)) (d : BitVec 8) (k : Nat) :
    s.countSat d k = s.count b.core b.part 0x08 0 (if inShadowRange b d then 0 else k) := by
  simp only [State.countSat, h]

@[simp] theorem State.countSat_zero (s : State) (d : BitVec 8) : s.countSat d 0 = s := by
  unfold State.countSat
  split
  · rfl
  · rw [ite_self, State.count_zero]

theorem State.advanceSrn_eq (h : s.gang? = some (b, c)) (d : BitVec 8) (m : Lanes) (rm : Nat) :
    s.advanceSrn d m rm = if srAdvances b m d rm then s.onCrew (fun p => p.advanced m s.pre.srn) else s := by
  simp only [State.advanceSrn, h, srAdvances, CrewCore.advanced, Bool.and_eq_true, decide_eq_true_eq, bne_iff_ne, and_assoc]

/-- What has written a result and its flags, then counted and advanced, has rounded. -/
theorem WritesOnly.rounds (h : s.gang? = some (b, c)) {t : State} {p : CrewCore} {m : Lanes} {d : BitVec 8} {n : Nat} {f : Nat → Nat}
    {g : Option (Nat × (Nat → Flags))} (hw : WritesOnly s (.next t) p m d n f g) (k rm : Nat) :
    RoundsOnly s (.next ((t.countSat d k).advanceSrn d m rm)) b p m d n f g (srAdvances b m d rm) (if inShadowRange b d then 0 else k) := by
  obtain ⟨q, ht, hq, -⟩ := hw
  cases ht
  let u := s.count b.core b.part 0x08 0 (if inShadowRange b d then 0 else k)
  let r := if srAdvances b m d rm then q.advanced m s.pre.srn else q
  have hcount : (s.onCrew (fun _ => q)).countSat d k = u.onCrew (fun _ => q) :=
    (State.countSat_eq (State.gang?_onCrew h (fun _ => q)) d k).trans (State.count_onCrew ..)
  have hgang : u.gang? = some (b, c) := (State.count_keeps State.gang? (fun _ _ => rfl) ..).trans h
  have hend : (u.onCrew (fun _ => q)).advanceSrn d m rm = u.onCrew (fun _ => r) := by
    rw [State.advanceSrn_eq (State.gang?_onCrew hgang _), State.onCrew_onCrew, State.onCrew_pre,
      State.count_keeps State.pre fun _ _ => rfl]
    exact (apply_ite (fun r => u.onCrew (fun _ => r)) _ _ _).symm
  rw [hcount, hend]
  exact ⟨q, _, rfl, hq, State.count_keeps (fun t => { t.onCrew (fun _ => r) with cores := s.cores }) (fun _ _ => rfl) .., rfl,
    fun a => State.count_keeps (State.byte · a) (fun _ _ => rfl) ..⟩

/-! ### The forms that the meanings of unit B are written in -/

theorem cvtLanes_rounds (h : s.gang? = some (b, c)) (x : ArgsR) (wide : Bool) (rm : Nat)
    (f : State → Nat → (Nat → Nat) → AluOut × Nat) :
    let out := fun l => f s l (s.laneRandom x.d l)
    RoundsOnly s (.next (cvtLanes x wide rm f s)) b c.core (s.active x.g) x.d (regCount wide) (fun l => (out l).1.val)
      (cwFlags x.cw x.ci (fun l => (out l).1.flags)) (srAdvances b (s.active x.g) x.d rm)
      (if inShadowRange b x.d then 0 else ((laneList (s.active x.g)).map (fun l => (out l).2)).sum) :=
  (State.writeReg_writeCw h x.g x.d _ _ x.cw x.ci _).rounds h _ rm

/-- Form R of unit B saturates nothing that is counted. -/
theorem fpR_rounds (h : s.gang? = some (b, c)) (x : ArgsB) (wide : Bool) (f : (Nat → Nat) → Nat → Nat → Nat → AluOut) :
    let out := fun l => f (s.laneRandom x.d l) (s.src wide x.a l) (s.src wide x.b l) (s.src wide x.c l)
    RoundsOnly s (.next (fpR x wide f s)) b c.core (s.active x.g) x.d (regCount wide) (fun l => (out l).val)
      (cwFlags x.cw x.ci (fun l => (out l).flags)) (srAdvances b (s.active x.g) x.d x.rm.toNat) 0 := by
  intro out
  have hr := (State.writeReg_writeCw h x.g x.d (regCount wide) (fun l => (out l).val) x.cw x.ci
    (fun l => (out l).flags)).rounds h 0 x.rm.toNat
  rwa [ite_self, State.countSat_zero] at hr

end Sys2Proof.Machine
end

section
/-! SUPPORT. The relation of two values as flags, and the guard conditions after it (06 R135, R142, R143). -/

namespace Sys2Proof.Machine

/-- The order and the equality of two values decide between the four relations as the cross-multiplied numerators do. -/
theorem relFlags_eq_relation (x y : Val) : relFlags x y = x.relation y := by
  cases x with
  | nan => rfl
  | inf s =>
    cases y with
    | nan => rfl
    | inf t => revert s t; decide
    | fin t m e => cases s <;> simp [relFlags, Val.relation, Val.isNan, Val.eqv, Val.lt, Val.isZero]
  | fin s n d =>
    cases y with
    | nan => rfl
    | inf t => cases t <;> simp [relFlags, Val.relation, Val.isNan, Val.eqv, Val.lt, Val.isZero]
    | fin t m e =>
      by_cases hzero : n = 0 ∧ m = 0
      · obtain ⟨rfl, rfl⟩ := hzero
        simp [relFlags, Val.relation, Val.isNan, Val.eqv, Val.isZero]
      · have hzero' : ¬ (m = 0 ∧ n = 0) := fun h => hzero h.symm
        have hboth : (decide (n = 0) && decide (m = 0)) = false := by simpa using hzero
        simp only [relFlags, Val.relation, Val.isNan, Val.eqv, Val.lt, Val.isZero, if_neg hzero, if_neg hzero', hboth]
        generalize (if s = true then -((n * e : Nat) : Int) else (n * e : Nat)) = a
        generalize (if t = true then -((m * d : Nat) : Int) else (m * d : Nat)) = b
        rcases Int.lt_trichotomy a b with h | h | h
        · simp [h]
        · simp [h]
        · simp [h, Int.lt_asymm h, (Int.ne_of_lt h).symm]

theorem resultFlags_eq (f : Fmt) (code : Nat) : resultFlags f code = (f.decode code).relation (.fin false 0 1) :=
  relFlags_eq_relation _ _

/-- Two values are less, equal, greater or unordered. -/
theorem Val.relation_cases (x y : Val) :
    x.relation y = 0b1000#4 ∨ x.relation y = 0b0110#4 ∨ x.relation y = 0b0010#4 ∨ x.relation y = 0b0111#4 := by
  fun_cases Val.relation x y <;> decide

/-- Settles O16: a compare writes its relation alone, and each condition is read off the four relations' flags. -/
theorem floatComparison : Obligations.FloatComparison := by
  refine ⟨fun x s b c h => ⟨writeCc_writesOnly h x.g _ fun l => relFlags_eq_relation _ _,
    writeCc_writesOnly h x.g _ fun l => relFlags_eq_relation _ _⟩, fun x y gk hgk => ?_⟩
  rcases Val.relation_cases x y with h | h | h | h <;> rw [h] <;> revert gk <;> decide

end Sys2Proof.Machine
end

section
/-! SUPPORT. Exact products and sums (06 R134). -/

namespace Sys2Proof.Machine

/-! ### Sums with a NaN or an infinity -/

theorem Val.sum_of_nan {ts : List Val} (h : Val.nan ∈ ts) (rm : Nat) : Val.sum rm ts = .nan := by
  have hany : ts.any Val.isNan = true := List.any_eq_true.2 ⟨_, h, rfl⟩
  simp [Val.sum, hany]

theorem any_isNan_eq_false {ts : List Val} (h : Val.nan ∉ ts) : ts.any Val.isNan = false := by
  rw [List.any_eq_false]
  rintro (_ | _ | _) ht
  · exact absurd ht h
  · simp [Val.isNan]
  · simp [Val.isNan]

theorem any_beq_eq_decide (ts : List Val) (t : Val) : (ts.any (fun y => y == t)) = decide (t ∈ ts) := by
  rw [Bool.eq_iff_iff]
  simp

theorem Val.sum_of_infs {ts : List Val} (ht : Val.inf true ∈ ts) (hf : Val.inf false ∈ ts) (rm : Nat) : Val.sum rm ts = .nan := by
  simp [Val.sum, ht, hf]

theorem Val.sum_of_inf {ts : List Val} {s : Bool} (hnan : Val.nan ∉ ts) (hs : Val.inf s ∈ ts) (hns : Val.inf (!s) ∉ ts) (rm : Nat) :
    Val.sum rm ts = .inf s := by
  cases s <;> simp_all [Val.sum, any_isNan_eq_false hnan]

/-! ### Sums of finite terms -/

/-- A numerator with the sign given. -/
def signedNum (s : Bool) (n : Nat) : Int := if s then -(n : Int) else n

/-- What a term adds to a sum over the denominator D: its numerator there (06 R134). -/
def Val.over (D : Nat) : Val → Int
  | .fin s n d => signedNum s n * (D / d : Nat)
  | _ => 0

/-- A quotient of a positive denominator. -/
def Val.IsQuotient (t : Val) : Prop := ∃ s n d, t = .fin s n d ∧ 0 < d

/-- The two factors bring both denominators to the common one. -/
theorem commonDen_spec {d e : Nat} (hd : 0 < d) (he : 0 < e) :
    let r := commonDen 1 d 1 e
    0 < r.2.2 ∧ r.1 * d = r.2.2 ∧ r.2.1 * e = r.2.2 := by
  unfold commonDen
  split
  · next h => simp [h, he]
  · split
    · next h => simp [hd, Nat.div_mul_cancel (Nat.dvd_of_mod_eq_zero h)]
    · split
      · next h => simp [he, Nat.div_mul_cancel (Nat.dvd_of_mod_eq_zero h)]
      · simp [hd, he, Nat.mul_comm]

/-- One term more: the sum over every common denominator grows by the term's part. -/
theorem addFrac_spec {a : Int × Nat} (ha : 0 < a.2) (s : Bool) (n : Nat) {d : Nat} (hd : 0 < d) :
    let r := addFrac a (signedNum s n, d)
    0 < r.2 ∧ ∀ (D : Nat) (S : Int), d ∣ D → a.1 * D = a.2 * S → r.1 * D = r.2 * (S + Val.over D (.fin s n d)) := by
  obtain ⟨hpos, hleft, hright⟩ := commonDen_spec ha hd
  refine ⟨hpos, fun D S hD hS => ?_⟩
  obtain ⟨k, rfl⟩ := hD
  simp only [addFrac, Val.over, Nat.mul_div_cancel_left k hd]
  generalize commonDen 1 a.2 1 d = r at hleft hright hpos ⊢
  have hl : (r.1 : Int) * a.2 = r.2.2 := by exact_mod_cast hleft
  have hr : (r.2.1 : Int) * d = r.2.2 := by exact_mod_cast hright
  push_cast at hS ⊢
  grind

/-- A sum with one finite term more. -/
def addTerm (acc : Int × Nat) : Val → Int × Nat
  | .fin s n d => addFrac acc (signedNum s n, d)
  | _ => acc

theorem sumFrac_eq_foldl (ts : List Val) : sumFrac ts = ts.foldl addTerm (0, 1) := by
  refine congrArg (fun f => ts.foldl f (0, 1)) (funext fun acc => funext fun t => ?_)
  cases t <;> rfl

/-- The sum of finite terms over any common denominator of theirs. -/
theorem sumFrac_spec {ts : List Val} (hts : ∀ t ∈ ts, t.IsQuotient) :
    0 < (sumFrac ts).2 ∧ ∀ D : Nat, (∀ t ∈ ts, ∀ s n d, t = .fin s n d → d ∣ D) →
      (sumFrac ts).1 * D = (sumFrac ts).2 * (ts.map (Val.over D)).sum := by
  rw [sumFrac_eq_foldl]
  suffices ∀ acc : Int × Nat, 0 < acc.2 →
      let r := ts.foldl addTerm acc
      0 < r.2 ∧ ∀ (D : Nat) (S : Int), (∀ t ∈ ts, ∀ s n d, t = .fin s n d → d ∣ D) → acc.1 * D = acc.2 * S →
        r.1 * D = r.2 * (S + (ts.map (Val.over D)).sum) by
    obtain ⟨hpos, hsum⟩ := this (0, 1) Nat.one_pos
    exact ⟨hpos, fun D hD => by simpa using hsum D 0 hD (by simp)⟩
  induction ts with
  | nil => exact fun acc hacc => ⟨hacc, fun D S _ hS => by simpa using hS⟩
  | cons t ts ih =>
    intro acc hacc
    obtain ⟨s, n, d, rfl, hd⟩ := hts t (by simp)
    obtain ⟨hpos, hadd⟩ := addFrac_spec hacc s n hd
    obtain ⟨hpos', hsum⟩ := ih (fun t ht => hts t (by simp [ht])) _ hpos
    refine ⟨hpos', fun D S hD hS => ?_⟩
    rw [List.map_cons, List.sum_cons, ← Int.add_assoc]
    exact hsum D _ (fun t ht => hD t (by simp [ht])) (hadd D S (hD _ (by simp) s n d rfl) hS)

/-- The sign of an exact zero: that of the terms where all are zeros of one sign, else the mode's (06 R134). -/
def zeroSign (rm : Nat) (ts : List Val) : Bool :=
  if ts.all Val.isZero && ts.all Val.isNeg then true
  else if ts.all Val.isZero && ts.all (fun t => !t.isNeg) then false
  else decide (rm = 3)

theorem Val.sum_of_quotients {ts : List Val} (hts : ∀ t ∈ ts, t.IsQuotient) (rm : Nat) :
    Val.sum rm ts = if (sumFrac ts).1 = 0 then .fin (zeroSign rm ts) 0 1
      else .fin (decide ((sumFrac ts).1 < 0)) (sumFrac ts).1.natAbs (sumFrac ts).2 := by
  have hfin : ∀ v : Val, ¬ v.IsQuotient → v ∉ ts := fun v hv h => hv (hts v h)
  have hnan : Val.nan ∉ ts := hfin _ (by rintro ⟨_, _, _, h, _⟩; cases h)
  have hinf : ∀ s, Val.inf s ∉ ts := fun s => hfin _ (by rintro ⟨_, _, _, h, _⟩; cases h)
  simp only [Val.sum, any_isNan_eq_false hnan, any_beq_eq_decide, hinf, zeroSign]
  simp only [decide_false, Bool.and_false, Bool.false_eq_true, if_false]
  split
  · split
    · rfl
    · split <;> rfl
  · rfl

theorem signedNum_natAbs (x : Int) : signedNum (decide (x < 0)) x.natAbs = x := by
  by_cases h : x < 0
  · rw [signedNum, if_pos (decide_eq_true h)]
    omega
  · rw [signedNum, decide_eq_false h, if_neg Bool.false_ne_true]
    omega

/-- All terms are zeros of the one sign. -/
def AllZeros (n : Bool) (ts : List Val) : Prop := ∀ t ∈ ts, ∃ d, t = .fin n 0 d

theorem all_zeros_iff {n : Bool} {p : Val → Bool} (hp : ∀ t : Val, (t.isNeg == n) = p t) (ts : List Val) :
    (ts.all Val.isZero && ts.all p) = true ↔ AllZeros n ts := by
  have hone : ∀ t : Val, (∃ d, t = .fin n 0 d) ↔ t.isZero = true ∧ p t = true := fun t => by
    rw [← hp]
    cases t <;> simp [Val.isZero, Val.isNeg, and_comm]
  simp only [Bool.and_eq_true, List.all_eq_true, AllZeros, hone]
  exact ⟨fun h t ht => ⟨h.1 t ht, h.2 t ht⟩, fun h => ⟨fun t ht => (h t ht).1, fun t ht => (h t ht).2⟩⟩

theorem zeroSign_spec (rm : Nat) {ts : List Val} (hne : ts ≠ []) :
    (AllZeros true ts → zeroSign rm ts = true) ∧ (AllZeros false ts → zeroSign rm ts = false) ∧
    (¬ AllZeros true ts → ¬ AllZeros false ts → zeroSign rm ts = decide (rm = 3)) := by
  have hboth : AllZeros true ts → ¬ AllZeros false ts := fun ht hf => by
    obtain ⟨t, hmem⟩ := List.exists_mem_of_ne_nil ts hne
    obtain ⟨d, hd⟩ := ht t hmem
    obtain ⟨d', hd'⟩ := hf t hmem
    cases hd.symm.trans hd'
  have hneg := all_zeros_iff (n := true) (fun t => beq_true t.isNeg) ts
  have hpos := all_zeros_iff (n := false) (fun t => beq_false t.isNeg) ts
  refine ⟨fun h => if_pos (hneg.2 h), fun h => ?_, fun ht hf => ?_⟩
  · rw [zeroSign, if_neg (mt hneg.1 (fun ht => hboth ht h)), if_pos (hpos.2 h)]
  · rw [zeroSign, if_neg (mt hneg.1 ht), if_neg (mt hpos.1 hf)]

/-- A sum of quotients is a quotient: its value over every common denominator, and the sign of an exact zero. -/
theorem Val.sum_quotient {ts : List Val} (hts : ∀ t ∈ ts, t.IsQuotient) (rm : Nat) : ∃ u k g, Val.sum rm ts = .fin u k g ∧ 0 < g ∧
    (∀ D : Nat, (∀ t ∈ ts, ∀ s n d, t = .fin s n d → d ∣ D) → signedNum u k * D = g * (ts.map (Val.over D)).sum) ∧
    (k = 0 → u = zeroSign rm ts) := by
  obtain ⟨hpos, hsum⟩ := sumFrac_spec hts
  rw [Val.sum_of_quotients hts]
  split
  · next hzero =>
    refine ⟨_, 0, 1, rfl, Nat.one_pos, fun D hD => ?_, fun _ => rfl⟩
    have hD' := hsum D hD
    rw [hzero, Int.zero_mul, eq_comm, Int.mul_eq_zero] at hD'
    simp [signedNum, hD'.resolve_left (by omega)]
  · next hzero =>
    refine ⟨_, _, _, rfl, hpos, fun D hD => ?_, fun hk => absurd (Int.natAbs_eq_zero.1 hk) hzero⟩
    rw [signedNum_natAbs, hsum D hD]

/-- Settles O13: products by the kinds of their factors, and a sum as its one quotient. -/
theorem exactProductsAndSums : Obligations.ExactProductsAndSums := by
  intro x y ts rm
  refine ⟨?_, ?_, ?_, ?_, ?_, ?_, ?_⟩
  · rintro s t n m d e rfl rfl
    rfl
  · rintro s t rfl rfl
    rfl
  · rintro s t m e rfl rfl
    exact ⟨rfl, by rw [Val.mul, Val.mul, bne_comm]⟩
  · rintro (rfl | rfl)
    · rfl
    · cases x <;> rfl
  · rintro (h | ⟨ht, hf⟩)
    · exact Val.sum_of_nan h rm
    · exact Val.sum_of_infs ht hf rm
  · exact fun s hnan hs hns => Val.sum_of_inf hnan hs hns rm
  · intro hts
    obtain ⟨u, k, g, hsum, hg, hover, hzero⟩ := Val.sum_quotient hts rm
    refine ⟨u, k, g, hsum, hg, hover, fun hk hne => ?_⟩
    rw [hzero hk]
    exact zeroSign_spec rm hne

end Sys2Proof.Machine
end

section
/-! SUPPORT. Arithmetic and selections of unit B (06 R132, R133, R138 to R141). -/

namespace Sys2Proof.Machine

variable {s : State} {b : Block} {c : Crew}

/-! ### A result of one element, and a packed pair -/

/-- A result with the flags of its relation to +0 completes, its value told lane by lane. -/
theorem fpR_completesB (h : s.gang? = some (b, c)) {i : Instr} {x : ArgsB} {wide : Bool} {f : Fmt} {v : Nat → Nat}
    {g : (Nat → Nat) → Nat → Nat → Nat → AluOut} (hi : exec i s = .next (fpR x wide g s))
    (hv : ∀ l, g (s.laneRandom x.d l) (s.src wide x.a l) (s.src wide x.b l) (s.src wide x.c l) = ⟨v l, resultFlags f (v l)⟩) :
    CompletesB s b c i x f wide v := by
  have hr := fpR_rounds h x wide g
  simp only [hv, resultFlags_eq, ← hi] at hr
  exact hr

/-- A packed pair without flags completes, each element told by its place. -/
theorem fpR_completesB2 (h : s.gang? = some (b, c)) {i : Instr} {x : ArgsB} {v : Nat → Nat → Nat}
    {g : (Nat → Nat) → Nat → Nat → Nat → AluOut} (hi : exec i s = .next (fpR x false g s))
    (hv : ∀ l, g (s.laneRandom x.d l) (s.src false x.a l) (s.src false x.b l) (s.src false x.c l) = ⟨v l 0 + v l 1 * 2 ^ 16, 0⟩) :
    CompletesB2 s b c i x v := by
  have hr := fpR_rounds h x false g
  simp only [hv, ← hi] at hr
  exact hr

/-! ### Arithmetic (06 R138, R139) -/

theorem div_two_pow_zero (a : Nat) : a / 2 ^ (16 * 0) = a := Nat.div_one a

theorem fpuArith_completes (h : s.gang? = some (b, c)) {i : Instr} (x : ArgsB) (op : Nat) (f : Fmt) (wide : Bool)
    (hi : exec i s = .next (fpR x wide (fpuArith op f x) s)) :
    CompletesB s b c i x f wide (fun l => fitFp f x (s.laneRandom x.d l 0)
      (fpExact op f x (s.src wide x.a l / 2 ^ (16 * 0)) (s.src wide x.b l / 2 ^ (16 * 0)) (s.src wide x.c l / 2 ^ (16 * 0)))) :=
  fpR_completesB h hi fun l => by simp only [div_two_pow_zero, fpuArith]

theorem fpuPacked_completes (h : s.gang? = some (b, c)) {i : Instr} (x : ArgsB) (op : Nat)
    (hi : exec i s = .next (fpR x false (fpuPacked op x) s)) :
    CompletesB2 s b c i x (fun l e => fitFp (halfFmt x) x (s.laneRandom x.d l e)
      (fpExact op (halfFmt x) x (s.src false x.a l / 2 ^ (16 * e)) (s.src false x.b l / 2 ^ (16 * e))
        (s.src false x.c l / 2 ^ (16 * e)))) :=
  fpR_completesB2 h hi fun l => by simp only [fpuPacked, Nat.shiftRight_eq_div_pow]

/-- Settles O14: each operation fits one exact value, element by element. -/
theorem floatArithmetic : Obligations.FloatArithmetic := by
  intro x s b c h
  refine ⟨fpuArith_completes h x 0 fp32 false rfl, fpuArith_completes h x 1 fp32 false rfl, fpuArith_completes h x 2 fp32 false rfl,
    fpuArith_completes h x 3 fp32 false rfl, fpuArith_completes h x 0 fp64 true rfl, fpuArith_completes h x 2 fp64 true rfl,
    fpuArith_completes h x 3 fp64 true rfl, fpR_completesB h rfl fun l => ?_,
    fpuPacked_completes h x 0 rfl, fpuPacked_completes h x 2 rfl, fpuPacked_completes h x 3 rfl⟩
  simp only [fpuFdp2, Nat.shiftRight_eq_div_pow, div_two_pow_zero]
  rfl

/-! ### Selections (06 R140) -/

theorem fpuMinMax_completes (h : s.gang? = some (b, c)) {i : Instr} (x : ArgsB) (isMax : Bool)
    (hi : exec i s = .next (fpR x false (fun _ p q _ => fpuMinMax isMax x p q) s)) :
    CompletesB s b c i x fp32 false (fun l =>
      minMaxElem isMax fp32 x (s.src false x.a l / 2 ^ (16 * 0)) (s.src false x.b l / 2 ^ (16 * 0))) :=
  fpR_completesB h hi fun l => by simp only [div_two_pow_zero, fpuMinMax]

theorem fpuMinMax2_completes (h : s.gang? = some (b, c)) {i : Instr} (x : ArgsB) (isMax : Bool)
    (hi : exec i s = .next (fpR x false (fun _ p q _ => fpuMinMax2 isMax x p q) s)) :
    CompletesB2 s b c i x (fun l e =>
      minMaxElem isMax (halfFmt x) x (s.src false x.a l / 2 ^ (16 * e)) (s.src false x.b l / 2 ^ (16 * e))) :=
  fpR_completesB2 h hi fun l => by simp only [fpuMinMax2, Nat.shiftRight_eq_div_pow, div_two_pow_zero, Nat.mul_one]

/-! ### FRND (06 R141) -/

theorem Fmt.flush_of_not_subnormal {f : Fmt} {code : Nat} (h : f.subnormal code = false) (fz : Bool) : f.flush fz code = code := by
  rw [Fmt.flush, h, Bool.and_false, if_neg Bool.false_ne_true]

theorem State.laneRandom_lt (s : State) (d : BitVec 8) (l sub : Nat) : s.laneRandom d l sub < 2 ^ 32 := by
  unfold State.laneRandom
  split
  · decide
  · exact BitVec.isLt _

/-- Zero rounds to zero in every mode. -/
theorem roundWhole_zero (rm : Nat) (neg : Bool) {r : Nat} (hr : r < 2 ^ 32) (d : Nat) : roundWhole rm neg r 0 d = 0 := by
  have hup : roundsUp rm neg r 0 0 d = false := by
    unfold roundsUp
    split <;> simp
    omega
  rw [roundWhole, Nat.zero_div, Nat.zero_mod, hup]
  rfl

/-- FRND's value before its flush: whole where the source is below 2^23, else the source (06 R141). -/
def Val.rounded (rm r : Nat) : Val → Val
  | .fin s n d => if n < 2 ^ 23 * d then .fin s (roundWhole rm s r n d) 1 else .fin s n d
  | v => v

theorem fitArith_zero (f : Fmt) (rm r : Nat) (s : Bool) (d : Nat) : fitArith f rm r (.fin s 0 d) = f.signed s 0 := by
  simp [fitArith, roundMag]

/-- A whole number of at least 2^23 and a zero round to themselves. -/
theorem fpuFrnd_val {x : ArgsB} (hcl : x.cl = false) {r : Nat → Nat} (hr : r 0 < 2 ^ 32) (a : Nat) :
    (fpuFrnd x r a).val = fp32.flush x.fz (exactBits fp32 (Val.rounded x.rm.toNat (r 0) (srcA fp32 x a))) := by
  simp only [fpuFrnd, hcl, Bool.false_eq_true, if_false]
  generalize srcA fp32 x a = v
  cases v with
  | nan => rfl
  | inf s => rfl
  | fin s n d =>
    refine congrArg (fp32.flush x.fz) ?_
    by_cases hlt : n < 2 ^ 23 * d
    · rcases Nat.eq_zero_or_pos n with rfl | hn
      · simp only [Val.rounded, if_pos hlt, exactBits, roundWhole_zero _ _ hr, true_or, if_true, fitArith_zero]
      · have hmoved : ¬ (n = 0 ∨ 2 ^ 23 * d ≤ n) := by omega
        simp only [Val.rounded, if_pos hlt, if_neg hmoved]
    · simp only [Val.rounded, if_neg hlt, if_pos (Or.inr (Nat.not_lt.1 hlt))]

/-- The formats of FP32, FP64, FP16 and BF16 operands. -/
theorem kindFmt_mem (k : Nat) : kindFmt k ∈ [fp32, fp64, fp16, bf16] := by
  unfold kindFmt
  split <;> simp

theorem Fmt.flush_nanCode {f : Fmt} (hf : f ∈ [fp32, fp64, fp16, bf16]) (fz : Bool) : f.flush fz f.nanCode = f.nanCode :=
  Fmt.flush_of_not_subnormal (by revert f; decide) fz

theorem Fmt.flush_infCode {f : Fmt} (hf : f ∈ [fp32, fp64, fp16, bf16]) (fz n : Bool) :
    f.flush fz (f.signed n f.infCode) = f.signed n f.infCode :=
  Fmt.flush_of_not_subnormal (by revert f n; decide) fz

/-- Settles O15: the model's choice is maximumNumber and minimumNumber, and FRND's zeros and whole numbers stay as they are. -/
theorem floatSelections : Obligations.FloatSelections := by
  intro x s b c h
  refine ⟨?_, ?_, ?_, ?_, fun l => (fpuFrnd x (s.laneRandom x.d l) (s.src false x.a l)).val, fpR_completesB h rfl fun _ => rfl,
    fun l hcl => ?_⟩
  · exact fpuMinMax_completes h x false rfl
  · exact fpuMinMax_completes h x true rfl
  · exact fpuMinMax2_completes h x false rfl
  · exact fpuMinMax2_completes h x true rfl
  · have hval := fpuFrnd_val hcl (State.laneRandom_lt s x.d l 0) (s.src false x.a l)
    simp only [div_two_pow_zero]
    refine ⟨fun hv => ?_, fun n hv => ?_, fun n k d hv => ?_⟩ <;> rw [hv] at hval
    · exact hval.trans (Fmt.flush_nanCode (by simp) x.fz)
    · exact hval.trans (Fmt.flush_infCode (by simp) x.fz n)
    · exact hval

end Sys2Proof.Machine
end

section
/-! SUPPORT. Conversions (06 R145, R147, R148). -/

namespace Sys2Proof.Machine

variable {s : State} {b : Block} {c : Crew}

/-- Below +0 is negative and not a zero. -/
theorem Val.isNeg_eq_relation (v : Val) : (v.isNeg && !v.isZero && !v.isNan) = decide (v.relation (.fin false 0 1) = 0b1000#4) := by
  cases v with
  | nan => rfl
  | inf n => cases n <;> rfl
  | fin n k d =>
    rcases Nat.eq_zero_or_pos k with rfl | hk
    · cases n <;> simp [Val.isNeg, Val.isZero, Val.isNan, Val.relation]
    · cases n <;> simp [Val.isNeg, Val.isZero, Val.isNan, Val.relation, hk, Nat.ne_of_gt hk]

/-- As many are counted as lanes saturate. -/
theorem sum_bit01 (p : Nat → Bool) (ls : List Nat) : (ls.map (fun l => bit01 (p l))).sum = (ls.filter p).length := by
  rw [← List.countP_eq_length_filter]
  induction ls with
  | nil => rfl
  | cons l ls ih => rw [List.map_cons, List.sum_cons, ih, List.countP_cons, Nat.add_comm]; rfl

/-- A conversion completes with its result, the flags of its value and its saturation, each told lane by lane. -/
theorem cvtLanes_converts (h : s.gang? = some (b, c)) {i : Instr} (x : ArgsR) {wide : Bool} {rm : Nat}
    {g : State → Nat → (Nat → Nat) → AluOut × Nat} (hi : exec i s = .next (cvtLanes x wide rm g s))
    {q : Nat → Nat} {v : Nat → Val} {sat : Nat → Bool}
    (hg : ∀ l, g s l (s.laneRandom x.d l) = (⟨q l, convFlags (v l) (sat l)⟩, bit01 (sat l))) :
    let flags := fun l => mkFlags (decide ((v l).relation (.fin false 0 1) = 0b1000#4)) (v l).isZero (v l).isNan (sat l)
    RoundsOnly s (exec i s) b c.core (s.active x.g) x.d (regCount wide) q (cwFlags x.cw x.ci flags) (srAdvances b (s.active x.g) x.d rm)
      (if inShadowRange b x.d then 0 else ((laneList (s.active x.g)).filter sat).length) := by
  have hr := cvtLanes_rounds h x wide rm g
  simp only [hg, sum_bit01, convFlags, Val.isNeg_eq_relation, ← hi] at hr
  exact hr

/-! ### F2I -/

theorem fitInt_fin {lo hi : Int} (h : lo ≤ hi) (rm r : Nat) (s : Bool) (n d : Nat) :
    let w : Int := if s then -(roundWhole rm s r n d : Int) else roundWhole rm s r n d
    fitInt rm r lo hi (.fin s n d) = (max lo (min hi w), decide (max lo (min hi w) ≠ w)) := by
  simp only [fitInt]
  generalize (if s = true then -(roundWhole rm s r n d : Int) else roundWhole rm s r n d) = w
  split
  · next hw => simp [show max lo (min hi w) = lo by omega, (Int.ne_of_lt hw).symm]
  · split
    · next hw => simp [show max lo (min hi w) = hi by omega, Int.ne_of_lt hw]
    · simp [show max lo (min hi w) = w by omega]

/-- The fit of a value, or of its magnitude, to a range of integers. -/
theorem fitInt_clamps {lo hi : Int} (h : lo ≤ hi) (rm r : Nat) (p : Bool) (v : Val) :
    let q := fitInt rm r lo hi (if p then v.abs else v)
    (v = .nan → q.1 = 0 ∧ q.2 = true) ∧ (∀ n, v = .inf n → q.1 = (if n && !p then lo else hi) ∧ q.2 = true) ∧
    ∀ n k d, v = .fin n k d →
      let n' := n && !p
      let w : Int := if n' then -(roundWhole rm n' r k d : Int) else roundWhole rm n' r k d
      q.1 = max lo (min hi w) ∧ q.2 = decide (q.1 ≠ w) := by
  refine ⟨?_, fun n => ?_, fun n k d => ?_⟩
  · rintro rfl
    cases p <;> exact ⟨rfl, rfl⟩
  · rintro rfl
    cases p <;> cases n <;> exact ⟨rfl, rfl⟩
  · rintro rfl
    have habs : (if p then (Val.fin n k d).abs else .fin n k d) = .fin (n && !p) k d := by cases p <;> cases n <;> rfl
    simp only [habs, fitInt_fin h, and_self]

/-- The fit that F2I makes of a lane's source, and whether it saturates (06 R145). -/
def f2iFit (x : BitVec 9) (r a : Nat) : Int × Bool :=
  let v := srcVal (if x.getLsbD 4 then fp64 else fp32) (x.getLsbD 0) a
  fitInt (natBits x.toNat 8 6) r (if x.getLsbD 5 then -(2 ^ 31 : Nat) else 0)
    (if x.getLsbD 5 then (2 ^ 31 : Nat) - 1 else (2 ^ 32 : Nat) - 1) (if x.getLsbD 3 then v.abs else v)

theorem fpuF2i_eq (x : BitVec 9) (r : Nat → Nat) (a : Nat) :
    let q := f2iFit x (r 0) a
    fpuF2i x r a = (⟨wrapNat 32 q.1, convFlags (Val.ofInt q.1) q.2⟩, bit01 q.2) := rfl

/-! ### FCVT -/

theorem kindFmt_top (k : Nat) : (kindFmt k).top = .ieee := by
  unfold kindFmt
  split <;> rfl

theorem fitConvert_fin (f : Fmt) (rm r : Nat) (s : Bool) (n d : Nat) :
    let u := roundMag f rm s r n d
    fitConvert f rm r (.fin s n d) = (f.signed s (min u f.maxCode), decide (f.maxCode < u)) := by
  simp only [fitConvert]
  split
  · next hu => simp [hu]
  · next hu => simp [Nat.min_eq_right (Nat.le_of_not_le hu), Nat.lt_of_not_le hu]

/-- The fit of a value to a format of a kind, flushed where it is subnormal. -/
theorem fitConvert_clamps (k rm r : Nat) (fz : Bool) (v : Val) :
    let f := kindFmt k
    let q := fitConvert f rm r v
    (v = .nan → f.flush fz q.1 = f.nanCode ∧ q.2 = false) ∧
    (∀ n, v = .inf n → f.flush fz q.1 = f.signed n f.infCode ∧ q.2 = false) ∧
    ∀ n m d, v = .fin n m d →
      let u := roundMag f rm n r m d
      f.flush fz q.1 = f.flush fz (f.signed n (min u f.maxCode)) ∧ q.2 = decide (f.maxCode < u) := by
  refine ⟨?_, fun n => ?_, fun n m d => ?_⟩
  · rintro rfl
    exact ⟨Fmt.flush_nanCode (kindFmt_mem k) fz, by rw [fitConvert, kindFmt_top]; rfl⟩
  · rintro rfl
    simp only [fitConvert, kindFmt_top, if_true]
    exact ⟨Fmt.flush_infCode (kindFmt_mem k) fz n, trivial⟩
  · rintro rfl
    simp only [fitConvert_fin, and_self]

/-- The fit that FCVT makes of a lane's source, and whether it saturates (06 R145). -/
def fcvtFit (x : BitVec 9) (r a : Nat) : Nat × Bool :=
  let sk := natBits x.toNat 5 4
  fitConvert (kindFmt (natBits x.toNat 3 2)) (natBits x.toNat 8 6) r
    (srcVal (kindFmt sk) (x.getLsbD 0) (if 2 ≤ sk then (if x.getLsbD 1 then a / 2 ^ 16 else a) % 2 ^ 16 else a))

theorem fpuFcvt_eq (x : BitVec 9) (r : Nat → Nat) (a : Nat) :
    let f := kindFmt (natBits x.toNat 3 2)
    let q := fcvtFit x (r 0) a
    let code := f.flush (x.getLsbD 0) q.1
    fpuFcvt x r a = (⟨code, convFlags (f.decode code) q.2⟩, bit01 q.2) := by
  simp only [fpuFcvt, fcvtFit, apply_ite (· % 2 ^ 16)]

theorem intRange_le (signed : Bool) :
    (if signed then -(2 ^ 31 : Nat) else 0 : Int) ≤ if signed then ((2 ^ 31 : Nat) : Int) - 1 else ((2 ^ 32 : Nat) : Int) - 1 := by
  cases signed <;> decide

/-! ### I2F -/

theorem elem_zero (a : Nat) (signed : Bool) : elem a 0 32 signed = if signed then toSigned 32 a else (a : Int) % 2 ^ 32 := by
  cases signed with
  | true => rfl
  | false => exact Int.natCast_emod a (2 ^ 32)

/-- Settles O18: each conversion is its one fit, and the lanes counted are those that the fit saturates. -/
theorem conversions : Obligations.Conversions := by
  intro x s b c h
  let a := fun l => s.src (x.x.getLsbD 4) x.a l
  let a' := fun l => s.src (natBits x.x.toNat 5 4 == 1) x.a l
  let r := fun l => s.laneRandom x.d l 0
  refine ⟨⟨fun l => (f2iFit x.x (r l) (a l)).1, fun l => (f2iFit x.x (r l) (a l)).2,
      cvtLanes_converts h x rfl fun l => fpuF2i_eq .., fun l => fitInt_clamps (intRange_le _) ..⟩,
    ⟨fun l => (fpuI2f x.x (s.laneRandom x.d l) (s.src false x.a l)).val, cvtLanes_converts h x rfl fun l => rfl, fun l => ?_⟩,
    ⟨fun l => (kindFmt (natBits x.x.toNat 3 2)).flush (x.x.getLsbD 0) (fcvtFit x.x (r l) (a' l)).1, fun l => (fcvtFit x.x (r l) (a' l)).2,
      cvtLanes_converts h x rfl fun l => fpuFcvt_eq .., fun l => fitConvert_clamps ..⟩⟩
  simp only [fpuI2f, elem_zero]

end Sys2Proof.Machine
end

section
/-! SUPPORT. The sum latches: the folds of a push, the read and the clear (06 R152, R153). -/

namespace Sys2Proof.Machine

variable {s : State} {b : Block} {c : Crew}

/-! ### The order of values -/

/-- A value that is no number, or has a positive denominator: every value that a code stands for. -/
def Val.Proper : Val → Prop
  | .fin _ _ d => 0 < d
  | _ => True

theorem Val.ofScaled_proper (neg : Bool) (m : Nat) (e : Int) : (Val.ofScaled neg m e).Proper := by
  unfold Val.ofScaled
  split
  · exact Nat.one_pos
  · exact Nat.two_pow_pos _

theorem Fmt.decode_proper (f : Fmt) (code : Nat) : (f.decode code).Proper := by
  simp only [Fmt.decode]
  split
  · split <;> trivial
  · split
    · trivial
    · split <;> exact Val.ofScaled_proper ..

theorem Val.lt_irrefl (x : Val) : x.lt x = false := by
  cases x with
  | nan => rfl
  | inf s => cases s <;> rfl
  | fin s n d => cases s <;> simp [Val.lt]

/-- Quotients by cross-multiplication: over positive denominators less than is transitive. -/
theorem cross_lt_trans {a₁ a₂ a₃ d₁ d₂ d₃ : Int} (h₁ : 0 < d₁) (h₂ : 0 < d₂) (h₃ : 0 < d₃)
    (h12 : a₁ * d₂ < a₂ * d₁) (h23 : a₂ * d₃ < a₃ * d₂) : a₁ * d₃ < a₃ * d₁ := by
  have h12' := Int.mul_lt_mul_of_pos_right h12 h₃
  have h23' := Int.mul_lt_mul_of_pos_right h23 h₁
  refine Int.lt_of_mul_lt_mul_right ?_ (Int.le_of_lt h₂)
  calc a₁ * d₃ * d₂ = a₁ * d₂ * d₃ := Int.mul_right_comm ..
    _ < a₂ * d₁ * d₃ := h12'
    _ = a₂ * d₃ * d₁ := Int.mul_right_comm ..
    _ < a₃ * d₂ * d₁ := h23'
    _ = a₃ * d₁ * d₂ := Int.mul_right_comm ..

theorem signedNum_zero (s : Bool) : signedNum s 0 = 0 := by cases s <;> rfl

/-- Finite values by their quotients, and two zeros by their signs. -/
theorem Val.lt_fin_iff (s t : Bool) (n d m e : Nat) : (Val.fin s n d).lt (.fin t m e) = true ↔
    signedNum s n * e < signedNum t m * d ∨ (n = 0 ∧ m = 0 ∧ s = true ∧ t = false) := by
  have hmul : ∀ (s : Bool) (n d : Nat), (if s then -((n * d : Nat) : Int) else ((n * d : Nat) : Int)) = signedNum s n * d :=
    fun s n d => by
      cases s with
      | false => exact Int.natCast_mul n d
      | true => exact (congrArg Neg.neg (Int.natCast_mul n d)).trans (Int.neg_mul ..).symm
  rw [Val.lt]
  split
  · next hzero =>
    obtain ⟨rfl, rfl⟩ := hzero
    simp [signedNum]
  · next hzero => simp [← hmul, ← and_assoc, hzero]

theorem Val.inf_lt {s : Bool} {y : Val} (h : (Val.inf s).lt y = true) : s = true := by
  cases y <;> simp_all [Val.lt]

theorem Val.lt_inf {x : Val} {t : Bool} (h : x.lt (.inf t) = true) : t = false := by
  cases x <;> simp_all [Val.lt]

theorem Val.lt_nan (x : Val) : x.lt .nan = false := by cases x <;> rfl

theorem Val.lt_trans_of_proper {x y z : Val} (hx : x.Proper) (hy : y.Proper) (hz : z.Proper) (hxy : x.lt y = true) (hyz : y.lt z = true) :
    x.lt z = true := by
  cases x with
  | nan => cases hxy
  | inf s =>
    rw [Val.inf_lt hxy]
    cases z with
    | nan => rw [Val.lt_nan] at hyz; cases hyz
    | inf u => rw [Val.lt_inf hyz]; rfl
    | fin u p g => rfl
  | fin s n d =>
    cases y with
    | nan => cases hxy
    | inf t => cases (Val.lt_inf hxy).symm.trans (Val.inf_lt hyz)
    | fin t m e =>
      cases z with
      | nan => cases hyz
      | inf u => rw [Val.lt_inf hyz]; rfl
      | fin u p g =>
        have hd : (0 : Int) < d := Int.natCast_pos.2 hx
        have he : (0 : Int) < e := Int.natCast_pos.2 hy
        have hg : (0 : Int) < g := Int.natCast_pos.2 hz
        rw [Val.lt_fin_iff] at hxy hyz ⊢
        rcases hxy with hxy | ⟨rfl, rfl, rfl, rfl⟩ <;> rcases hyz with hyz | ⟨hm, hp, ht, hu⟩
        · exact .inl (cross_lt_trans hd he hg hxy hyz)
        · subst hm hp
          simp only [signedNum_zero, Int.zero_mul] at hxy ⊢
          exact .inl (Int.mul_neg_of_neg_of_pos (Int.neg_of_mul_neg_left hxy he) hg)
        · simp only [signedNum_zero, Int.zero_mul] at hyz ⊢
          exact .inl (Int.mul_pos (Int.pos_of_mul_pos_left hyz he) hd)
        · cases ht

/-! ### Choosing one value of a list -/

/-- The choice between two values by a relation: a NaN gives way to a number, and the second comes in where the first stands
under it (06 R140). -/
def Val.choose (under : Val → Val → Bool) (a b : Val) : Val := if a.isNan then b else if b.isNan then a else if under a b then b else a

/-- A value chosen of a list: one of it, a NaN only where all are, and under none of it. -/
def Val.Chosen (under : Val → Val → Bool) (r : Val) (xs : List Val) : Prop :=
  r ∈ xs ∧ (r = .nan → ∀ z ∈ xs, z = .nan) ∧ ∀ z ∈ xs, under r z = false

/-- A relation by which a choice is of the whole list: no value stands under itself or a NaN, nor a NaN under it, and what stands
under one stands under all that that one stands under. -/
structure Val.ChoiceOrder (under : Val → Val → Bool) : Prop where
  irrefl : ∀ x, under x x = false
  nan_left : ∀ x, under .nan x = false
  nan_right : ∀ x, under x .nan = false
  trans : ∀ x y z : Val, x.Proper → y.Proper → z.Proper → under x y = true → under y z = true → under x z = true

theorem choiceOrder_lt : Val.ChoiceOrder Val.lt := ⟨Val.lt_irrefl, fun _ => rfl, Val.lt_nan, fun _ _ _ => Val.lt_trans_of_proper⟩

theorem choiceOrder_gt : Val.ChoiceOrder (fun a b => b.lt a) :=
  ⟨Val.lt_irrefl, Val.lt_nan, fun _ => rfl, fun _ _ _ hx hy hz hxy hyz => Val.lt_trans_of_proper hz hy hx hyz hxy⟩

theorem Val.isNan_iff (v : Val) : v.isNan = true ↔ v = .nan := by cases v <;> simp [Val.isNan]

section
variable {under : Val → Val → Bool} (ho : Val.ChoiceOrder under)
include ho

theorem Val.Chosen.choose {r x : Val} {xs : List Val} (h : Val.Chosen under r xs) (hx : x.Proper) (hxs : ∀ z ∈ xs, z.Proper) :
    Val.Chosen under (Val.choose under r x) (xs ++ [x]) := by
  obtain ⟨hmem, hnan, hunder⟩ := h
  have hmore : ∀ {p : Val → Prop}, (∀ z ∈ xs, p z) → p x → ∀ z ∈ xs ++ [x], p z := fun hp hpx =>
    List.forall_mem_append.2 ⟨hp, List.forall_mem_singleton.2 hpx⟩
  have hr' : r ∈ xs ++ [x] := List.mem_append_left _ hmem
  have hx' : x ∈ xs ++ [x] := List.mem_append_right _ (List.mem_singleton_self x)
  simp only [Val.choose, Val.isNan_iff]
  by_cases hr : r = .nan
  · have hall := hnan hr
    rw [if_pos hr]
    exact ⟨hx', fun hx => hmore hall hx, hmore (fun z hz => hall z hz ▸ ho.nan_right x) (ho.irrefl x)⟩
  · rw [if_neg hr]
    by_cases hxn : x = .nan
    · rw [if_pos hxn]
      exact ⟨hr', fun h => absurd h hr, hmore hunder (hxn ▸ ho.nan_right r)⟩
    · rw [if_neg hxn]
      by_cases hrx : under r x = true
      · rw [if_pos hrx]
        refine ⟨hx', fun h => absurd h hxn, hmore (fun z hz => ?_) (ho.irrefl x)⟩
        refine Bool.eq_false_iff.2 fun hxz => Bool.eq_false_iff.1 (hunder z hz) ?_
        exact ho.trans r x z (hxs r hmem) hx (hxs z hz) hrx hxz
      · rw [if_neg hrx]
        exact ⟨hr', fun h => absurd h hr, hmore hunder (Bool.eq_false_iff.2 hrx)⟩

/-- A fold that chooses in turn has chosen of the whole list. -/
theorem Val.foldl_choose {x : Val} {xs : List Val} (h : ∀ z ∈ x :: xs, z.Proper) :
    Val.Chosen under (xs.foldl (Val.choose under) x) (x :: xs) := by
  suffices ∀ (r : Val) (ys : List Val), Val.Chosen under r ys → (∀ z ∈ ys ++ xs, z.Proper) →
      Val.Chosen under (xs.foldl (Val.choose under) r) (ys ++ xs) from
    this x [x] ⟨by simp, by simp, by simpa using ho.irrefl x⟩ h
  clear h
  induction xs with
  | nil => exact fun r ys hr _ => by simpa using hr
  | cons y xs ih =>
    intro r ys hr hys
    rw [List.append_cons] at hys ⊢
    exact ih _ _ (hr.choose ho (hys y (by simp)) fun z hz => hys z (by simp [hz])) hys

end

/-! ### What a push folds (06 R152) -/

theorem map_decode_proper (xs : List Nat) : ∀ z ∈ xs.map fp32.decode, z.Proper := by
  simp [Fmt.decode_proper]

theorem redPush_max (v : Nat) (xs : List Nat) :
    redPush 2 v xs = exactBits fp32 ((xs.map fp32.decode).foldl (Val.choose Val.lt) (fp32.decode v)) := by
  rw [List.foldl_map]
  rfl

theorem redPush_min (v : Nat) (xs : List Nat) :
    redPush 3 v xs = exactBits fp32 ((xs.map fp32.decode).foldl (Val.choose (fun a b => b.lt a)) (fp32.decode v)) := by
  rw [List.foldl_map]
  rfl

/-- A latch that takes a chosen value: the canonical NaN where there are NaNs alone, else one number's bits. -/
theorem Val.Chosen.bits {under : Val → Val → Bool} {r : Val} {all : List Val} (h : Val.Chosen under r all) :
    ((∀ y ∈ all, y = .nan) → exactBits fp32 r = 0x7FC00000) ∧ ((∃ y ∈ all, y ≠ .nan) →
      ∃ y ∈ all, y ≠ .nan ∧ exactBits fp32 r = fitArith fp32 0 0 y ∧ ∀ z ∈ all, under y z = false) := by
  obtain ⟨hmem, hnan, hunder⟩ := h
  refine ⟨fun hall => ?_, fun ⟨y, hy, hne⟩ => ⟨r, hmem, fun hr => hne (hnan hr y hy), rfl, hunder⟩⟩
  rw [hall r hmem]
  rfl

theorem redPush_maxMin {op : Nat} (hop : op = 2 ∨ op = 3) (v : Nat) (xs : List Nat) :
    let all := (v :: xs).map fp32.decode
    ((∀ y ∈ all, y = .nan) → redPush op v xs = 0x7FC00000) ∧ ((∃ y ∈ all, y ≠ .nan) →
      ∃ y ∈ all, y ≠ .nan ∧ redPush op v xs = fitArith fp32 0 0 y ∧
        ∀ z ∈ all, (if op = 2 then y.lt z else z.lt y) = false) := by
  rcases hop with rfl | rfl
  · rw [redPush_max]
    exact (Val.foldl_choose choiceOrder_lt (map_decode_proper (v :: xs))).bits
  · rw [redPush_min]
    exact (Val.foldl_choose choiceOrder_gt (map_decode_proper (v :: xs))).bits

theorem Val.abs_proper {v : Val} (h : v.Proper) : v.abs.Proper := by
  cases v <;> exact h

/-- A magnitude that +0 is not below is a zero. -/
theorem Val.abs_eq_zero_of_not_lt {v : Val} (hv : v ≠ .nan) (h : (Val.fin false 0 1).lt v.abs = false) :
    ∃ d, v.abs = .fin false 0 d := by
  cases v with
  | nan => exact absurd rfl hv
  | inf s => cases h
  | fin s n d =>
    have hn : ¬ 0 < n := by
      simpa [Val.abs, Val.lt_fin_iff, signedNum] using mt (Val.lt_fin_iff false false 0 1 n d).2 (Bool.eq_false_iff.1 h)
    exact ⟨d, by rw [Val.abs, Nat.eq_zero_of_not_pos hn]⟩

theorem redPush_absMax_eq (v : Nat) (xs : List Nat) :
    redPush 1 v xs =
      let all := (v :: xs).map fp32.decode
      if Val.nan ∈ all then 0x7FC00000 else exactBits fp32 ((all.map Val.abs).foldl (Val.choose Val.lt) (.fin false 0 1)) := by
  have hnan : ∀ all : List Val, (all.map Val.abs).any Val.isNan = true ↔ Val.nan ∈ all := fun all => by
    simp only [List.any_map, List.any_eq_true, Function.comp]
    refine ⟨fun ⟨y, hy, h⟩ => ?_, fun h => ⟨_, h, rfl⟩⟩
    cases y with
    | nan => exact hy
    | inf s => cases h
    | fin s n d => cases h
  simp only [← hnan, List.map_map]
  rfl

/-- The greatest magnitude of numbers: the fold begins at +0, which any zero among them stands for. -/
theorem foldl_absMax {all : List Val} (hne : all ≠ []) (hnan : Val.nan ∉ all) (hall : ∀ z ∈ all, z.Proper) :
    ∃ y ∈ all, exactBits fp32 ((all.map Val.abs).foldl (Val.choose Val.lt) (.fin false 0 1)) = fitArith fp32 0 0 y.abs ∧
      ∀ z ∈ all, y.abs.lt z.abs = false := by
  have hproper : ∀ z ∈ Val.fin false 0 1 :: all.map Val.abs, z.Proper :=
    List.forall_mem_cons.2 ⟨Nat.one_pos, List.forall_mem_map.2 fun z hz => Val.abs_proper (hall z hz)⟩
  obtain ⟨hmem, -, hunder⟩ := Val.foldl_choose choiceOrder_lt hproper
  have hunder' : ∀ z ∈ all, Val.lt _ z.abs = false := fun z hz => hunder _ (List.mem_cons_of_mem _ (List.mem_map_of_mem hz))
  rcases List.mem_cons.1 hmem with hzero | hmem
  · rw [hzero] at hunder' ⊢
    have habs : ∀ z ∈ all, ∃ d, z.abs = .fin false 0 d :=
      fun z hz => Val.abs_eq_zero_of_not_lt (fun h => hnan (h ▸ hz)) (hunder' z hz)
    obtain ⟨y, hy⟩ := List.exists_mem_of_ne_nil all hne
    obtain ⟨d, hd⟩ := habs y hy
    refine ⟨y, hy, by rw [hd, exactBits, fitArith_zero, fitArith_zero], fun z hz => ?_⟩
    obtain ⟨e, he⟩ := habs z hz
    rw [hd, he]
    rfl
  · obtain ⟨y, hy, hr⟩ := List.mem_map.1 hmem
    rw [← hr] at hunder' ⊢
    exact ⟨y, hy, rfl, hunder'⟩

theorem redPush_absMax {op : Nat} (hop : op = 1) (v : Nat) (xs : List Nat) :
    let all := (v :: xs).map fp32.decode
    (Val.nan ∈ all → redPush op v xs = 0x7FC00000) ∧ (Val.nan ∉ all → ∃ y ∈ all, redPush op v xs = fitArith fp32 0 0 y.abs ∧
      ∀ z ∈ all, y.abs.lt z.abs = false) := by
  subst hop
  rw [redPush_absMax_eq]
  refine ⟨fun h => if_pos h, fun h => ?_⟩
  simp only [if_neg h]
  exact foldl_absMax (by simp) h (map_decode_proper _)

theorem redPush_sum {op : Nat} (hop : op = 4) (v : Nat) (xs : List Nat) :
    redPush op v xs = wrapNat 32 ((v :: xs).map (toSigned 32)).sum := by
  subst hop
  rw [List.map_cons, List.sum_eq_foldl, List.foldl_cons, List.foldl_map, Int.zero_add]
  rfl

/-! ### The three instructions -/

/-- A destination holds no sum latch. -/
theorem CrewCore.writeReg_sl (p : CrewCore) (m : Lanes) (d : BitVec 8) (n : Nat) (f : Nat → Nat) : (p.writeReg m d n f).sl = p.sl := by
  unfold CrewCore.writeReg
  split
  · rfl
  · split
    · split <;> rfl
    · rfl

theorem redIdentity_eq (op : Nat) :
    BitVec.ofNat 32 (redIdentity op) = if op = 2 then 0xFF800000 else if op = 3 then 0x7F800000 else 0 := by
  unfold redIdentity
  split
  · rfl
  · split <;> rfl

/-- RED.MOV writes D as any result, and then clears the latch where some lane reads it and CLR asks for it. -/
theorem redMov_completes (h : s.gang? = some (b, c)) (x : ArgsR) :
    let n := natBits x.x.toNat 1 0
    let m := s.active x.g
    let sl := if m ≠ 0 ∧ x.x.getLsbD 5 then Map.set 0 c.core.sl n (BitVec.ofNat 32 (redIdentity (natBits x.x.toNat 4 2))) else c.core.sl
    exec (.redMov x) s = .next (s.onCrew (fun _ =>
      { c.core.writeReg m x.d 1 (fun _ => (Map.get 0 s.pre.sl n).toNat) with sl := sl })) := by
  intro n m sl
  let w := c.core.writeReg m x.d 1 (fun _ => (Map.get 0 s.pre.sl n).toNat)
  have hsl : w.sl = c.core.sl := CrewCore.writeReg_sl ..
  have hwrite : s.writeReg m x.d 1 (fun _ => (Map.get 0 s.pre.sl n).toNat) = s.onCrew (fun _ => w) := State.onCrew_eq h _
  refine congrArg Host.Outcome.next ?_
  change (if m ≠ 0 ∧ x.x.getLsbD 5 then _ else _) = _
  rw [hwrite, State.onCrew_onCrew]
  by_cases hclr : m ≠ 0 ∧ x.x.getLsbD 5
  · simp only [if_pos hclr, sl, CrewCore.clearLatch, hsl]
    rfl
  · simp only [if_neg hclr, sl, ← hsl]
    rfl

/-- Settles O20: a push folds the latch with its lanes' values, and the read and the clear act on the latch alone beside D. -/
theorem sumLatches : Obligations.SumLatches := by
  intro x s b c h n op m latch cleared
  have hcleared : cleared = Map.set 0 c.core.sl n (BitVec.ofNat 32 (redIdentity op)) := by rw [redIdentity_eq]
  rw [hcleared]
  refine ⟨⟨fun v e => redPush op v ((laneList e).map (s.src false x.a)), ?_, fun v e => ?_⟩, ?_, ?_⟩
  · simp only [← List.isEmpty_iff]
    rfl
  · refine ⟨fun hop => ?_, fun hop => redPush_absMax hop _ _, fun hop => redPush_maxMin hop _ _, fun hop => redPush_sum hop _ _⟩
    simp only [hop]
    rfl
  · refine ⟨_, redMov_completes h x, ?_, rfl⟩
    have hw := wrote_writeReg c.core m x.d 1 (fun _ => latch.toNat) fun l hl => State.active_holds h x.g hl
    exact (CrewCore.writeReg_sl c.core m x.d 1 (fun _ => latch.toNat)) ▸ hw
  · refine congrArg (fun t => Host.Outcome.next (if m ≠ 0 then t else s)) ?_
    exact (State.onCrew_eq h _).trans
      (State.onCrew_eq h (fun p => { p with sl := Map.set 0 c.core.sl n (BitVec.ofNat 32 (redIdentity op)) })).symm

end Sys2Proof.Machine
end
